-- ==== Sys2Proof/Word.lean ====
section
/-! DEFINITION. The word types of the NL8-4D and the table type that holds its sparse state. -/

namespace Sys2Proof

/-- A byte (01_machine.md R5). -/
abbrev Byte := BitVec 8
/-- A 32-bit register value (01_machine.md R17). -/
abbrev W32 := BitVec 32
/-- A 64-bit pair, keeper scalar or system register. -/
abbrev W64 := BitVec 64
/-- A 56-bit address of code (02_execution_model.md R37). -/
abbrev Addr := BitVec 56
/-- The number of a thread register d0-d255 (R64). -/
abbrev Reg := BitVec 8
/-- The number of a predicate p0-p15 (R64). -/
abbrev Pred := BitVec 4
/-- The number of a keeper scalar k0-k63 (R74). -/
abbrev KReg := BitVec 6
/-- The number of a keeper predicate q0-q7 (R74). -/
abbrev QReg := BitVec 3
/-- The number of a stream register s0-s15 (R74). -/
abbrev SReg := BitVec 4
/-- The number of a ring register c0-c7 (R74). -/
abbrev CReg := BitVec 3
/-- The number of an accumulator tile a0-a63 (R74). -/
abbrev AReg := BitVec 6
/-- A table: entries by number, in rising order of number, none equal to what an unlisted number reads as. -/
abbrev Tbl (α : Type) := List (Nat × α)

end Sys2Proof
end

