-- ==== Sys2Proof/Syntax.lean ====
section
/-! DEFINITION. The instructions of the NL8-4D: one constructor per row of spec/opcode_table.json. Operand fields carry the
names of 03_encodings.md; a code of a closed set is a constructor, never a raw encoding. -/

namespace Sys2Proof

/-- The guard G of a thread instruction (R59, R60): predicate `p`, inverted when `neg`. -/
structure Guard where
  neg : Bool
  p : Pred
  deriving DecidableEq, Repr

/-- Scope codes 0 to 6 (00_scope.md R7). -/
inductive Scope where
  | block | core | cluster | die | device | system | fabric
  deriving DecidableEq, Repr

/-- Memory order (R62). -/
inductive Order where
  | weak | acq | rel | ar
  deriving DecidableEq, Repr

/-- The order of a fence, which is never weak (R264, R282). -/
inductive FenceKind where
  | acq | rel | ar
  deriving DecidableEq, Repr

/-- Rounding modes RM (R65). -/
inductive Rm where
  | rne | rtz | rup | rdn
  deriving DecidableEq, Repr

/-- Float operand types FT (R65). -/
inductive FTy where
  | f32 | h2f16 | h2bf16
  deriving DecidableEq, Repr

/-- Element type codes 0 to 12 (R76). -/
inductive Ty where
  | s8 | z8 | s16 | z16 | s32 | z32 | f32 | f16 | bf16 | f8a | f8b | q8 | q4
  deriving DecidableEq, Repr

/-- Overflow modes OVF 0 to 2 (R100). -/
inductive Ovf where
  | sat | nan | inf
  deriving DecidableEq, Repr

/-- Integer condition codes (R77). -/
inductive Cond where
  | eq | ne | lt | ge | ltu | geu | le | gt
  deriving DecidableEq, Repr

/-- Float condition codes (R121). -/
inductive FCond where
  | eq | ne | lt | ge | uo | ord | le | gt
  deriving DecidableEq, Repr

/-- Access sizes SZ 0 to 6 (R62). -/
inductive Sz where
  | s8 | z8 | s16 | z16 | w32 | w64 | w128
  deriving DecidableEq, Repr

/-- Cache hints CH (R62). -/
inductive Hint where
  | none | keep | strm | nol1
  deriving DecidableEq, Repr

/-- Branch hints H 0 to 3 (R63). -/
inductive BrHint where
  | none | likely | unlikely | loop
  deriving DecidableEq, Repr

/-- Lane exchange modes (R141). -/
inductive ShflMode where
  | idx | up | down | xor
  deriving DecidableEq, Repr

/-- Segment widths SG 0 to 4 of `shfl` (R141). -/
inductive Seg where
  | w16 | w8 | w4 | w2 | w1
  deriving DecidableEq, Repr

/-- Atomic operations AOP 0 to 10 (R261). -/
inductive AtomOp where
  | add | and | or | xor | min | max | minu | maxu | xchg | inc | fadd
  deriving DecidableEq, Repr

/-- Special registers (R75). -/
inductive Special where
  | tid | bid0 | bid1 | bid2 | bid3 | lane | clu | core | die | dev | scr | clock | amax | fflags
  deriving DecidableEq, Repr

/-- System registers (R346). -/
inductive SysReg where
  | pstat | tvec | frameb | ctxid | asid | ptroot | ctxst | dpbound | age | detmode | kvpool | walkstk | casttb | xtrig
  | fflags0 | fflags1 | fflags2 | fflags3 | fflags4 | fflags5 | cntthr | nqbase | fqbase
  deriving DecidableEq, Repr

/-- Targets of `cinval` (R357). -/
inductive CacheTgt where
  | thread | keeper | both | data
  deriving DecidableEq, Repr

/-- Register counts W of `accld` and `accst` (R288). -/
inductive AccW where
  | w1 | w2 | w4 | w8
  deriving DecidableEq, Repr

/-- The conversion of a converting copy (R274): CV = 1 with TS, TD and OVF. -/
structure CopyCv where
  ts : Ty
  td : Ty
  ovf : Ovf
  deriving DecidableEq, Repr

/-- What every slot word carries (R71): hold bit H and guard predicate GQ. -/
structure Slot where
  h : Bool
  q : QReg
  deriving DecidableEq, Repr

/-- Destination and one source (R61, format R). -/
structure R2 where
  g : Guard
  d : Reg
  a : Reg
  deriving DecidableEq, Repr

/-- `R2` with one modifier bit (SAT, W). -/
structure R2f where
  g : Guard
  d : Reg
  a : Reg
  f : Bool
  deriving DecidableEq, Repr

/-- Destination and two sources (R112). -/
structure R3 where
  g : Guard
  d : Reg
  a : Reg
  b : Reg
  deriving DecidableEq, Repr

/-- `R3` with one modifier bit (U, A, RT, S). -/
structure R3f where
  g : Guard
  d : Reg
  a : Reg
  b : Reg
  f : Bool
  deriving DecidableEq, Repr

/-- Destination and three sources (R112). -/
structure R4 where
  g : Guard
  d : Reg
  a : Reg
  b : Reg
  c : Reg
  deriving DecidableEq, Repr

/-- Operands of `addx` and `subx` (R116). -/
structure CarryOp where
  g : Guard
  d : Reg
  a : Reg
  b : Reg
  ce : Bool
  cin : Pred
  co : Pred
  deriving DecidableEq, Repr

/-- Operands of `lea` (R117). -/
structure LeaOp where
  g : Guard
  d : Reg
  a : Reg
  b : Reg
  sx : Bool
  sh : BitVec 3
  deriving DecidableEq, Repr

/-- Operands of `idot4` and `idot8` (R118). -/
structure DotOp where
  g : Guard
  d : Reg
  a : Reg
  b : Reg
  c : Reg
  sa : Bool
  sb : Bool
  sat : Bool
  deriving DecidableEq, Repr

/-- Operands of an I-format instruction (R119). -/
structure ImmOp where
  g : Guard
  d : Reg
  a : Reg
  imm : W32
  deriving DecidableEq, Repr

/-- Operands of `shli` and `shri` (R119); `ar` is the A bit of `shri`. -/
structure ShiftImm where
  g : Guard
  d : Reg
  a : Reg
  ar : Bool
  n : BitVec 5
  deriving DecidableEq, Repr

/-- Operands of `movi` (R119). -/
structure MoviOp where
  g : Guard
  d : Reg
  imm : W32
  deriving DecidableEq, Repr

/-- Operands of `movih` (R119). -/
structure MovihOp where
  g : Guard
  d : Reg
  a : Reg
  imm : BitVec 16
  deriving DecidableEq, Repr

/-- Operands of `cmpi` (R120). -/
structure CmpiOp where
  g : Guard
  pd : Pred
  pe : Pred
  a : Reg
  cond : Cond
  imm : W32
  deriving DecidableEq, Repr

/-- Operands of `cmp` on integers (R120). -/
structure CmpOp where
  g : Guard
  pd : Pred
  pe : Pred
  a : Reg
  b : Reg
  cond : Cond
  deriving DecidableEq, Repr

/-- Operands of `cmp` on floats (R121). -/
structure CmpFOp where
  g : Guard
  pd : Pred
  pe : Pred
  a : Reg
  b : Reg
  cond : FCond
  hs : Bool
  ty : FTy
  deriving DecidableEq, Repr

/-- Operands of `plog` (R122). -/
structure PlogOp where
  g : Guard
  pd : Pred
  pe : Pred
  pa : Pred
  pb : Pred
  tt : BitVec 4
  deriving DecidableEq, Repr

/-- Operand of `p2d` (R123). -/
structure P2dOp where
  g : Guard
  d : Reg
  deriving DecidableEq, Repr

/-- Operands of `d2p` (R123); `mask` holds M[15:1]. -/
structure D2pOp where
  g : Guard
  a : Reg
  mask : BitVec 15
  deriving DecidableEq, Repr

/-- Operands of `sel` (R124). -/
structure SelOp where
  g : Guard
  d : Reg
  a : Reg
  b : Reg
  s : Pred
  n : Bool
  w : Bool
  deriving DecidableEq, Repr

/-- Operands of a two-source float instruction (R126). -/
structure F3 where
  g : Guard
  d : Reg
  a : Reg
  b : Reg
  rm : Rm
  ty : FTy
  deriving DecidableEq, Repr

/-- Operands of `fma` (R126). -/
structure F4 where
  g : Guard
  d : Reg
  a : Reg
  b : Reg
  c : Reg
  rm : Rm
  ty : FTy
  deriving DecidableEq, Repr

/-- Operands of `fmin` and `fmax` (R127). -/
structure FMinOp where
  g : Guard
  d : Reg
  a : Reg
  b : Reg
  ty : FTy
  deriving DecidableEq, Repr

/-- Operands of `fdot2` (R128); `bf` selects `h2.bf16`. -/
structure FDotOp where
  g : Guard
  d : Reg
  a : Reg
  b : Reg
  c : Reg
  rm : Rm
  bf : Bool
  deriving DecidableEq, Repr

/-- Operands of `fclass` (R129). -/
structure FClassOp where
  g : Guard
  d : Reg
  a : Reg
  ty : FTy
  deriving DecidableEq, Repr

/-- Operands of `frnd` (R130). -/
structure FRndOp where
  g : Guard
  d : Reg
  a : Reg
  rm : Rm
  ty : FTy
  x : Bool
  deriving DecidableEq, Repr

/-- Operands of `cvt` (R131). -/
structure CvtOp where
  g : Guard
  d : Reg
  a : Reg
  td : Ty
  ts : Ty
  rm : Rm
  ovf : Ovf
  sel : BitVec 2
  deriving DecidableEq, Repr

/-- Operands of `cvtf` (R132). -/
structure CvtfOp where
  g : Guard
  d : Reg
  a : Reg
  b : Reg
  td : Ty
  rm : Rm
  ovf : Ovf
  deriving DecidableEq, Repr

/-- Operands of `quant` and `deq` (R133, R134); `ty` is the quantised type. -/
structure QuantOp where
  g : Guard
  d : Reg
  a : Reg
  b : Reg
  c : Reg
  ty : Ty
  rm : Rm
  deriving DecidableEq, Repr

/-- Operands of `amax` (R135). -/
structure AmaxOp where
  g : Guard
  d : Reg
  a : Reg
  ts : Ty
  deriving DecidableEq, Repr

/-- Operands of a special-function instruction (R137). -/
structure SfuOp where
  g : Guard
  d : Reg
  a : Reg
  rm : Rm
  deriving DecidableEq, Repr

/-- Operands of `rds` (R140). -/
structure RdsOp where
  g : Guard
  d : Reg
  name : Special
  clr : Bool
  deriving DecidableEq, Repr

/-- Operands of `shfl` (R141). -/
structure ShflOp where
  g : Guard
  d : Reg
  a : Reg
  b : Reg
  mode : ShflMode
  seg : Seg
  i : Bool
  k : BitVec 4
  deriving DecidableEq, Repr

/-- Operands of `br` (R142). -/
structure BrOp where
  g : Guard
  hint : BrHint
  off : W32
  deriving DecidableEq, Repr

/-- Operands of `call` and `brc` (R142). -/
structure BrDOp where
  g : Guard
  d : Reg
  hint : BrHint
  off : W32
  deriving DecidableEq, Repr

/-- One source register or pair. -/
structure RegOp where
  g : Guard
  a : Reg
  deriving DecidableEq, Repr

/-- Operands of the direct `reform` (R144). -/
structure OffOp where
  g : Guard
  off : W32
  deriving DecidableEq, Repr

/-- Operands of `gate` (R146). -/
structure GateOp where
  g : Guard
  a : Reg
  b : Reg
  c : Reg
  deriving DecidableEq, Repr

/-- Operand of `trap` and `brk` (R147). -/
structure NumOp where
  g : Guard
  n : BitVec 8
  deriving DecidableEq, Repr

/-- Operands of `ld` and `st` (R148, R149); `ord` is the scope of the acquire or release, none when weak. -/
structure LdOp where
  g : Guard
  d : Reg
  a : Reg
  ord : Option Scope
  size : Sz
  hint : Hint
  ofs : BitVec 25
  deriving DecidableEq, Repr

/-- Operands of `ldr` and `str` (R259). -/
structure LdrOp where
  g : Guard
  d : Reg
  a : Reg
  ord : Option Scope
  hint : Hint
  ofs : BitVec 25
  deriving DecidableEq, Repr

/-- Operands of `pub` (R259). -/
structure PubOp where
  g : Guard
  d : Reg
  a : Reg
  scope : Scope
  ofs : BitVec 25
  deriving DecidableEq, Repr

/-- Operands of `pref` (R150). -/
structure PrefOp where
  g : Guard
  a : Reg
  hint : Hint
  ofs : BitVec 25
  deriving DecidableEq, Repr

/-- Operands of `tagld` and `objinit` (R259). -/
structure TagOp where
  g : Guard
  d : Reg
  a : Reg
  ofs : BitVec 25
  deriving DecidableEq, Repr

/-- Operands of `atom` (R261). -/
structure AtomOpd where
  g : Guard
  d : Reg
  a : Reg
  b : Reg
  scope : Scope
  ord : Order
  op : AtomOp
  w : Bool
  nr : Bool
  deriving DecidableEq, Repr

/-- Operands of `cas` (R263). -/
structure CasOp where
  g : Guard
  d : Reg
  a : Reg
  b : Reg
  c : Reg
  scope : Scope
  ord : Order
  w : Bool
  deriving DecidableEq, Repr

/-- Operands of `fence` (R264). -/
structure FenceOp where
  g : Guard
  scope : Scope
  kind : FenceKind
  deriving DecidableEq, Repr

/-- Operands of `wait` (R265). -/
structure WaitOp where
  g : Guard
  d : Reg
  a : Reg
  b : Reg
  c : Reg
  scope : Scope
  acq : Bool
  cond : Cond
  deriving DecidableEq, Repr

/-- Operands of `qpop` and `qsz.cnt` (R266, R267): endpoint `e`. -/
structure EndOp where
  g : Guard
  d : Reg
  e : BitVec 4
  deriving DecidableEq, Repr

/-- Operands of `qsz.init` (R266). -/
structure QInitOp where
  g : Guard
  d : Reg
  a : Reg
  b : Reg
  e : BitVec 4
  deriving DecidableEq, Repr

/-- Operand of `qsz.fin` (R266). -/
structure QFinOp where
  g : Guard
  e : BitVec 4
  deriving DecidableEq, Repr

/-- Operands of `cpy` (R274). -/
structure CpyOp where
  g : Guard
  d : Reg
  a : Reg
  b : Reg
  c : Reg
  scope : Scope
  ch : BitVec 3
  cv : Option CopyCv
  deriving DecidableEq, Repr

/-- Operands of `cpn` (R275). -/
structure CpnOp where
  g : Guard
  d : Reg
  a : Reg
  scope : Scope
  ch : BitVec 3
  deriving DecidableEq, Repr

/-- Operands of `cwait` (R277). -/
structure CwaitOp where
  g : Guard
  a : Reg
  scope : Scope
  ch : BitVec 3
  deriving DecidableEq, Repr

/-- Operands of `cstat` (R277). -/
structure CstatOp where
  g : Guard
  d : Reg
  scope : Scope
  acq : Bool
  ch : BitVec 3
  deriving DecidableEq, Repr

/-- Operands of `cabort` (R277). -/
structure CabortOp where
  g : Guard
  ch : BitVec 3
  k : Bool
  deriving DecidableEq, Repr

/-- Operands of `barr` (R283); `x` is the byte-count register when X = 1. -/
structure BarrOp where
  g : Guard
  x : Option Reg
  n : BitVec 4
  deriving DecidableEq, Repr

/-- Operands of `barw` (R283). -/
structure BarwOp where
  g : Guard
  d : Reg
  a : Reg
  n : BitVec 4
  deriving DecidableEq, Repr

/-- Operands of `bari` (R283). -/
structure BariOp where
  g : Guard
  a : Reg
  b : Reg
  n : BitVec 4
  deriving DecidableEq, Repr

/-- Operands of `vwait` (R287). -/
structure VwaitOp where
  g : Guard
  d : Reg
  a : Reg
  b : Reg
  c : Reg
  tf : Bool
  deriving DecidableEq, Repr

/-- Operands of `kvref` and `kvunref` (R195). -/
structure KvOp where
  g : Guard
  d : Reg
  a : Reg
  scope : Scope
  ord : Order
  n : BitVec 8
  deriving DecidableEq, Repr

/-- Operands of `accld` and `accst` (R288). -/
structure AccOp where
  g : Guard
  d : Reg
  a : Reg
  w : AccW
  t : AReg
  deriving DecidableEq, Repr

/-- Operand of `tbw` and `tba` (R210). -/
structure TileOp where
  g : Guard
  t : AReg
  deriving DecidableEq, Repr

/-- Operands of `sysr` and `sysw` (R353); `x` is the slot register when X = 1. -/
structure SysOp where
  g : Guard
  d : Reg
  x : Option Reg
  code : SysReg
  deriving DecidableEq, Repr

/-- Operands of `cflush` (R356). -/
structure FlushOp where
  g : Guard
  a : Reg
  inv : Bool
  deriving DecidableEq, Repr

/-- Operands of `cinval` (R357). -/
structure CinvalOp where
  g : Guard
  tgt : CacheTgt
  wide : Bool
  deriving DecidableEq, Repr

/-- Operands of `idle` (R358). -/
structure IdleOp where
  g : Guard
  d : Reg
  b : Reg
  mask : BitVec 2
  deriving DecidableEq, Repr

/-- Operands of `dbgr` (R359). -/
structure DbgOp where
  g : Guard
  d : Reg
  n : BitVec 9
  deriving DecidableEq, Repr

/-- The header of a bundle but for its MASK (R69). -/
structure Header where
  dp : Bool
  scope : Option Scope
  deriving DecidableEq, Repr

/-- Layout RR of the S slots (R165); `x` is X. -/
structure KOp where
  w : Slot
  d : KReg
  a : KReg
  b : KReg
  x : Bool
  i : Bool
  deriving DecidableEq, Repr

/-- Layout IMM10 (R165). -/
structure KImm10 where
  w : Slot
  d : KReg
  a : KReg
  imm : BitVec 10
  deriving DecidableEq, Repr

/-- Layout IMM16 (R165). -/
structure KImm16 where
  w : Slot
  d : KReg
  imm : BitVec 16
  deriving DecidableEq, Repr

/-- Layout CMP (R165). -/
structure KCmpOp where
  w : Slot
  qd : QReg
  qe : QReg
  a : KReg
  b : KReg
  cond : Cond
  i : Bool
  deriving DecidableEq, Repr

/-- Layout SEL (R165). -/
structure KSelOp where
  w : Slot
  d : KReg
  a : KReg
  b : KReg
  q : QReg
  n : Bool
  deriving DecidableEq, Repr

/-- Stream, scalar and 12-bit immediate (R169: `scfg`, `sbase`). -/
structure StreamImm where
  w : Slot
  s : SReg
  a : KReg
  imm : BitVec 12
  deriving DecidableEq, Repr

/-- Operands of `sadv` with B = 0 (R169). -/
structure SadvOp where
  w : Slot
  s : SReg
  n : BitVec 11
  deriving DecidableEq, Repr

/-- Stream and scalar (R169: `sadv.b`, `sgbt`, `smask`). -/
structure StreamK where
  w : Slot
  s : SReg
  a : KReg
  deriving DecidableEq, Repr

/-- Operands of `srope.adj` and `srope.half` (R169). -/
structure RopeOp where
  w : Slot
  s : SReg
  f : SReg
  deriving DecidableEq, Repr

/-- Operand of `srope.off` (R169). -/
structure StreamOp where
  w : Slot
  s : SReg
  deriving DecidableEq, Repr

/-- Operands of `cbi` (R169). -/
structure CbiOp where
  w : Slot
  c : CReg
  a : KReg
  b : KReg
  deriving DecidableEq, Repr

/-- Ring and count (R169: `cbw`, `cbf`, `cba`). -/
structure RingOp where
  w : Slot
  c : CReg
  n : BitVec 8
  deriving DecidableEq, Repr

/-- Operands of `sscale` (R169). -/
structure SscaleOp where
  w : Slot
  s : SReg
  ss : SReg
  gs : BitVec 2
  a : KReg
  deriving DecidableEq, Repr

/-- Operands of `xpush` (R176). -/
structure XpushOp where
  w : Slot
  s : SReg
  e : Bool
  col : BitVec 5
  deriving DecidableEq, Repr

/-- Operands of `xshift` and `xacc` (R176). -/
structure BeatOp where
  w : Slot
  t : AReg
  row : BitVec 5
  ar : Bool
  s : SReg
  deriving DecidableEq, Repr

/-- Operands of `xdrain` (R176). -/
structure DrainOp where
  w : Slot
  t : AReg
  row : BitVec 5
  ar : Bool
  s : SReg
  z : Bool
  deriving DecidableEq, Repr

/-- Operands of `xmask` (R176). -/
structure XmaskOp where
  w : Slot
  a : KReg
  dc : BitVec 11
  deriving DecidableEq, Repr

/-- Operands of `xmode` (R176): type codes AF and WF. -/
structure XmodeOp where
  w : Slot
  af : BitVec 4
  wf : BitVec 4
  deriving DecidableEq, Repr

/-- Operands of `yadd` and `ymul` (R179); operand codes of 7 bits. -/
structure Y3 where
  w : Slot
  d : BitVec 7
  a : BitVec 7
  b : BitVec 7
  f16 : Bool
  deriving DecidableEq, Repr

/-- Operands of `yrsc` and `yexp` (R179): side word `sw` of tile `t`. -/
structure YSideOp where
  w : Slot
  d : BitVec 7
  a : BitVec 7
  t : AReg
  sw : Bool
  f16 : Bool
  deriving DecidableEq, Repr

/-- Operands of `yrmax` and `yrsum` (R179). -/
structure YRedOp where
  w : Slot
  t : AReg
  sw : Bool
  a : BitVec 7
  k : Bool
  f16 : Bool
  deriving DecidableEq, Repr

/-- Operands of `ymov` and `ytr` (R179). -/
structure Y2 where
  w : Slot
  d : BitVec 7
  a : BitVec 7
  f16 : Bool
  deriving DecidableEq, Repr

/-- Operands of `ycvt` (R179, R180). -/
structure YcvtOp where
  w : Slot
  d : BitVec 7
  a : BitVec 7
  td : Ty
  ovf : Ovf
  clr : Bool
  f16 : Bool
  deriving DecidableEq, Repr

/-- Operands of `smst` (R179). -/
structure SmstOp where
  w : Slot
  t : AReg
  s : SReg
  b : KReg
  deriving DecidableEq, Repr

/-- Operands of `smrg` (R179); `n` is the record count minus 1. -/
structure SmrgOp where
  w : Slot
  t : AReg
  s : SReg
  n : BitVec 3
  deriving DecidableEq, Repr

/-- Operand of `ybar` (R179). -/
structure YbarOp where
  w : Slot
  t : AReg
  deriving DecidableEq, Repr

/-- Operands of `ccpy`, `cgath` and `cscat` (R278, R201, R280). -/
structure CcpyOp where
  w : Slot
  s : SReg
  d : SReg
  ch : BitVec 3
  a : KReg
  deriving DecidableEq, Repr

/-- Operands of `ccpn` (R279) with RB = 0. -/
structure CcpnOp where
  w : Slot
  a : KReg
  ch : BitVec 3
  deriving DecidableEq, Repr

/-- Operands of `ccpn` with RB = 1; `n` is NS - 1. -/
structure CcpnRingOp where
  w : Slot
  a : KReg
  ch : BitVec 3
  c : CReg
  n : BitVec 3
  deriving DecidableEq, Repr

/-- Operands of `ccwt` (R281). -/
structure CcwtOp where
  w : Slot
  ch : BitVec 3
  n : BitVec 3
  deriving DecidableEq, Repr

/-- Operands of `fbr` (R184). -/
structure FbrOp where
  q : QReg
  a : KReg
  z : Bool
  off : BitVec 15
  deriving DecidableEq, Repr

/-- Operand of the direct `fjmp` (R184). -/
structure FjmpOp where
  q : QReg
  off : BitVec 21
  deriving DecidableEq, Repr

/-- Operands of `fcall` (R184). -/
structure FcallOp where
  q : QReg
  l : KReg
  off : BitVec 16
  deriving DecidableEq, Repr

/-- Operand of the indirect `fjmp` and of `fret` (R184). -/
structure FregOp where
  q : QReg
  a : KReg
  deriving DecidableEq, Repr

/-- Operands of `floop` (R184); `n` is len - 1. -/
structure FloopOp where
  q : QReg
  l : BitVec 3
  c : KReg
  n : BitVec 5
  deriving DecidableEq, Repr

/-- Operand of `ftrap`, `fbrk` and `fwait` (R184, R281). -/
structure FnumOp where
  q : QReg
  n : BitVec 8
  deriving DecidableEq, Repr

/-- Operand of `ffence` (R282). -/
structure FfenceOp where
  q : QReg
  kind : FenceKind
  deriving DecidableEq, Repr

/-- Two sources and no destination (`tlbi.va`, R355). -/
structure R2b where
  g : Guard
  a : Reg
  b : Reg
  deriving DecidableEq, Repr

/-- A read-modify-write that a home performs for a requester of another device (R216). -/
inductive HomeOp where
  | atom (op : AtomOp)
  | cas | kvref | kvrefClaim | kvunref | pin | unpin
  deriving DecidableEq, Repr
/-- What an access to memory that the requester's device does not hold asks of its home (R216, R410). -/
inductive AwayKind where
  | read | write
  | rmw (op : HomeOp)
  deriving DecidableEq, Repr

/-- One constructor per row of spec/opcode_table.json. The first rows are the thread set (R68), then the idle step and the
slot words of the tile set (R73), then the events of the device's own agents, which have no encoding. -/
inductive Instr where
  /-- NOP (R114). -/
  | nop (g : Guard)
  /-- ADD (R113). -/
  | add (o : R3)
  /-- SUB (R113). -/
  | sub (o : R3)
  /-- MUL (R113). -/
  | mul (o : R3)
  /-- MULH (R113). -/
  | mulh (o : R3f)
  /-- MULW (R113). -/
  | mulw (o : R3f)
  /-- MAD (R113). -/
  | mad (o : R4)
  /-- AND (R113). -/
  | and (o : R3)
  /-- OR (R113). -/
  | or (o : R3)
  /-- XOR (R113). -/
  | xor (o : R3)
  /-- ANDN (R113). -/
  | andn (o : R3)
  /-- SHL (R113). -/
  | shl (o : R3)
  /-- SHR (R113). -/
  | shr (o : R3f)
  /-- ROT (R113). -/
  | rot (o : R3f)
  /-- MIN (R113). -/
  | min (o : R3f)
  /-- MAX (R113). -/
  | max (o : R3f)
  /-- ABS (R114). -/
  | abs (o : R2f)
  /-- CLZ (R114). -/
  | clz (o : R2)
  /-- POPC (R114). -/
  | popc (o : R2)
  /-- BREV (R114). -/
  | brev (o : R2)
  /-- BFX (R115). -/
  | bfx (o : R3f)
  /-- BFI (R115). -/
  | bfi (o : R4)
  /-- ADDX (R116). -/
  | addx (o : CarryOp)
  /-- SUBX (R116). -/
  | subx (o : CarryOp)
  /-- ADD_64 (R113). -/
  | add64 (o : R3)
  /-- SUB_64 (R113). -/
  | sub64 (o : R3)
  /-- SHL_64 (R113). -/
  | shl64 (o : R3)
  /-- SHR_64 (R113). -/
  | shr64 (o : R3f)
  /-- MUL_64 (R113). -/
  | mul64 (o : R3)
  /-- LEA (R117). -/
  | lea (o : LeaOp)
  /-- IDOT4 (R118). -/
  | idot4 (o : DotOp)
  /-- IDOT8 (R118). -/
  | idot8 (o : DotOp)
  /-- ADDI (R119). -/
  | addi (o : ImmOp)
  /-- ANDI (R119). -/
  | andi (o : ImmOp)
  /-- ORI (R119). -/
  | ori (o : ImmOp)
  /-- XORI (R119). -/
  | xori (o : ImmOp)
  /-- SHLI (R119). -/
  | shli (o : ShiftImm)
  /-- SHRI (R119). -/
  | shri (o : ShiftImm)
  /-- MOVI (R119). -/
  | movi (o : MoviOp)
  /-- MOVIH (R119). -/
  | movih (o : MovihOp)
  /-- CMPI (R120). -/
  | cmpi (o : CmpiOp)
  /-- MULI (R119). -/
  | muli (o : ImmOp)
  /-- CMP (R120). -/
  | cmp (o : CmpOp)
  /-- CMP_FLOAT (R121). -/
  | cmpFloat (o : CmpFOp)
  /-- PLOG (R122). -/
  | plog (o : PlogOp)
  /-- P2D (R123). -/
  | p2d (o : P2dOp)
  /-- D2P (R123). -/
  | d2p (o : D2pOp)
  /-- SEL (R124). -/
  | sel (o : SelOp)
  /-- FADD (R126). -/
  | fadd (o : F3)
  /-- FSUB (R126). -/
  | fsub (o : F3)
  /-- FMUL (R126). -/
  | fmul (o : F3)
  /-- FMA (R126). -/
  | fma (o : F4)
  /-- FMIN (R127). -/
  | fmin (o : FMinOp)
  /-- FMAX (R127). -/
  | fmax (o : FMinOp)
  /-- FDOT2 (R128). -/
  | fdot2 (o : FDotOp)
  /-- FCLASS (R129). -/
  | fclass (o : FClassOp)
  /-- FSCALE (R126). -/
  | fscale (o : F3)
  /-- FRND (R130). -/
  | frnd (o : FRndOp)
  /-- CVT (R131). -/
  | cvt (o : CvtOp)
  /-- CVTF (R132). -/
  | cvtf (o : CvtfOp)
  /-- QUANT (R133). -/
  | quant (o : QuantOp)
  /-- DEQ (R134). -/
  | deq (o : QuantOp)
  /-- AMAX (R135). -/
  | amax (o : AmaxOp)
  /-- PERM (R136). -/
  | perm (o : R4)
  /-- RCP (R137). -/
  | rcp (o : SfuOp)
  /-- RSQRT (R137). -/
  | rsqrt (o : SfuOp)
  /-- SQRT (R137). -/
  | sqrt (o : SfuOp)
  /-- EXP2 (R137). -/
  | exp2 (o : SfuOp)
  /-- LOG2 (R137). -/
  | log2 (o : SfuOp)
  /-- SIN (R137). -/
  | sin (o : SfuOp)
  /-- COS (R137). -/
  | cos (o : SfuOp)
  /-- TANH (R137). -/
  | tanh (o : SfuOp)
  /-- SIGM (R137). -/
  | sigm (o : SfuOp)
  /-- ERF (R137). -/
  | erf (o : SfuOp)
  /-- MOV (R139). -/
  | mov (o : R2f)
  /-- RDS (R140). -/
  | rds (o : RdsOp)
  /-- SHFL (R141). -/
  | shfl (o : ShflOp)
  /-- BR (R142). -/
  | br (o : BrOp)
  /-- BRX (R143). -/
  | brx (o : RegOp)
  /-- CALL (R142). -/
  | call (o : BrDOp)
  /-- RET (R143). -/
  | ret (o : RegOp)
  /-- BRC (R142). -/
  | brc (o : BrDOp)
  /-- REFORM_DIRECT (R144). -/
  | reformDirect (o : OffOp)
  /-- REFORM_INDIRECT (R144). -/
  | reformIndirect (o : RegOp)
  /-- REJOIN (R145). -/
  | rejoin (g : Guard)
  /-- BAR (R145). -/
  | bar (g : Guard)
  /-- GATE (R146). -/
  | gate (o : GateOp)
  /-- EXIT (R145). -/
  | exit (g : Guard)
  /-- TRAP (R147). -/
  | trap (o : NumOp)
  /-- BRK (R147). -/
  | brk (o : NumOp)
  /-- LD (R148). -/
  | ld (o : LdOp)
  /-- ST (R149). -/
  | st (o : LdOp)
  /-- LDR (R260). -/
  | ldr (o : LdrOp)
  /-- STR (R260). -/
  | str (o : LdrOp)
  /-- PUB (R252). -/
  | pub (o : PubOp)
  /-- PREF (R150). -/
  | pref (o : PrefOp)
  /-- TAGLD (R260). -/
  | tagld (o : TagOp)
  /-- OBJINIT (R247). -/
  | objinit (o : TagOp)
  /-- ATOM (R262). -/
  | atom (o : AtomOpd)
  /-- CAS (R263). -/
  | cas (o : CasOp)
  /-- FENCE (R264). -/
  | fence (o : FenceOp)
  /-- WAIT (R265). -/
  | wait (o : WaitOp)
  /-- QPUSH (R267). -/
  | qpush (o : R2)
  /-- QPOP (R267). -/
  | qpop (o : EndOp)
  /-- QSZ_CNT (R266). -/
  | qszCnt (o : EndOp)
  /-- QSZ_INIT (R266). -/
  | qszInit (o : QInitOp)
  /-- QSZ_FIN (R266). -/
  | qszFin (o : QFinOp)
  /-- CPY (R274). -/
  | cpy (o : CpyOp)
  /-- CPN (R275). -/
  | cpn (o : CpnOp)
  /-- CWAIT (R277). -/
  | cwait (o : CwaitOp)
  /-- CSTAT (R277). -/
  | cstat (o : CstatOp)
  /-- CABORT (R277). -/
  | cabort (o : CabortOp)
  /-- BARR (R283). -/
  | barr (o : BarrOp)
  /-- BARW (R283). -/
  | barw (o : BarwOp)
  /-- BARI (R283). -/
  | bari (o : BariOp)
  /-- WOPEN (R285). -/
  | wopen (o : R2f)
  /-- WCLOSE (R285). -/
  | wclose (o : RegOp)
  /-- SUBSC (R287). -/
  | subsc (o : R3)
  /-- UNSUBSC (R287). -/
  | unsubsc (o : RegOp)
  /-- VWAIT (R287). -/
  | vwait (o : VwaitOp)
  /-- KVREF (R196). -/
  | kvref (o : KvOp)
  /-- KVREF_CLAIM (R196). -/
  | kvrefClaim (o : KvOp)
  /-- KVUNREF (R196). -/
  | kvunref (o : KvOp)
  /-- LAUNCH (R289). -/
  | launch (o : R3)
  /-- ACCLD (R288). -/
  | accld (o : AccOp)
  /-- ACCST (R288). -/
  | accst (o : AccOp)
  /-- TBW (R210). -/
  | tbw (o : TileOp)
  /-- TBA (R209). -/
  | tba (o : TileOp)
  /-- SYSR (R353). -/
  | sysr (o : SysOp)
  /-- SYSW (R353). -/
  | sysw (o : SysOp)
  /-- ERET (R354). -/
  | eret (g : Guard)
  /-- TLBI_ALL (R355). -/
  | tlbiAll (g : Guard)
  /-- TLBI_ASID (R355). -/
  | tlbiAsid (o : RegOp)
  /-- TLBI_VA (R355). -/
  | tlbiVa (o : R2b)
  /-- CFLUSH (R356). -/
  | cflush (o : FlushOp)
  /-- CFLUSH_ALL (R356). -/
  | cflushAll (g : Guard)
  /-- CINVAL (R357). -/
  | cinval (o : CinvalOp)
  /-- IDLE (R358). -/
  | idle (o : IdleOp)
  /-- DBGR_RD (R359). -/
  | dbgrRd (o : DbgOp)
  /-- DBGR_WR (R359). -/
  | dbgrWr (o : DbgOp)
  /-- IDLE_STEP (R70). -/
  | idleStep (o : Header)
  /-- KADD (R166). -/
  | kadd (o : KOp)
  /-- KSUB (R166). -/
  | ksub (o : KOp)
  /-- KMUL (R166). -/
  | kmul (o : KOp)
  /-- KAND (R166). -/
  | kand (o : KOp)
  /-- KOR (R166). -/
  | kor (o : KOp)
  /-- KXOR (R166). -/
  | kxor (o : KOp)
  /-- KSHL (R166). -/
  | kshl (o : KOp)
  /-- KSHR (R166). -/
  | kshr (o : KOp)
  /-- KMIN (R166). -/
  | kmin (o : KOp)
  /-- KMAX (R166). -/
  | kmax (o : KOp)
  /-- KADDI (R166). -/
  | kaddi (o : KImm10)
  /-- KMOVI (R166). -/
  | kmovi (o : KImm16)
  /-- KCMP (R166). -/
  | kcmp (o : KCmpOp)
  /-- KSEL (R166). -/
  | ksel (o : KSelOp)
  /-- KLD (R166). -/
  | kld (o : KImm10)
  /-- KST (R166). -/
  | kst (o : KImm10)
  /-- SCFG (R169). -/
  | scfg (o : StreamImm)
  /-- SBASE (R169). -/
  | sbase (o : StreamImm)
  /-- SADV (R169). -/
  | sadv (o : SadvOp)
  /-- SADV_B (R169). -/
  | sadvB (o : StreamK)
  /-- SGBT (R169). -/
  | sgbt (o : StreamK)
  /-- SROPE_ADJ (R169). -/
  | sropeAdj (o : RopeOp)
  /-- SROPE_HALF (R169). -/
  | sropeHalf (o : RopeOp)
  /-- SROPE_OFF (R169). -/
  | sropeOff (o : StreamOp)
  /-- CBI (R169). -/
  | cbi (o : CbiOp)
  /-- CBW (R170). -/
  | cbw (o : RingOp)
  /-- CBF (R170). -/
  | cbf (o : RingOp)
  /-- CBA_F (R169). -/
  | cbaF (o : RingOp)
  /-- CBA_E (R169). -/
  | cbaE (o : RingOp)
  /-- SSCALE (R169). -/
  | sscale (o : SscaleOp)
  /-- SMASK (R169). -/
  | smask (o : StreamK)
  /-- XPUSH (R176). -/
  | xpush (o : XpushOp)
  /-- XSWAP (R176). -/
  | xswap (w : Slot)
  /-- XSHIFT (R174). -/
  | xshift (o : BeatOp)
  /-- XACC (R174). -/
  | xacc (o : BeatOp)
  /-- XDRAIN (R177). -/
  | xdrain (o : DrainOp)
  /-- XMASK (R176). -/
  | xmask (o : XmaskOp)
  /-- XMODE (R176). -/
  | xmode (o : XmodeOp)
  /-- YADD (R179). -/
  | yadd (o : Y3)
  /-- YMUL (R179). -/
  | ymul (o : Y3)
  /-- YRSC (R179). -/
  | yrsc (o : YSideOp)
  /-- YEXP (R179). -/
  | yexp (o : YSideOp)
  /-- YRMAX (R179). -/
  | yrmax (o : YRedOp)
  /-- YRSUM (R179). -/
  | yrsum (o : YRedOp)
  /-- YMOV (R179). -/
  | ymov (o : Y2)
  /-- YCVT (R180). -/
  | ycvt (o : YcvtOp)
  /-- YTR (R179). -/
  | ytr (o : Y2)
  /-- SMST (R181). -/
  | smst (o : SmstOp)
  /-- SMRG (R182). -/
  | smrg (o : SmrgOp)
  /-- YBAR_ARV (R183). -/
  | ybarArv (o : YbarOp)
  /-- YBAR_WT (R183). -/
  | ybarWt (o : YbarOp)
  /-- CCPY (R278). -/
  | ccpy (o : CcpyOp)
  /-- CCPN (R279). -/
  | ccpn (o : CcpnOp)
  /-- CCPN_RING (R279). -/
  | ccpnRing (o : CcpnRingOp)
  /-- CGATH (R201). -/
  | cgath (o : CcpyOp)
  /-- CSCAT (R280). -/
  | cscat (o : CcpyOp)
  /-- CCWT (R281). -/
  | ccwt (o : CcwtOp)
  /-- FBR (R184). -/
  | fbr (o : FbrOp)
  /-- FJMP (R184). -/
  | fjmp (o : FjmpOp)
  /-- FJMP_INDIRECT (R184). -/
  | fjmpIndirect (o : FregOp)
  /-- FCALL (R184). -/
  | fcall (o : FcallOp)
  /-- FRET (R184). -/
  | fret (o : FregOp)
  /-- FLOOP (R186). -/
  | floop (o : FloopOp)
  /-- GRET (R50). -/
  | gret (q : QReg)
  /-- FTRAP (R184). -/
  | ftrap (o : FnumOp)
  /-- FBRK (R184). -/
  | fbrk (o : FnumOp)
  /-- FFENCE (R282). -/
  | ffence (o : FfenceOp)
  /-- FWAIT (R281). -/
  | fwait (o : FnumOp)
  /-- RESULT_LANDING (R155). -/
  | resultLanding (core : Nat) (cx : Nat)
  /-- STREAM_READ_RETURN (R158). -/
  | streamReadReturn (core : Nat) (cx : Nat)
  /-- RING_WAIT_SATISFIED (R170). -/
  | ringWaitSatisfied (core : Nat) (cx : Nat)
  /-- COPY_WAIT_SATISFIED (R281). -/
  | copyWaitSatisfied (core : Nat) (cx : Nat)
  /-- TILE_BARRIER_WAIT_SATISFIED (R183). -/
  | tileBarrierWaitSatisfied (core : Nat) (cx : Nat)
  /-- TILE_BARRIER_ARRIVAL (R183). -/
  | tileBarrierArrival (core : Nat) (cx : Nat)
  /-- TBW_WAKE (R209). -/
  | tbwWake (blk : Nat) (tile : Nat)
  /-- COMMAND_ACCEPT_AFTER_BACKPRESSURE (R269). -/
  | commandAcceptAfterBackpressure (core : Nat) (ch : Nat)
  /-- DRAIN_POINT (R54). -/
  | drainPoint (core : Nat) (cx : Nat)
  /-- BASIN_AGE_EXPIRY (R40). -/
  | basinAgeExpiry (blk : Nat) (clu : Nat) (addr : Addr)
  /-- MEMORY_RESULT_RETURN (R109). -/
  | memoryResultReturn (blk : Nat) (tid : Nat)
  /-- MEM_WAIT_WAKE (R265). -/
  | memWaitWake (blk : Nat) (tid : Nat)
  /-- MEM_WAIT_TIMEOUT (R265). -/
  | memWaitTimeout (blk : Nat) (tid : Nat)
  /-- VWAIT_WAKE (R287). -/
  | vwaitWake (blk : Nat) (tid : Nat)
  /-- VWAIT_TIMEOUT (R287). -/
  | vwaitTimeout (blk : Nat) (tid : Nat)
  /-- IDLE_WAKE (R358). -/
  | idleWake (blk : Nat) (tid : Nat)
  /-- IDLE_TIMEOUT (R358). -/
  | idleTimeout (blk : Nat) (tid : Nat)
  /-- QUEUE_WAIT_WAKE (R267). -/
  | queueWaitWake (blk : Nat) (tid : Nat)
  /-- CWAIT_WAKE (R277). -/
  | cwaitWake (blk : Nat) (tid : Nat)
  /-- ROOT_BROADCAST (R284). -/
  | rootBroadcast (cluster : Nat) (n : Nat)
  /-- BARW_WAKE (R283). -/
  | barwWake (blk : Nat) (tid : Nat)
  /-- GATHER_BLOCK (R203). -/
  | gatherBlock (core : Nat) (ch : Nat) (id : W32)
  /-- COPY_COMMAND_COMPLETE (R272). -/
  | copyCommandComplete (core : Nat) (ch : Nat) (id : W32)
  /-- COMMAND_FAULT (R271). -/
  | commandFault (core : Nat) (ch : Nat) (id : W32)
  /-- BLOCK_PREEMPT (R55). -/
  | blockPreempt (blk : Nat)
  /-- DPBOUND_EXPIRY (R55). -/
  | dpboundExpiry (blk : Nat)
  /-- LAUNCH_QUEUE_TAIL_WRITE (R293). -/
  | launchQueueTailWrite (q : Nat) (tail : W32)
  /-- LAUNCH_ACCEPT (R295). -/
  | launchAccept (q : Nat)
  /-- LAUNCH_WAIT_POLL (R297). -/
  | launchWaitPoll (l : Nat)
  /-- BLOCK_RESIDENCY (R299). -/
  | blockResidency (l : Nat) (lin : Nat)
  /-- BLOCK_RETIRE (R58). -/
  | blockRetire (blk : Nat)
  /-- PARK_WAKE (R331). -/
  | parkWake (line : Nat)
  /-- PARK_MONITOR_FREED (R330). -/
  | parkMonitorFreed (die : Nat)
  /-- L1_EVICTION_WRITEBACK (R217). -/
  | l1EvictionWriteback (core : Nat) (line : Nat)
  /-- SHOOTDOWN_COMPLETE (R335). -/
  | shootdownComplete (blk : Nat) (tid : Nat)
  /-- WALK_ACCEPT (R251). -/
  | walkAccept (die : Nat)
  /-- WALK_RESTART (R252). -/
  | walkRestart (die : Nat) (slot : Nat)
  /-- WALK_COMPLETE (R252). -/
  | walkComplete (die : Nat) (slot : Nat)
  /-- ACCESS_COUNT_APPLY (R337). -/
  | accessCountApply
  /-- FAULT_RECORD_POST (R339). -/
  | faultRecordPost
  /-- FAULT_QUEUE_RETRY (R339). -/
  | faultQueueRetry
  /-- CTXST_LOADED_WRITE (R348). -/
  | ctxstLoadedWrite (slot : Nat) (v : W64)
  /-- CTXST_KILL_WRITE (R380). -/
  | ctxstKillWrite (slot : Nat)
  /-- KILL_COMPLETE (R380). -/
  | killComplete (slot : Nat)
  /-- WALKSTK_WRITE (R254). -/
  | walkstkWrite (slot : Nat) (v : W64)
  /-- FQBASE_WRITE (R339). -/
  | fqbaseWrite (v : W64)
  /-- XTRIG_HREQ_WRITE (R393). -/
  | xtrigHreqWrite (slot : Nat)
  /-- XTRIG_RREQ_WRITE (R393). -/
  | xtrigRreqWrite (slot : Nat)
  /-- BREAKPOINT_HIT (R387). -/
  | breakpointHit (blk : Nat) (tid : Nat) (tile : Bool)
  /-- HALT_COMPLETE (R393). -/
  | haltComplete (slot : Nat)
  /-- NOSTOP_TIMEOUT (R394). -/
  | nostopTimeout (blk : Nat) (tid : Nat)
  /-- TRCTL_WRITE (R396). -/
  | trctlWrite (slot : Nat) (v : W64)
  /-- TRACE_SAMPLE (R397). -/
  | traceSample (slot : Nat) (core : Nat) (unit : Nat)
  /-- HOST_REGISTER_WRITE (R407). -/
  | hostRegisterWrite (off : Nat) (v : W64)
  /-- HOST_BAR2_WRITE (R408). -/
  | hostBar2Write (addr : Nat) (n : Nat) (v : Nat)
  /-- HOST_BAR2_READ (R408). -/
  | hostBar2Read (addr : Nat) (n : Nat)
  /-- CAPABILITY_APPLY (R409). -/
  | capabilityApply (id : Nat)
  /-- CAST_WRITE_FLIT (R410). -/
  | castWriteFlit (handle : W32) (off : Nat) (data : List Byte)
  /-- VERSION_ADVANCE_FLIT (R238). -/
  | versionAdvanceFlit (handle : W32) (v : W32)
  /-- REMOTE_ACCESS_REQUEST_FLIT (R410). -/
  | remoteAccessRequestFlit (port : Nat) (kind : AwayKind) (pa : Nat) (data : List Byte)
  /-- RESPONSE_FLIT (R410). -/
  | responseFlit (id : Nat) (data : List Byte)
  /-- HEARTBEAT_FLIT (R411). -/
  | heartbeatFlit (port : Nat)
  /-- HEARTBEAT_TIMER (R411). -/
  | heartbeatTimer
  /-- PORT_DOWN (R411). -/
  | portDown (port : Nat)
  /-- ACCESS_TIMEOUT (R366). -/
  | accessTimeout (id : Nat)
  /-- DEVICE_RESET (R414). -/
  | deviceReset
  /-- BOOT_VERIFY_COMPLETE (R414). -/
  | bootVerifyComplete
  /-- DOORBELL (R414). -/
  | doorbell
  /-- FUSED_SVN_RAISE (R414). -/
  | fusedSvnRaise
  /-- ATTESTATION_REQUEST (R415). -/
  | attestationRequest (nonce : BitVec 256)
  /-- THERMAL_THROTTLE (R416). -/
  | thermalThrottle
  /-- THERMAL_SHUTDOWN (R416). -/
  | thermalShutdown
  /-- WRITE_ACKNOWLEDGED_AT_HOME (R264). -/
  | writeAcknowledgedAtHome (blk : Nat) (tid : Nat)
  /-- PREEMPT_RESIDENCY_EXPIRY (R301). -/
  | preemptResidencyExpiry (l : Nat)
  /-- AGE_WRITE (R352). -/
  | ageWrite (slot : Nat) (v : W64)
  /-- PSTAT_WRITE (R347). -/
  | pstatWrite (blk : Nat) (tid : Nat) (v : W64)
  /-- WAIT_REMOTE_REREAD (R265). -/
  | waitRemoteReread (blk : Nat) (tid : Nat)
  deriving DecidableEq, Repr

end Sys2Proof
end

