-- ==== Sys2Proof/WellFormed.lean ====
section
/-! DEFINITION. Which instructions are well formed: the limits on operand values that the entries of the instructions set and
that an encoding alone does not carry (03_encodings.md R78, R80). A word that breaks one of them raises ILL. -/

namespace Sys2Proof

/-- The element types 0 to 10, which are neither Q8 nor Q4 (R131). -/
def Ty.isElem : Ty → Bool
  | .q8 | .q4 => false
  | .s8 | .z8 | .s16 | .z16 | .s32 | .z32 | .f32 | .f16 | .bf16 | .f8a | .f8b => true

/-- The floating formats (R89). -/
def Ty.isFloat : Ty → Bool
  | .f32 | .f16 | .bf16 | .f8a | .f8b => true
  | .s8 | .z8 | .s16 | .z16 | .s32 | .z32 | .q8 | .q4 => false

/-- The two 8-bit floating formats (R100). -/
def Ty.isF8 : Ty → Bool
  | .f8a | .f8b => true
  | .s8 | .z8 | .s16 | .z16 | .s32 | .z32 | .f32 | .f16 | .bf16 | .q8 | .q4 => false

/-- Bits per element (R89, R95). -/
def Ty.bits : Ty → Nat
  | .q4 => 4
  | .s8 | .z8 | .f8a | .f8b | .q8 => 8
  | .s16 | .z16 | .f16 | .bf16 => 16
  | .s32 | .z32 | .f32 => 32

/-- The types a converting copy may name: the floating formats (R274). -/
def Ty.isCopyElem (t : Ty) : Bool := t.isFloat

/-- The overflow modes a destination format admits (R100). -/
def ovfOk (td : Ty) (o : Ovf) : Bool :=
  match o with
  | .sat => true
  | .nan => td.isF8
  | .inf => td == .f8b

/-- `quant` and `deq` take S8, Q8 or Q4, and S8 has no zero point (R133, R134). -/
def quantOk (o : QuantOp) : Bool :=
  (o.ty == .s8 && o.c == 0#8) || o.ty == .q8 || o.ty == .q4

/-- The system registers of scope C, of which every context slot has one (R346, R353). -/
def SysReg.perContext : SysReg → Bool
  | .tvec | .frameb | .ctxid | .asid | .ptroot | .ctxst | .dpbound | .age | .detmode | .kvpool | .walkstk | .casttb | .xtrig => true
  | .pstat | .fflags0 | .fflags1 | .fflags2 | .fflags3 | .fflags4 | .fflags5 | .cntthr | .nqbase | .fqbase => false

/-- The debug register numbers of 18_observation.md R385. -/
def dbgListed (n : Nat) : Bool :=
  n ≤ 2 || (8 ≤ n && n ≤ 0x30) || (0x40 ≤ n && n ≤ 0x60) || (0x80 ≤ n && n ≤ 0x83)

/-- A Y operand code names a0-a63 or v0-v15 (R179). -/
def yOk (c : BitVec 7) : Bool := c.toNat < 80

/-- G = 0b1_0000 makes a thread word a no-operation that is not decoded (R60). -/
def Guard.isSkip (g : Guard) : Bool := g.neg && g.p == 0#4

/-- The guard of a thread instruction (R59); no other row has one. -/
def Instr.guard? (i : Instr) : Option Guard :=
  match i with
  | .nop g => some g
  | .add o => some o.g
  | .sub o => some o.g
  | .mul o => some o.g
  | .mulh o => some o.g
  | .mulw o => some o.g
  | .mad o => some o.g
  | .and o => some o.g
  | .or o => some o.g
  | .xor o => some o.g
  | .andn o => some o.g
  | .shl o => some o.g
  | .shr o => some o.g
  | .rot o => some o.g
  | .min o => some o.g
  | .max o => some o.g
  | .abs o => some o.g
  | .clz o => some o.g
  | .popc o => some o.g
  | .brev o => some o.g
  | .bfx o => some o.g
  | .bfi o => some o.g
  | .addx o => some o.g
  | .subx o => some o.g
  | .add64 o => some o.g
  | .sub64 o => some o.g
  | .shl64 o => some o.g
  | .shr64 o => some o.g
  | .mul64 o => some o.g
  | .lea o => some o.g
  | .idot4 o => some o.g
  | .idot8 o => some o.g
  | .addi o => some o.g
  | .andi o => some o.g
  | .ori o => some o.g
  | .xori o => some o.g
  | .shli o => some o.g
  | .shri o => some o.g
  | .movi o => some o.g
  | .movih o => some o.g
  | .cmpi o => some o.g
  | .muli o => some o.g
  | .cmp o => some o.g
  | .cmpFloat o => some o.g
  | .plog o => some o.g
  | .p2d o => some o.g
  | .d2p o => some o.g
  | .sel o => some o.g
  | .fadd o => some o.g
  | .fsub o => some o.g
  | .fmul o => some o.g
  | .fma o => some o.g
  | .fmin o => some o.g
  | .fmax o => some o.g
  | .fdot2 o => some o.g
  | .fclass o => some o.g
  | .fscale o => some o.g
  | .frnd o => some o.g
  | .cvt o => some o.g
  | .cvtf o => some o.g
  | .quant o => some o.g
  | .deq o => some o.g
  | .amax o => some o.g
  | .perm o => some o.g
  | .rcp o => some o.g
  | .rsqrt o => some o.g
  | .sqrt o => some o.g
  | .exp2 o => some o.g
  | .log2 o => some o.g
  | .sin o => some o.g
  | .cos o => some o.g
  | .tanh o => some o.g
  | .sigm o => some o.g
  | .erf o => some o.g
  | .mov o => some o.g
  | .rds o => some o.g
  | .shfl o => some o.g
  | .br o => some o.g
  | .brx o => some o.g
  | .call o => some o.g
  | .ret o => some o.g
  | .brc o => some o.g
  | .reformDirect o => some o.g
  | .reformIndirect o => some o.g
  | .rejoin g => some g
  | .bar g => some g
  | .gate o => some o.g
  | .exit g => some g
  | .trap o => some o.g
  | .brk o => some o.g
  | .ld o => some o.g
  | .st o => some o.g
  | .ldr o => some o.g
  | .str o => some o.g
  | .pub o => some o.g
  | .pref o => some o.g
  | .tagld o => some o.g
  | .objinit o => some o.g
  | .atom o => some o.g
  | .cas o => some o.g
  | .fence o => some o.g
  | .wait o => some o.g
  | .qpush o => some o.g
  | .qpop o => some o.g
  | .qszCnt o => some o.g
  | .qszInit o => some o.g
  | .qszFin o => some o.g
  | .cpy o => some o.g
  | .cpn o => some o.g
  | .cwait o => some o.g
  | .cstat o => some o.g
  | .cabort o => some o.g
  | .barr o => some o.g
  | .barw o => some o.g
  | .bari o => some o.g
  | .wopen o => some o.g
  | .wclose o => some o.g
  | .subsc o => some o.g
  | .unsubsc o => some o.g
  | .vwait o => some o.g
  | .kvref o => some o.g
  | .kvrefClaim o => some o.g
  | .kvunref o => some o.g
  | .launch o => some o.g
  | .accld o => some o.g
  | .accst o => some o.g
  | .tbw o => some o.g
  | .tba o => some o.g
  | .sysr o => some o.g
  | .sysw o => some o.g
  | .eret g => some g
  | .tlbiAll g => some g
  | .tlbiAsid o => some o.g
  | .tlbiVa o => some o.g
  | .cflush o => some o.g
  | .cflushAll g => some g
  | .cinval o => some o.g
  | .idle o => some o.g
  | .dbgrRd o => some o.g
  | .dbgrWr o => some o.g
  | .idleStep _ => none
  | .kadd _ => none
  | .ksub _ => none
  | .kmul _ => none
  | .kand _ => none
  | .kor _ => none
  | .kxor _ => none
  | .kshl _ => none
  | .kshr _ => none
  | .kmin _ => none
  | .kmax _ => none
  | .kaddi _ => none
  | .kmovi _ => none
  | .kcmp _ => none
  | .ksel _ => none
  | .kld _ => none
  | .kst _ => none
  | .scfg _ => none
  | .sbase _ => none
  | .sadv _ => none
  | .sadvB _ => none
  | .sgbt _ => none
  | .sropeAdj _ => none
  | .sropeHalf _ => none
  | .sropeOff _ => none
  | .cbi _ => none
  | .cbw _ => none
  | .cbf _ => none
  | .cbaF _ => none
  | .cbaE _ => none
  | .sscale _ => none
  | .smask _ => none
  | .xpush _ => none
  | .xswap _ => none
  | .xshift _ => none
  | .xacc _ => none
  | .xdrain _ => none
  | .xmask _ => none
  | .xmode _ => none
  | .yadd _ => none
  | .ymul _ => none
  | .yrsc _ => none
  | .yexp _ => none
  | .yrmax _ => none
  | .yrsum _ => none
  | .ymov _ => none
  | .ycvt _ => none
  | .ytr _ => none
  | .smst _ => none
  | .smrg _ => none
  | .ybarArv _ => none
  | .ybarWt _ => none
  | .ccpy _ => none
  | .ccpn _ => none
  | .ccpnRing _ => none
  | .cgath _ => none
  | .cscat _ => none
  | .ccwt _ => none
  | .fbr _ => none
  | .fjmp _ => none
  | .fjmpIndirect _ => none
  | .fcall _ => none
  | .fret _ => none
  | .floop _ => none
  | .gret _ => none
  | .ftrap _ => none
  | .fbrk _ => none
  | .ffence _ => none
  | .fwait _ => none
  | .resultLanding _ _ => none
  | .streamReadReturn _ _ => none
  | .ringWaitSatisfied _ _ => none
  | .copyWaitSatisfied _ _ => none
  | .tileBarrierWaitSatisfied _ _ => none
  | .tileBarrierArrival _ _ => none
  | .tbwWake _ _ => none
  | .commandAcceptAfterBackpressure _ _ => none
  | .drainPoint _ _ => none
  | .basinAgeExpiry _ _ _ => none
  | .memoryResultReturn _ _ => none
  | .memWaitWake _ _ => none
  | .memWaitTimeout _ _ => none
  | .vwaitWake _ _ => none
  | .vwaitTimeout _ _ => none
  | .idleWake _ _ => none
  | .idleTimeout _ _ => none
  | .queueWaitWake _ _ => none
  | .cwaitWake _ _ => none
  | .rootBroadcast _ _ => none
  | .barwWake _ _ => none
  | .gatherBlock _ _ _ => none
  | .copyCommandComplete _ _ _ => none
  | .commandFault _ _ _ => none
  | .blockPreempt _ => none
  | .dpboundExpiry _ => none
  | .launchQueueTailWrite _ _ => none
  | .launchAccept _ => none
  | .launchWaitPoll _ => none
  | .blockResidency _ _ => none
  | .blockRetire _ => none
  | .parkWake _ => none
  | .parkMonitorFreed _ => none
  | .l1EvictionWriteback _ _ => none
  | .shootdownComplete _ _ => none
  | .walkAccept _ => none
  | .walkRestart _ _ => none
  | .walkComplete _ _ => none
  | .accessCountApply => none
  | .faultRecordPost => none
  | .faultQueueRetry => none
  | .ctxstLoadedWrite _ _ => none
  | .ctxstKillWrite _ => none
  | .killComplete _ => none
  | .walkstkWrite _ _ => none
  | .fqbaseWrite _ => none
  | .xtrigHreqWrite _ => none
  | .xtrigRreqWrite _ => none
  | .breakpointHit _ _ _ => none
  | .haltComplete _ => none
  | .nostopTimeout _ _ => none
  | .trctlWrite _ _ => none
  | .traceSample _ _ _ => none
  | .hostRegisterWrite _ _ => none
  | .hostBar2Write _ _ _ => none
  | .hostBar2Read _ _ => none
  | .capabilityApply _ => none
  | .castWriteFlit _ _ _ => none
  | .versionAdvanceFlit _ _ => none
  | .remoteAccessRequestFlit _ _ _ _ => none
  | .responseFlit _ _ => none
  | .heartbeatFlit _ => none
  | .heartbeatTimer => none
  | .portDown _ => none
  | .accessTimeout _ => none
  | .deviceReset => none
  | .bootVerifyComplete => none
  | .doorbell => none
  | .fusedSvnRaise => none
  | .attestationRequest _ => none
  | .thermalThrottle => none
  | .thermalShutdown => none
  | .writeAcknowledgedAtHome _ _ => none
  | .preemptResidencyExpiry _ => none
  | .ageWrite _ _ => none
  | .pstatWrite _ _ _ => none
  | .waitRemoteReread _ _ => none

/-- The limits of each instruction's entry; an event of a device agent has none. -/
def Instr.limits (i : Instr) : Bool :=
  match i with
  | .nop _ => true
  | .add _ => true
  | .sub _ => true
  | .mul _ => true
  | .mulh _ => true
  | .mulw _ => true
  | .mad _ => true
  | .and _ => true
  | .or _ => true
  | .xor _ => true
  | .andn _ => true
  | .shl _ => true
  | .shr _ => true
  | .rot _ => true
  | .min _ => true
  | .max _ => true
  | .abs _ => true
  | .clz _ => true
  | .popc _ => true
  | .brev _ => true
  | .bfx _ => true
  | .bfi _ => true
  | .addx _ => true
  | .subx _ => true
  | .add64 _ => true
  | .sub64 _ => true
  | .shl64 _ => true
  | .shr64 _ => true
  | .mul64 _ => true
  | .lea _ => true
  | .idot4 _ => true
  | .idot8 _ => true
  | .addi _ => true
  | .andi _ => true
  | .ori _ => true
  | .xori _ => true
  | .shli o => !o.ar
  | .shri _ => true
  | .movi _ => true
  | .movih _ => true
  | .cmpi _ => true
  | .muli _ => true
  | .cmp _ => true
  | .cmpFloat o => !(o.ty == .f32 && o.hs)
  | .plog _ => true
  | .p2d _ => true
  | .d2p _ => true
  | .sel _ => true
  | .fadd _ => true
  | .fsub _ => true
  | .fmul _ => true
  | .fma _ => true
  | .fmin _ => true
  | .fmax _ => true
  | .fdot2 _ => true
  | .fclass _ => true
  | .fscale _ => true
  | .frnd _ => true
  | .cvt o => o.td.isElem && o.ts.isElem && ovfOk o.td o.ovf && (o.ts.bits == 8 || (o.ts.bits == 16 && o.sel ≤ 1#2) || (o.ts.bits == 32 && o.sel == 0#2))
  | .cvtf o => (o.td == .f16 || o.td == .bf16 || (o.td.isF8 && o.b == 0#8)) && ovfOk o.td o.ovf
  | .quant o => quantOk o
  | .deq o => quantOk o
  | .amax o => o.ts == .f32 || o.ts == .f16 || o.ts == .bf16
  | .perm _ => true
  | .rcp _ => true
  | .rsqrt _ => true
  | .sqrt _ => true
  | .exp2 _ => true
  | .log2 _ => true
  | .sin _ => true
  | .cos _ => true
  | .tanh _ => true
  | .sigm _ => true
  | .erf _ => true
  | .mov _ => true
  | .rds o => !o.clr || o.name == .amax || o.name == .fflags
  | .shfl o => if o.i then o.b == 0#8 else o.k == 0#4
  | .br _ => true
  | .brx _ => true
  | .call _ => true
  | .ret _ => true
  | .brc _ => true
  | .reformDirect _ => true
  | .reformIndirect _ => true
  | .rejoin _ => true
  | .bar _ => true
  | .gate _ => true
  | .exit _ => true
  | .trap _ => true
  | .brk _ => true
  | .ld _ => true
  | .st _ => true
  | .ldr _ => true
  | .str _ => true
  | .pub _ => true
  | .pref _ => true
  | .tagld _ => true
  | .objinit _ => true
  | .atom o => (!o.nr || o.d == 0#8) && !(o.op == .fadd && o.w)
  | .cas _ => true
  | .fence _ => true
  | .wait _ => true
  | .qpush _ => true
  | .qpop _ => true
  | .qszCnt _ => true
  | .qszInit _ => true
  | .qszFin _ => true
  | .cpy o => match o.cv with | none => true | some v => v.ts.isCopyElem && v.td.isCopyElem && ovfOk v.td v.ovf
  | .cpn _ => true
  | .cwait _ => true
  | .cstat _ => true
  | .cabort _ => true
  | .barr _ => true
  | .barw _ => true
  | .bari _ => true
  | .wopen _ => true
  | .wclose _ => true
  | .subsc _ => true
  | .unsubsc _ => true
  | .vwait _ => true
  | .kvref o => o.n != 0#8
  | .kvrefClaim o => o.n != 0#8
  | .kvunref o => o.n != 0#8
  | .launch _ => true
  | .accld _ => true
  | .accst _ => true
  | .tbw _ => true
  | .tba _ => true
  | .sysr o => o.x.isNone || o.code.perContext
  | .sysw o => (o.x.isNone || o.code.perContext) && o.code != .ctxid
  | .eret _ => true
  | .tlbiAll _ => true
  | .tlbiAsid _ => true
  | .tlbiVa _ => true
  | .cflush _ => true
  | .cflushAll _ => true
  | .cinval _ => true
  | .idle o => o.mask != 0#2
  | .dbgrRd o => dbgListed o.n.toNat
  | .dbgrWr o => dbgListed o.n.toNat
  | .idleStep _ => true
  | .kadd o => !o.x
  | .ksub o => !o.x
  | .kmul o => !o.x
  | .kand o => !o.x
  | .kor o => !o.x
  | .kxor o => !o.x
  | .kshl o => !o.x
  | .kshr _ => true
  | .kmin _ => true
  | .kmax _ => true
  | .kaddi _ => true
  | .kmovi _ => true
  | .kcmp _ => true
  | .ksel _ => true
  | .kld _ => true
  | .kst _ => true
  | .scfg _ => true
  | .sbase _ => true
  | .sadv _ => true
  | .sadvB _ => true
  | .sgbt _ => true
  | .sropeAdj _ => true
  | .sropeHalf _ => true
  | .sropeOff _ => true
  | .cbi _ => true
  | .cbw o => o.n != 0#8
  | .cbf o => o.n != 0#8
  | .cbaF o => o.n != 0#8
  | .cbaE o => o.n != 0#8
  | .sscale _ => true
  | .smask _ => true
  | .xpush _ => true
  | .xswap _ => true
  | .xshift o => !o.ar || o.row == 0#5
  | .xacc o => !o.ar || o.row == 0#5
  | .xdrain o => !o.ar || o.row == 0#5
  | .xmask o => 1 ≤ o.dc.toNat && o.dc.toNat ≤ 1024
  | .xmode _ => true
  | .yadd o => yOk o.d && yOk o.a && yOk o.b
  | .ymul o => yOk o.d && yOk o.a && yOk o.b
  | .yrsc o => yOk o.d && yOk o.a
  | .yexp o => yOk o.d && yOk o.a
  | .yrmax o => yOk o.a
  | .yrsum o => yOk o.a
  | .ymov o => yOk o.d && yOk o.a
  | .ycvt o => yOk o.d && yOk o.a && o.td.isFloat && ovfOk o.td o.ovf && (!o.clr || o.a.toNat < 64)
  | .ytr o => yOk o.d && yOk o.a
  | .smst _ => true
  | .smrg _ => true
  | .ybarArv _ => true
  | .ybarWt _ => true
  | .ccpy _ => true
  | .ccpn _ => true
  | .ccpnRing _ => true
  | .cgath _ => true
  | .cscat _ => true
  | .ccwt o => o.n ≤ 5#3
  | .fbr _ => true
  | .fjmp _ => true
  | .fjmpIndirect _ => true
  | .fcall _ => true
  | .fret _ => true
  | .floop o => o.l ≤ 5#3
  | .gret _ => true
  | .ftrap _ => true
  | .fbrk _ => true
  | .ffence _ => true
  | .fwait o => o.n != 0#8
  | .resultLanding _ _ => true
  | .streamReadReturn _ _ => true
  | .ringWaitSatisfied _ _ => true
  | .copyWaitSatisfied _ _ => true
  | .tileBarrierWaitSatisfied _ _ => true
  | .tileBarrierArrival _ _ => true
  | .tbwWake _ _ => true
  | .commandAcceptAfterBackpressure _ _ => true
  | .drainPoint _ _ => true
  | .basinAgeExpiry _ _ _ => true
  | .memoryResultReturn _ _ => true
  | .memWaitWake _ _ => true
  | .memWaitTimeout _ _ => true
  | .vwaitWake _ _ => true
  | .vwaitTimeout _ _ => true
  | .idleWake _ _ => true
  | .idleTimeout _ _ => true
  | .queueWaitWake _ _ => true
  | .cwaitWake _ _ => true
  | .rootBroadcast _ _ => true
  | .barwWake _ _ => true
  | .gatherBlock _ _ _ => true
  | .copyCommandComplete _ _ _ => true
  | .commandFault _ _ _ => true
  | .blockPreempt _ => true
  | .dpboundExpiry _ => true
  | .launchQueueTailWrite _ _ => true
  | .launchAccept _ => true
  | .launchWaitPoll _ => true
  | .blockResidency _ _ => true
  | .blockRetire _ => true
  | .parkWake _ => true
  | .parkMonitorFreed _ => true
  | .l1EvictionWriteback _ _ => true
  | .shootdownComplete _ _ => true
  | .walkAccept _ => true
  | .walkRestart _ _ => true
  | .walkComplete _ _ => true
  | .accessCountApply => true
  | .faultRecordPost => true
  | .faultQueueRetry => true
  | .ctxstLoadedWrite _ _ => true
  | .ctxstKillWrite _ => true
  | .killComplete _ => true
  | .walkstkWrite _ _ => true
  | .fqbaseWrite _ => true
  | .xtrigHreqWrite _ => true
  | .xtrigRreqWrite _ => true
  | .breakpointHit _ _ _ => true
  | .haltComplete _ => true
  | .nostopTimeout _ _ => true
  | .trctlWrite _ _ => true
  | .traceSample _ _ _ => true
  | .hostRegisterWrite _ _ => true
  | .hostBar2Write _ _ _ => true
  | .hostBar2Read _ _ => true
  | .capabilityApply _ => true
  | .castWriteFlit _ _ _ => true
  | .versionAdvanceFlit _ _ => true
  | .remoteAccessRequestFlit _ _ _ _ => true
  | .responseFlit _ _ => true
  | .heartbeatFlit _ => true
  | .heartbeatTimer => true
  | .portDown _ => true
  | .accessTimeout _ => true
  | .deviceReset => true
  | .bootVerifyComplete => true
  | .doorbell => true
  | .fusedSvnRaise => true
  | .attestationRequest _ => true
  | .thermalThrottle => true
  | .thermalShutdown => true
  | .writeAcknowledgedAtHome _ _ => true
  | .preemptResidencyExpiry _ => true
  | .ageWrite _ _ => true
  | .pstatWrite _ _ _ => true
  | .waitRemoteReread _ _ => true

/-- Only a no-operation has the guard that is never decoded (R60). -/
def Instr.guardOk (i : Instr) : Bool :=
  match i.guard? with
  | none => true
  | some g => !g.isSkip || i == .nop g

/-- A well-formed instruction: its operands keep the limits of its entry, and its guard is one that decodes. -/
def Instr.wf (i : Instr) : Bool := i.guardOk && i.limits

end Sys2Proof
end

