-- ==== Sys2Proof/Decode.lean ====
section
/-! DEFINITION. The decoder and the encoder of the NL8-4D, both written from 03_encodings.md and the operand layouts of each
instruction's entry. Decoding is total: a word that is not an instruction is refused by name. -/

namespace Sys2Proof

/-- Why a word is not an instruction (R78, R80). Each of them raises ILL. -/
inductive DecErr where
  /-- OP is reserved (R68, R73). -/
  | opcode
  /-- A reserved field is non-zero or a code has no meaning (R78). -/
  | fields
  /-- An operand breaks a limit of the instruction's entry. -/
  | limits
  /-- A header's reserved bit, its SCOPE code, or `gret` without DP (R80). -/
  | header
  deriving DecidableEq, Repr

/-- The classes of slot words (R73). -/
inductive SlotClass where
  | s | m | x | y | c | f
  deriving DecidableEq, Repr

/-- The words of an instruction: a thread word, a slot word of its class, a header, or none for an event of the device's agents. -/
inductive Enc where
  | thread (w : W64)
  | slot (k : SlotClass) (w : W32)
  | header (w : W32)
  | event
  deriving DecidableEq, Repr

/-- Scope codes (00_scope.md R7); 7 is reserved. -/
def Scope.code : Scope → BitVec 3
  | .block => 0#3
  | .core => 1#3
  | .cluster => 2#3
  | .die => 3#3
  | .device => 4#3
  | .system => 5#3
  | .fabric => 6#3

/-- The inverse of `Scope.code`; a value with no name is none. -/
def Scope.ofCode (b : BitVec 3) : Option Scope :=
  match b.toNat with
  | 0 => some .block
  | 1 => some .core
  | 2 => some .cluster
  | 3 => some .die
  | 4 => some .device
  | 5 => some .system
  | 6 => some .fabric
  | _ => none

/-- Order codes OR (R62). -/
def Order.code : Order → BitVec 2
  | .weak => 0#2
  | .acq => 1#2
  | .rel => 2#2
  | .ar => 3#2

/-- The inverse of `Order.code`; a value with no name is none. -/
def Order.ofCode (b : BitVec 2) : Option Order :=
  match b.toNat with
  | 0 => some .weak
  | 1 => some .acq
  | 2 => some .rel
  | _ => some .ar

/-- Order codes of a fence (R62, R264, R282); 0 is reserved there. -/
def FenceKind.code : FenceKind → BitVec 2
  | .acq => 1#2
  | .rel => 2#2
  | .ar => 3#2

/-- The inverse of `FenceKind.code`; a value with no name is none. -/
def FenceKind.ofCode (b : BitVec 2) : Option FenceKind :=
  match b.toNat with
  | 1 => some .acq
  | 2 => some .rel
  | 3 => some .ar
  | _ => none

/-- Rounding codes RM (R65). -/
def Rm.code : Rm → BitVec 2
  | .rne => 0#2
  | .rtz => 1#2
  | .rup => 2#2
  | .rdn => 3#2

/-- The inverse of `Rm.code`; a value with no name is none. -/
def Rm.ofCode (b : BitVec 2) : Option Rm :=
  match b.toNat with
  | 0 => some .rne
  | 1 => some .rtz
  | 2 => some .rup
  | _ => some .rdn

/-- Float type codes FT (R65); 3 is reserved. -/
def FTy.code : FTy → BitVec 2
  | .f32 => 0#2
  | .h2f16 => 1#2
  | .h2bf16 => 2#2

/-- The inverse of `FTy.code`; a value with no name is none. -/
def FTy.ofCode (b : BitVec 2) : Option FTy :=
  match b.toNat with
  | 0 => some .f32
  | 1 => some .h2f16
  | 2 => some .h2bf16
  | _ => none

/-- Element type codes (R76); 13 to 15 are reserved. -/
def Ty.code : Ty → BitVec 4
  | .s8 => 0#4
  | .z8 => 1#4
  | .s16 => 2#4
  | .z16 => 3#4
  | .s32 => 4#4
  | .z32 => 5#4
  | .f32 => 6#4
  | .f16 => 7#4
  | .bf16 => 8#4
  | .f8a => 9#4
  | .f8b => 10#4
  | .q8 => 11#4
  | .q4 => 12#4

/-- The inverse of `Ty.code`; a value with no name is none. -/
def Ty.ofCode (b : BitVec 4) : Option Ty :=
  match b.toNat with
  | 0 => some .s8
  | 1 => some .z8
  | 2 => some .s16
  | 3 => some .z16
  | 4 => some .s32
  | 5 => some .z32
  | 6 => some .f32
  | 7 => some .f16
  | 8 => some .bf16
  | 9 => some .f8a
  | 10 => some .f8b
  | 11 => some .q8
  | 12 => some .q4
  | _ => none

/-- Overflow modes (R100); 3 is reserved. -/
def Ovf.code : Ovf → BitVec 2
  | .sat => 0#2
  | .nan => 1#2
  | .inf => 2#2

/-- The inverse of `Ovf.code`; a value with no name is none. -/
def Ovf.ofCode (b : BitVec 2) : Option Ovf :=
  match b.toNat with
  | 0 => some .sat
  | 1 => some .nan
  | 2 => some .inf
  | _ => none

/-- Integer condition codes (R77). -/
def Cond.code : Cond → BitVec 3
  | .eq => 0#3
  | .ne => 1#3
  | .lt => 2#3
  | .ge => 3#3
  | .ltu => 4#3
  | .geu => 5#3
  | .le => 6#3
  | .gt => 7#3

/-- The inverse of `Cond.code`; a value with no name is none. -/
def Cond.ofCode (b : BitVec 3) : Option Cond :=
  match b.toNat with
  | 0 => some .eq
  | 1 => some .ne
  | 2 => some .lt
  | 3 => some .ge
  | 4 => some .ltu
  | 5 => some .geu
  | 6 => some .le
  | _ => some .gt

/-- Float condition codes (R121). -/
def FCond.code : FCond → BitVec 3
  | .eq => 0#3
  | .ne => 1#3
  | .lt => 2#3
  | .ge => 3#3
  | .uo => 4#3
  | .ord => 5#3
  | .le => 6#3
  | .gt => 7#3

/-- The inverse of `FCond.code`; a value with no name is none. -/
def FCond.ofCode (b : BitVec 3) : Option FCond :=
  match b.toNat with
  | 0 => some .eq
  | 1 => some .ne
  | 2 => some .lt
  | 3 => some .ge
  | 4 => some .uo
  | 5 => some .ord
  | 6 => some .le
  | _ => some .gt

/-- Access sizes SZ (R62); 7 is reserved. -/
def Sz.code : Sz → BitVec 3
  | .s8 => 0#3
  | .z8 => 1#3
  | .s16 => 2#3
  | .z16 => 3#3
  | .w32 => 4#3
  | .w64 => 5#3
  | .w128 => 6#3

/-- The inverse of `Sz.code`; a value with no name is none. -/
def Sz.ofCode (b : BitVec 3) : Option Sz :=
  match b.toNat with
  | 0 => some .s8
  | 1 => some .z8
  | 2 => some .s16
  | 3 => some .z16
  | 4 => some .w32
  | 5 => some .w64
  | 6 => some .w128
  | _ => none

/-- Cache hints CH (R62). -/
def Hint.code : Hint → BitVec 2
  | .none => 0#2
  | .keep => 1#2
  | .strm => 2#2
  | .nol1 => 3#2

/-- The inverse of `Hint.code`; a value with no name is none. -/
def Hint.ofCode (b : BitVec 2) : Option Hint :=
  match b.toNat with
  | 0 => some .none
  | 1 => some .keep
  | 2 => some .strm
  | _ => some .nol1

/-- Branch hints H (R63); 4 to 7 are reserved. -/
def BrHint.code : BrHint → BitVec 3
  | .none => 0#3
  | .likely => 1#3
  | .unlikely => 2#3
  | .loop => 3#3

/-- The inverse of `BrHint.code`; a value with no name is none. -/
def BrHint.ofCode (b : BitVec 3) : Option BrHint :=
  match b.toNat with
  | 0 => some .none
  | 1 => some .likely
  | 2 => some .unlikely
  | 3 => some .loop
  | _ => Option.none

/-- Lane exchange modes (R141). -/
def ShflMode.code : ShflMode → BitVec 2
  | .idx => 0#2
  | .up => 1#2
  | .down => 2#2
  | .xor => 3#2

/-- The inverse of `ShflMode.code`; a value with no name is none. -/
def ShflMode.ofCode (b : BitVec 2) : Option ShflMode :=
  match b.toNat with
  | 0 => some .idx
  | 1 => some .up
  | 2 => some .down
  | _ => some .xor

/-- Segment widths SG (R141); 5 to 7 raise ILL. -/
def Seg.code : Seg → BitVec 3
  | .w16 => 0#3
  | .w8 => 1#3
  | .w4 => 2#3
  | .w2 => 3#3
  | .w1 => 4#3

/-- The inverse of `Seg.code`; a value with no name is none. -/
def Seg.ofCode (b : BitVec 3) : Option Seg :=
  match b.toNat with
  | 0 => some .w16
  | 1 => some .w8
  | 2 => some .w4
  | 3 => some .w2
  | 4 => some .w1
  | _ => none

/-- Atomic operations AOP (R261). -/
def AtomOp.code : AtomOp → BitVec 4
  | .add => 0#4
  | .and => 1#4
  | .or => 2#4
  | .xor => 3#4
  | .min => 4#4
  | .max => 5#4
  | .minu => 6#4
  | .maxu => 7#4
  | .xchg => 8#4
  | .inc => 9#4
  | .fadd => 10#4

/-- The inverse of `AtomOp.code`; a value with no name is none. -/
def AtomOp.ofCode (b : BitVec 4) : Option AtomOp :=
  match b.toNat with
  | 0 => some .add
  | 1 => some .and
  | 2 => some .or
  | 3 => some .xor
  | 4 => some .min
  | 5 => some .max
  | 6 => some .minu
  | 7 => some .maxu
  | 8 => some .xchg
  | 9 => some .inc
  | 10 => some .fadd
  | _ => none

/-- Special-register codes (R75). -/
def Special.code : Special → BitVec 8
  | .tid => 0#8
  | .bid0 => 1#8
  | .bid1 => 2#8
  | .bid2 => 3#8
  | .bid3 => 4#8
  | .lane => 5#8
  | .clu => 6#8
  | .core => 7#8
  | .die => 8#8
  | .dev => 9#8
  | .scr => 10#8
  | .clock => 11#8
  | .amax => 12#8
  | .fflags => 13#8

/-- The inverse of `Special.code`; a value with no name is none. -/
def Special.ofCode (b : BitVec 8) : Option Special :=
  match b.toNat with
  | 0 => some .tid
  | 1 => some .bid0
  | 2 => some .bid1
  | 3 => some .bid2
  | 4 => some .bid3
  | 5 => some .lane
  | 6 => some .clu
  | 7 => some .core
  | 8 => some .die
  | 9 => some .dev
  | 10 => some .scr
  | 11 => some .clock
  | 12 => some .amax
  | 13 => some .fflags
  | _ => none

/-- System-register codes (R346). -/
def SysReg.code : SysReg → BitVec 8
  | .pstat => 0#8
  | .tvec => 1#8
  | .frameb => 2#8
  | .ctxid => 3#8
  | .asid => 4#8
  | .ptroot => 5#8
  | .ctxst => 6#8
  | .dpbound => 7#8
  | .age => 8#8
  | .detmode => 9#8
  | .kvpool => 10#8
  | .walkstk => 11#8
  | .casttb => 12#8
  | .xtrig => 13#8
  | .fflags0 => 14#8
  | .fflags1 => 15#8
  | .fflags2 => 16#8
  | .fflags3 => 17#8
  | .fflags4 => 18#8
  | .fflags5 => 19#8
  | .cntthr => 32#8
  | .nqbase => 33#8
  | .fqbase => 34#8

/-- The inverse of `SysReg.code`; a value with no name is none. -/
def SysReg.ofCode (b : BitVec 8) : Option SysReg :=
  match b.toNat with
  | 0 => some .pstat
  | 1 => some .tvec
  | 2 => some .frameb
  | 3 => some .ctxid
  | 4 => some .asid
  | 5 => some .ptroot
  | 6 => some .ctxst
  | 7 => some .dpbound
  | 8 => some .age
  | 9 => some .detmode
  | 10 => some .kvpool
  | 11 => some .walkstk
  | 12 => some .casttb
  | 13 => some .xtrig
  | 14 => some .fflags0
  | 15 => some .fflags1
  | 16 => some .fflags2
  | 17 => some .fflags3
  | 18 => some .fflags4
  | 19 => some .fflags5
  | 32 => some .cntthr
  | 33 => some .nqbase
  | 34 => some .fqbase
  | _ => none

/-- Targets of `cinval` (R357). -/
def CacheTgt.code : CacheTgt → BitVec 2
  | .thread => 0#2
  | .keeper => 1#2
  | .both => 2#2
  | .data => 3#2

/-- The inverse of `CacheTgt.code`; a value with no name is none. -/
def CacheTgt.ofCode (b : BitVec 2) : Option CacheTgt :=
  match b.toNat with
  | 0 => some .thread
  | 1 => some .keeper
  | 2 => some .both
  | _ => some .data

/-- Register counts W (R288). -/
def AccW.code : AccW → BitVec 2
  | .w1 => 0#2
  | .w2 => 1#2
  | .w4 => 2#2
  | .w8 => 3#2

/-- The inverse of `AccW.code`; a value with no name is none. -/
def AccW.ofCode (b : BitVec 2) : Option AccW :=
  match b.toNat with
  | 0 => some .w1
  | 1 => some .w2
  | 2 => some .w4
  | _ => some .w8

/-- The guard field G at [55:51] (R59). -/
def guardOf (w : W64) : Guard := { neg := w.getLsbD 55, p := w.extractLsb' 51 4 }
/-- The five bits of a guard: NEG, then the predicate (R59). -/
def Guard.code (g : Guard) : BitVec 5 := BitVec.ofBool g.neg ++ g.p
/-- H and GQ of a slot word (R71). -/
def slotOf (w : W32) : Slot := { h := w.getLsbD 25, q := w.extractLsb' 22 3 }

/-- SC and OR of a load: OR 0 with SC zero, or OR 1 (R148). -/
def acqOf (b : BitVec 5) : Option (Option Scope) :=
  match (b.extractLsb' 0 2).toNat with
  | 0 => if b.extractLsb' 2 3 == 0#3 then some none else none
  | 1 => (Scope.ofCode (b.extractLsb' 2 3)).map some
  | _ => none
/-- The five bits SC and OR of a load (R61). -/
def acqCode : Option Scope → BitVec 5
  | none => 0#5
  | some s => s.code ++ 1#2
/-- SC and OR of a store: OR 0 with SC zero, or OR 2 (R149). -/
def relOf (b : BitVec 5) : Option (Option Scope) :=
  match (b.extractLsb' 0 2).toNat with
  | 0 => if b.extractLsb' 2 3 == 0#3 then some none else none
  | 2 => (Scope.ofCode (b.extractLsb' 2 3)).map some
  | _ => none
/-- The five bits SC and OR of a store (R61). -/
def relCode : Option Scope → BitVec 5
  | none => 0#5
  | some s => s.code ++ 2#2
/-- FT of `fdot2`: 1 for f16, 2 for bf16 (R128). -/
def halfOf (b : BitVec 2) : Option Bool :=
  match b.toNat with
  | 1 => some false
  | 2 => some true
  | _ => none
/-- The inverse of `halfOf`. -/
def halfCode (b : Bool) : BitVec 2 := if b then 2#2 else 1#2
/-- TS, TD, OVF and CV of `cpy` (R274): with CV = 0 the other three are zero. -/
def cvOf (b : BitVec 11) : Option (Option CopyCv) :=
  if b == 0#11 then some none
  else if b.getLsbD 0 then do
    let ts ← Ty.ofCode (b.extractLsb' 7 4)
    let td ← Ty.ofCode (b.extractLsb' 3 4)
    let ovf ← Ovf.ofCode (b.extractLsb' 1 2)
    return some { ts, td, ovf }
  else none
/-- The inverse of `cvOf`. -/
def cvCode : Option CopyCv → BitVec 11
  | none => 0#11
  | some v => v.ts.code ++ v.td.code ++ v.ovf.code ++ 1#1
/-- A register field that one bit enables and that is zero without it (`barr`, `sysr`, `sysw`). -/
def optReg (on : Bool) (r : Reg) : Option (Option Reg) :=
  if on then some (some r) else if r == 0#8 then some none else none

/-- A header word (R69): MASK, DP, PF, SCOPE. -/
def headerWord (o : Header) (mask : Byte) : W32 :=
  mask ++ BitVec.ofBool o.dp ++ BitVec.ofBool o.scope.isSome ++ (o.scope.elim 0#3 Scope.code) ++ 0#19
/-- A header, with its MASK, from its word (R69, R80). -/
def decodeHeader (w : W32) : Option (Header × Byte) := do
  guard (w.extractLsb' 0 19 == 0#19)
  if w.getLsbD 22 then
    let s ← Scope.ofCode (w.extractLsb' 19 3)
    return ({ dp := w.getLsbD 23, scope := some s }, w.extractLsb' 24 8)
  else
    guard (w.extractLsb' 19 3 == 0#3)
    return ({ dp := w.getLsbD 23, scope := none }, w.extractLsb' 24 8)

/-- The operands of NOP (R114). -/
def decNop (w : BitVec 64) : Option Instr := do
  guard (w.extractLsb' 0 51 == 0#51)
  return .nop (guardOf w)

/-- The operands of ADD (R113). -/
def decAdd (w : BitVec 64) : Option Instr := do
  guard (w.extractLsb' 19 8 == 0#8 && w.extractLsb' 0 19 == 0#19)
  return .add { g := guardOf w, d := w.extractLsb' 43 8, a := w.extractLsb' 35 8, b := w.extractLsb' 27 8 }

/-- The operands of SUB (R113). -/
def decSub (w : BitVec 64) : Option Instr := do
  guard (w.extractLsb' 19 8 == 0#8 && w.extractLsb' 0 19 == 0#19)
  return .sub { g := guardOf w, d := w.extractLsb' 43 8, a := w.extractLsb' 35 8, b := w.extractLsb' 27 8 }

/-- The operands of MUL (R113). -/
def decMul (w : BitVec 64) : Option Instr := do
  guard (w.extractLsb' 19 8 == 0#8 && w.extractLsb' 0 19 == 0#19)
  return .mul { g := guardOf w, d := w.extractLsb' 43 8, a := w.extractLsb' 35 8, b := w.extractLsb' 27 8 }

/-- The operands of AND (R113). -/
def decAnd (w : BitVec 64) : Option Instr := do
  guard (w.extractLsb' 19 8 == 0#8 && w.extractLsb' 0 19 == 0#19)
  return .and { g := guardOf w, d := w.extractLsb' 43 8, a := w.extractLsb' 35 8, b := w.extractLsb' 27 8 }

/-- The operands of OR (R113). -/
def decOr (w : BitVec 64) : Option Instr := do
  guard (w.extractLsb' 19 8 == 0#8 && w.extractLsb' 0 19 == 0#19)
  return .or { g := guardOf w, d := w.extractLsb' 43 8, a := w.extractLsb' 35 8, b := w.extractLsb' 27 8 }

/-- The operands of XOR (R113). -/
def decXor (w : BitVec 64) : Option Instr := do
  guard (w.extractLsb' 19 8 == 0#8 && w.extractLsb' 0 19 == 0#19)
  return .xor { g := guardOf w, d := w.extractLsb' 43 8, a := w.extractLsb' 35 8, b := w.extractLsb' 27 8 }

/-- The operands of ANDN (R113). -/
def decAndn (w : BitVec 64) : Option Instr := do
  guard (w.extractLsb' 19 8 == 0#8 && w.extractLsb' 0 19 == 0#19)
  return .andn { g := guardOf w, d := w.extractLsb' 43 8, a := w.extractLsb' 35 8, b := w.extractLsb' 27 8 }

/-- The operands of SHL (R113). -/
def decShl (w : BitVec 64) : Option Instr := do
  guard (w.extractLsb' 19 8 == 0#8 && w.extractLsb' 0 19 == 0#19)
  return .shl { g := guardOf w, d := w.extractLsb' 43 8, a := w.extractLsb' 35 8, b := w.extractLsb' 27 8 }

/-- The operands of ADD_64 (R113). -/
def decAdd64 (w : BitVec 64) : Option Instr := do
  guard (w.extractLsb' 19 8 == 0#8 && w.extractLsb' 0 19 == 0#19)
  return .add64 { g := guardOf w, d := w.extractLsb' 43 8, a := w.extractLsb' 35 8, b := w.extractLsb' 27 8 }

/-- The operands of SUB_64 (R113). -/
def decSub64 (w : BitVec 64) : Option Instr := do
  guard (w.extractLsb' 19 8 == 0#8 && w.extractLsb' 0 19 == 0#19)
  return .sub64 { g := guardOf w, d := w.extractLsb' 43 8, a := w.extractLsb' 35 8, b := w.extractLsb' 27 8 }

/-- The operands of SHL_64 (R113). -/
def decShl64 (w : BitVec 64) : Option Instr := do
  guard (w.extractLsb' 19 8 == 0#8 && w.extractLsb' 0 19 == 0#19)
  return .shl64 { g := guardOf w, d := w.extractLsb' 43 8, a := w.extractLsb' 35 8, b := w.extractLsb' 27 8 }

/-- The operands of MUL_64 (R113). -/
def decMul64 (w : BitVec 64) : Option Instr := do
  guard (w.extractLsb' 19 8 == 0#8 && w.extractLsb' 0 19 == 0#19)
  return .mul64 { g := guardOf w, d := w.extractLsb' 43 8, a := w.extractLsb' 35 8, b := w.extractLsb' 27 8 }

/-- The operands of MULH (R113). -/
def decMulh (w : BitVec 64) : Option Instr := do
  guard (w.extractLsb' 19 8 == 0#8 && w.extractLsb' 1 18 == 0#18)
  return .mulh { g := guardOf w, d := w.extractLsb' 43 8, a := w.extractLsb' 35 8, b := w.extractLsb' 27 8, f := w.getLsbD 0 }

/-- The operands of MULW (R113). -/
def decMulw (w : BitVec 64) : Option Instr := do
  guard (w.extractLsb' 19 8 == 0#8 && w.extractLsb' 1 18 == 0#18)
  return .mulw { g := guardOf w, d := w.extractLsb' 43 8, a := w.extractLsb' 35 8, b := w.extractLsb' 27 8, f := w.getLsbD 0 }

/-- The operands of SHR (R113). -/
def decShr (w : BitVec 64) : Option Instr := do
  guard (w.extractLsb' 19 8 == 0#8 && w.extractLsb' 1 18 == 0#18)
  return .shr { g := guardOf w, d := w.extractLsb' 43 8, a := w.extractLsb' 35 8, b := w.extractLsb' 27 8, f := w.getLsbD 0 }

/-- The operands of ROT (R113). -/
def decRot (w : BitVec 64) : Option Instr := do
  guard (w.extractLsb' 19 8 == 0#8 && w.extractLsb' 1 18 == 0#18)
  return .rot { g := guardOf w, d := w.extractLsb' 43 8, a := w.extractLsb' 35 8, b := w.extractLsb' 27 8, f := w.getLsbD 0 }

/-- The operands of MIN (R113). -/
def decMin (w : BitVec 64) : Option Instr := do
  guard (w.extractLsb' 19 8 == 0#8 && w.extractLsb' 1 18 == 0#18)
  return .min { g := guardOf w, d := w.extractLsb' 43 8, a := w.extractLsb' 35 8, b := w.extractLsb' 27 8, f := w.getLsbD 0 }

/-- The operands of MAX (R113). -/
def decMax (w : BitVec 64) : Option Instr := do
  guard (w.extractLsb' 19 8 == 0#8 && w.extractLsb' 1 18 == 0#18)
  return .max { g := guardOf w, d := w.extractLsb' 43 8, a := w.extractLsb' 35 8, b := w.extractLsb' 27 8, f := w.getLsbD 0 }

/-- The operands of BFX (R115). -/
def decBfx (w : BitVec 64) : Option Instr := do
  guard (w.extractLsb' 19 8 == 0#8 && w.extractLsb' 1 18 == 0#18)
  return .bfx { g := guardOf w, d := w.extractLsb' 43 8, a := w.extractLsb' 35 8, b := w.extractLsb' 27 8, f := w.getLsbD 0 }

/-- The operands of SHR_64 (R113). -/
def decShr64 (w : BitVec 64) : Option Instr := do
  guard (w.extractLsb' 19 8 == 0#8 && w.extractLsb' 1 18 == 0#18)
  return .shr64 { g := guardOf w, d := w.extractLsb' 43 8, a := w.extractLsb' 35 8, b := w.extractLsb' 27 8, f := w.getLsbD 0 }

/-- The operands of MAD (R113). -/
def decMad (w : BitVec 64) : Option Instr := do
  guard (w.extractLsb' 0 19 == 0#19)
  return .mad { g := guardOf w, d := w.extractLsb' 43 8, a := w.extractLsb' 35 8, b := w.extractLsb' 27 8, c := w.extractLsb' 19 8 }

/-- The operands of BFI (R115). -/
def decBfi (w : BitVec 64) : Option Instr := do
  guard (w.extractLsb' 0 19 == 0#19)
  return .bfi { g := guardOf w, d := w.extractLsb' 43 8, a := w.extractLsb' 35 8, b := w.extractLsb' 27 8, c := w.extractLsb' 19 8 }

/-- The operands of PERM (R136). -/
def decPerm (w : BitVec 64) : Option Instr := do
  guard (w.extractLsb' 0 19 == 0#19)
  return .perm { g := guardOf w, d := w.extractLsb' 43 8, a := w.extractLsb' 35 8, b := w.extractLsb' 27 8, c := w.extractLsb' 19 8 }

/-- The operands of ABS (R114). -/
def decAbs (w : BitVec 64) : Option Instr := do
  guard (w.extractLsb' 27 8 == 0#8 && w.extractLsb' 19 8 == 0#8 && w.extractLsb' 1 18 == 0#18)
  return .abs { g := guardOf w, d := w.extractLsb' 43 8, a := w.extractLsb' 35 8, f := w.getLsbD 0 }

/-- The operands of CLZ (R114). -/
def decClz (w : BitVec 64) : Option Instr := do
  guard (w.extractLsb' 27 8 == 0#8 && w.extractLsb' 19 8 == 0#8 && w.extractLsb' 0 19 == 0#19)
  return .clz { g := guardOf w, d := w.extractLsb' 43 8, a := w.extractLsb' 35 8 }

/-- The operands of POPC (R114). -/
def decPopc (w : BitVec 64) : Option Instr := do
  guard (w.extractLsb' 27 8 == 0#8 && w.extractLsb' 19 8 == 0#8 && w.extractLsb' 0 19 == 0#19)
  return .popc { g := guardOf w, d := w.extractLsb' 43 8, a := w.extractLsb' 35 8 }

/-- The operands of BREV (R114). -/
def decBrev (w : BitVec 64) : Option Instr := do
  guard (w.extractLsb' 27 8 == 0#8 && w.extractLsb' 19 8 == 0#8 && w.extractLsb' 0 19 == 0#19)
  return .brev { g := guardOf w, d := w.extractLsb' 43 8, a := w.extractLsb' 35 8 }

/-- The operands of ADDX (R116). -/
def decAddx (w : BitVec 64) : Option Instr := do
  guard (w.extractLsb' 19 8 == 0#8 && w.extractLsb' 9 10 == 0#10)
  return .addx { g := guardOf w, d := w.extractLsb' 43 8, a := w.extractLsb' 35 8, b := w.extractLsb' 27 8, co := w.extractLsb' 5 4, ce := w.getLsbD 4, cin := w.extractLsb' 0 4 }

/-- The operands of SUBX (R116). -/
def decSubx (w : BitVec 64) : Option Instr := do
  guard (w.extractLsb' 19 8 == 0#8 && w.extractLsb' 9 10 == 0#10)
  return .subx { g := guardOf w, d := w.extractLsb' 43 8, a := w.extractLsb' 35 8, b := w.extractLsb' 27 8, co := w.extractLsb' 5 4, ce := w.getLsbD 4, cin := w.extractLsb' 0 4 }

/-- The operands of LEA (R117). -/
def decLea (w : BitVec 64) : Option Instr := do
  guard (w.extractLsb' 19 8 == 0#8 && w.extractLsb' 4 15 == 0#15)
  return .lea { g := guardOf w, d := w.extractLsb' 43 8, a := w.extractLsb' 35 8, b := w.extractLsb' 27 8, sx := w.getLsbD 3, sh := w.extractLsb' 0 3 }

/-- The operands of IDOT4 (R118). -/
def decIdot4 (w : BitVec 64) : Option Instr := do
  guard (w.extractLsb' 3 16 == 0#16)
  return .idot4 { g := guardOf w, d := w.extractLsb' 43 8, a := w.extractLsb' 35 8, b := w.extractLsb' 27 8, c := w.extractLsb' 19 8, sat := w.getLsbD 2, sb := w.getLsbD 1, sa := w.getLsbD 0 }

/-- The operands of IDOT8 (R118). -/
def decIdot8 (w : BitVec 64) : Option Instr := do
  guard (w.extractLsb' 3 16 == 0#16)
  return .idot8 { g := guardOf w, d := w.extractLsb' 43 8, a := w.extractLsb' 35 8, b := w.extractLsb' 27 8, c := w.extractLsb' 19 8, sat := w.getLsbD 2, sb := w.getLsbD 1, sa := w.getLsbD 0 }

/-- The operands of ADDI (R119). -/
def decAddi (w : BitVec 64) : Option Instr := do
  guard (w.extractLsb' 32 3 == 0#3)
  return .addi { g := guardOf w, d := w.extractLsb' 43 8, a := w.extractLsb' 35 8, imm := w.extractLsb' 0 32 }

/-- The operands of ANDI (R119). -/
def decAndi (w : BitVec 64) : Option Instr := do
  guard (w.extractLsb' 32 3 == 0#3)
  return .andi { g := guardOf w, d := w.extractLsb' 43 8, a := w.extractLsb' 35 8, imm := w.extractLsb' 0 32 }

/-- The operands of ORI (R119). -/
def decOri (w : BitVec 64) : Option Instr := do
  guard (w.extractLsb' 32 3 == 0#3)
  return .ori { g := guardOf w, d := w.extractLsb' 43 8, a := w.extractLsb' 35 8, imm := w.extractLsb' 0 32 }

/-- The operands of XORI (R119). -/
def decXori (w : BitVec 64) : Option Instr := do
  guard (w.extractLsb' 32 3 == 0#3)
  return .xori { g := guardOf w, d := w.extractLsb' 43 8, a := w.extractLsb' 35 8, imm := w.extractLsb' 0 32 }

/-- The operands of MULI (R119). -/
def decMuli (w : BitVec 64) : Option Instr := do
  guard (w.extractLsb' 32 3 == 0#3)
  return .muli { g := guardOf w, d := w.extractLsb' 43 8, a := w.extractLsb' 35 8, imm := w.extractLsb' 0 32 }

/-- The operands of SHLI (R119). -/
def decShli (w : BitVec 64) : Option Instr := do
  guard (w.extractLsb' 33 2 == 0#2 && w.extractLsb' 5 27 == 0#27)
  return .shli { g := guardOf w, d := w.extractLsb' 43 8, a := w.extractLsb' 35 8, ar := w.getLsbD 32, n := w.extractLsb' 0 5 }

/-- The operands of SHRI (R119). -/
def decShri (w : BitVec 64) : Option Instr := do
  guard (w.extractLsb' 33 2 == 0#2 && w.extractLsb' 5 27 == 0#27)
  return .shri { g := guardOf w, d := w.extractLsb' 43 8, a := w.extractLsb' 35 8, ar := w.getLsbD 32, n := w.extractLsb' 0 5 }

/-- The operands of MOVI (R119). -/
def decMovi (w : BitVec 64) : Option Instr := do
  guard (w.extractLsb' 32 11 == 0#11)
  return .movi { g := guardOf w, d := w.extractLsb' 43 8, imm := w.extractLsb' 0 32 }

/-- The operands of MOVIH (R119). -/
def decMovih (w : BitVec 64) : Option Instr := do
  guard (w.extractLsb' 16 19 == 0#19)
  return .movih { g := guardOf w, d := w.extractLsb' 43 8, a := w.extractLsb' 35 8, imm := w.extractLsb' 0 16 }

/-- The operands of CMPI (R120). -/
def decCmpi (w : BitVec 64) : Option Instr := do
  let cond' ← Cond.ofCode (w.extractLsb' 32 3)
  return .cmpi { g := guardOf w, pd := w.extractLsb' 47 4, pe := w.extractLsb' 43 4, a := w.extractLsb' 35 8, cond := cond', imm := w.extractLsb' 0 32 }

/-- The operands of CMP (R120). -/
def decCmp (w : BitVec 64) : Option Instr := do
  guard (w.extractLsb' 3 24 == 0#24)
  let cond' ← Cond.ofCode (w.extractLsb' 0 3)
  return .cmp { g := guardOf w, pd := w.extractLsb' 47 4, pe := w.extractLsb' 43 4, a := w.extractLsb' 35 8, b := w.extractLsb' 27 8, cond := cond' }

/-- The operands of CMP_FLOAT (R121). -/
def decCmpFloat (w : BitVec 64) : Option Instr := do
  guard (w.extractLsb' 17 10 == 0#10 && w.extractLsb' 5 10 == 0#10 && w.extractLsb' 3 1 == 1#1)
  let ty' ← FTy.ofCode (w.extractLsb' 15 2)
  let cond' ← FCond.ofCode (w.extractLsb' 0 3)
  return .cmpFloat { g := guardOf w, pd := w.extractLsb' 47 4, pe := w.extractLsb' 43 4, a := w.extractLsb' 35 8, b := w.extractLsb' 27 8, ty := ty', hs := w.getLsbD 4, cond := cond' }

/-- The operands of PLOG (R122). -/
def decPlog (w : BitVec 64) : Option Instr := do
  guard (w.extractLsb' 39 4 == 0#4 && w.extractLsb' 31 4 == 0#4 && w.extractLsb' 4 23 == 0#23)
  return .plog { g := guardOf w, pd := w.extractLsb' 47 4, pe := w.extractLsb' 43 4, pa := w.extractLsb' 35 4, pb := w.extractLsb' 27 4, tt := w.extractLsb' 0 4 }

/-- The operands of P2D (R123). -/
def decP2d (w : BitVec 64) : Option Instr := do
  guard (w.extractLsb' 0 43 == 0#43)
  return .p2d { g := guardOf w, d := w.extractLsb' 43 8 }

/-- The operands of D2P (R123). -/
def decD2p (w : BitVec 64) : Option Instr := do
  guard (w.extractLsb' 43 8 == 0#8 && w.extractLsb' 16 19 == 0#19 && w.extractLsb' 0 1 == 0#1)
  return .d2p { g := guardOf w, a := w.extractLsb' 35 8, mask := w.extractLsb' 1 15 }

/-- The operands of SEL (R124). -/
def decSel (w : BitVec 64) : Option Instr := do
  guard (w.extractLsb' 19 8 == 0#8 && w.extractLsb' 6 13 == 0#13)
  return .sel { g := guardOf w, d := w.extractLsb' 43 8, a := w.extractLsb' 35 8, b := w.extractLsb' 27 8, w := w.getLsbD 5, n := w.getLsbD 4, s := w.extractLsb' 0 4 }

/-- The operands of FADD (R126). -/
def decFadd (w : BitVec 64) : Option Instr := do
  guard (w.extractLsb' 19 8 == 0#8 && w.extractLsb' 0 15 == 0#15)
  let rm' ← Rm.ofCode (w.extractLsb' 17 2)
  let ty' ← FTy.ofCode (w.extractLsb' 15 2)
  return .fadd { g := guardOf w, d := w.extractLsb' 43 8, a := w.extractLsb' 35 8, b := w.extractLsb' 27 8, rm := rm', ty := ty' }

/-- The operands of FSUB (R126). -/
def decFsub (w : BitVec 64) : Option Instr := do
  guard (w.extractLsb' 19 8 == 0#8 && w.extractLsb' 0 15 == 0#15)
  let rm' ← Rm.ofCode (w.extractLsb' 17 2)
  let ty' ← FTy.ofCode (w.extractLsb' 15 2)
  return .fsub { g := guardOf w, d := w.extractLsb' 43 8, a := w.extractLsb' 35 8, b := w.extractLsb' 27 8, rm := rm', ty := ty' }

/-- The operands of FMUL (R126). -/
def decFmul (w : BitVec 64) : Option Instr := do
  guard (w.extractLsb' 19 8 == 0#8 && w.extractLsb' 0 15 == 0#15)
  let rm' ← Rm.ofCode (w.extractLsb' 17 2)
  let ty' ← FTy.ofCode (w.extractLsb' 15 2)
  return .fmul { g := guardOf w, d := w.extractLsb' 43 8, a := w.extractLsb' 35 8, b := w.extractLsb' 27 8, rm := rm', ty := ty' }

/-- The operands of FSCALE (R126). -/
def decFscale (w : BitVec 64) : Option Instr := do
  guard (w.extractLsb' 19 8 == 0#8 && w.extractLsb' 0 15 == 0#15)
  let rm' ← Rm.ofCode (w.extractLsb' 17 2)
  let ty' ← FTy.ofCode (w.extractLsb' 15 2)
  return .fscale { g := guardOf w, d := w.extractLsb' 43 8, a := w.extractLsb' 35 8, b := w.extractLsb' 27 8, rm := rm', ty := ty' }

/-- The operands of FMA (R126). -/
def decFma (w : BitVec 64) : Option Instr := do
  guard (w.extractLsb' 0 15 == 0#15)
  let rm' ← Rm.ofCode (w.extractLsb' 17 2)
  let ty' ← FTy.ofCode (w.extractLsb' 15 2)
  return .fma { g := guardOf w, d := w.extractLsb' 43 8, a := w.extractLsb' 35 8, b := w.extractLsb' 27 8, c := w.extractLsb' 19 8, rm := rm', ty := ty' }

/-- The operands of FMIN (R127). -/
def decFmin (w : BitVec 64) : Option Instr := do
  guard (w.extractLsb' 19 8 == 0#8 && w.extractLsb' 17 2 == 0#2 && w.extractLsb' 0 15 == 0#15)
  let ty' ← FTy.ofCode (w.extractLsb' 15 2)
  return .fmin { g := guardOf w, d := w.extractLsb' 43 8, a := w.extractLsb' 35 8, b := w.extractLsb' 27 8, ty := ty' }

/-- The operands of FMAX (R127). -/
def decFmax (w : BitVec 64) : Option Instr := do
  guard (w.extractLsb' 19 8 == 0#8 && w.extractLsb' 17 2 == 0#2 && w.extractLsb' 0 15 == 0#15)
  let ty' ← FTy.ofCode (w.extractLsb' 15 2)
  return .fmax { g := guardOf w, d := w.extractLsb' 43 8, a := w.extractLsb' 35 8, b := w.extractLsb' 27 8, ty := ty' }

/-- The operands of FDOT2 (R128). -/
def decFdot2 (w : BitVec 64) : Option Instr := do
  guard (w.extractLsb' 0 15 == 0#15)
  let rm' ← Rm.ofCode (w.extractLsb' 17 2)
  let bf' ← halfOf (w.extractLsb' 15 2)
  return .fdot2 { g := guardOf w, d := w.extractLsb' 43 8, a := w.extractLsb' 35 8, b := w.extractLsb' 27 8, c := w.extractLsb' 19 8, rm := rm', bf := bf' }

/-- The operands of FCLASS (R129). -/
def decFclass (w : BitVec 64) : Option Instr := do
  guard (w.extractLsb' 27 8 == 0#8 && w.extractLsb' 19 8 == 0#8 && w.extractLsb' 17 2 == 0#2 && w.extractLsb' 0 15 == 0#15)
  let ty' ← FTy.ofCode (w.extractLsb' 15 2)
  return .fclass { g := guardOf w, d := w.extractLsb' 43 8, a := w.extractLsb' 35 8, ty := ty' }

/-- The operands of FRND (R130). -/
def decFrnd (w : BitVec 64) : Option Instr := do
  guard (w.extractLsb' 27 8 == 0#8 && w.extractLsb' 19 8 == 0#8 && w.extractLsb' 0 14 == 0#14)
  let rm' ← Rm.ofCode (w.extractLsb' 17 2)
  let ty' ← FTy.ofCode (w.extractLsb' 15 2)
  return .frnd { g := guardOf w, d := w.extractLsb' 43 8, a := w.extractLsb' 35 8, rm := rm', ty := ty', x := w.getLsbD 14 }

/-- The operands of CVT (R131). -/
def decCvt (w : BitVec 64) : Option Instr := do
  guard (w.extractLsb' 27 8 == 0#8 && w.extractLsb' 19 8 == 0#8 && w.extractLsb' 12 5 == 0#5)
  let rm' ← Rm.ofCode (w.extractLsb' 17 2)
  let ovf' ← Ovf.ofCode (w.extractLsb' 8 2)
  let td' ← Ty.ofCode (w.extractLsb' 4 4)
  let ts' ← Ty.ofCode (w.extractLsb' 0 4)
  return .cvt { g := guardOf w, d := w.extractLsb' 43 8, a := w.extractLsb' 35 8, rm := rm', sel := w.extractLsb' 10 2, ovf := ovf', td := td', ts := ts' }

/-- The operands of CVTF (R132). -/
def decCvtf (w : BitVec 64) : Option Instr := do
  guard (w.extractLsb' 19 8 == 0#8 && w.extractLsb' 10 7 == 0#7 && w.extractLsb' 0 4 == 6#4)
  let rm' ← Rm.ofCode (w.extractLsb' 17 2)
  let ovf' ← Ovf.ofCode (w.extractLsb' 8 2)
  let td' ← Ty.ofCode (w.extractLsb' 4 4)
  return .cvtf { g := guardOf w, d := w.extractLsb' 43 8, a := w.extractLsb' 35 8, b := w.extractLsb' 27 8, rm := rm', ovf := ovf', td := td' }

/-- The operands of QUANT (R133). -/
def decQuant (w : BitVec 64) : Option Instr := do
  guard (w.extractLsb' 8 9 == 0#9 && w.extractLsb' 0 4 == 6#4)
  let rm' ← Rm.ofCode (w.extractLsb' 17 2)
  let ty' ← Ty.ofCode (w.extractLsb' 4 4)
  return .quant { g := guardOf w, d := w.extractLsb' 43 8, a := w.extractLsb' 35 8, b := w.extractLsb' 27 8, c := w.extractLsb' 19 8, rm := rm', ty := ty' }

/-- The operands of DEQ (R134). -/
def decDeq (w : BitVec 64) : Option Instr := do
  guard (w.extractLsb' 4 13 == 0#13)
  let rm' ← Rm.ofCode (w.extractLsb' 17 2)
  let ty' ← Ty.ofCode (w.extractLsb' 0 4)
  return .deq { g := guardOf w, d := w.extractLsb' 43 8, a := w.extractLsb' 35 8, b := w.extractLsb' 27 8, c := w.extractLsb' 19 8, rm := rm', ty := ty' }

/-- The operands of AMAX (R135). -/
def decAmax (w : BitVec 64) : Option Instr := do
  guard (w.extractLsb' 27 8 == 0#8 && w.extractLsb' 19 8 == 0#8 && w.extractLsb' 4 15 == 0#15)
  let ts' ← Ty.ofCode (w.extractLsb' 0 4)
  return .amax { g := guardOf w, d := w.extractLsb' 43 8, a := w.extractLsb' 35 8, ts := ts' }

/-- The operands of RCP (R137). -/
def decRcp (w : BitVec 64) : Option Instr := do
  guard (w.extractLsb' 27 8 == 0#8 && w.extractLsb' 19 8 == 0#8 && w.extractLsb' 0 17 == 0#17)
  let rm' ← Rm.ofCode (w.extractLsb' 17 2)
  return .rcp { g := guardOf w, d := w.extractLsb' 43 8, a := w.extractLsb' 35 8, rm := rm' }

/-- The operands of RSQRT (R137). -/
def decRsqrt (w : BitVec 64) : Option Instr := do
  guard (w.extractLsb' 27 8 == 0#8 && w.extractLsb' 19 8 == 0#8 && w.extractLsb' 0 17 == 0#17)
  let rm' ← Rm.ofCode (w.extractLsb' 17 2)
  return .rsqrt { g := guardOf w, d := w.extractLsb' 43 8, a := w.extractLsb' 35 8, rm := rm' }

/-- The operands of SQRT (R137). -/
def decSqrt (w : BitVec 64) : Option Instr := do
  guard (w.extractLsb' 27 8 == 0#8 && w.extractLsb' 19 8 == 0#8 && w.extractLsb' 0 17 == 0#17)
  let rm' ← Rm.ofCode (w.extractLsb' 17 2)
  return .sqrt { g := guardOf w, d := w.extractLsb' 43 8, a := w.extractLsb' 35 8, rm := rm' }

/-- The operands of EXP2 (R137). -/
def decExp2 (w : BitVec 64) : Option Instr := do
  guard (w.extractLsb' 27 8 == 0#8 && w.extractLsb' 19 8 == 0#8 && w.extractLsb' 0 17 == 0#17)
  let rm' ← Rm.ofCode (w.extractLsb' 17 2)
  return .exp2 { g := guardOf w, d := w.extractLsb' 43 8, a := w.extractLsb' 35 8, rm := rm' }

/-- The operands of LOG2 (R137). -/
def decLog2 (w : BitVec 64) : Option Instr := do
  guard (w.extractLsb' 27 8 == 0#8 && w.extractLsb' 19 8 == 0#8 && w.extractLsb' 0 17 == 0#17)
  let rm' ← Rm.ofCode (w.extractLsb' 17 2)
  return .log2 { g := guardOf w, d := w.extractLsb' 43 8, a := w.extractLsb' 35 8, rm := rm' }

/-- The operands of SIN (R137). -/
def decSin (w : BitVec 64) : Option Instr := do
  guard (w.extractLsb' 27 8 == 0#8 && w.extractLsb' 19 8 == 0#8 && w.extractLsb' 0 17 == 0#17)
  let rm' ← Rm.ofCode (w.extractLsb' 17 2)
  return .sin { g := guardOf w, d := w.extractLsb' 43 8, a := w.extractLsb' 35 8, rm := rm' }

/-- The operands of COS (R137). -/
def decCos (w : BitVec 64) : Option Instr := do
  guard (w.extractLsb' 27 8 == 0#8 && w.extractLsb' 19 8 == 0#8 && w.extractLsb' 0 17 == 0#17)
  let rm' ← Rm.ofCode (w.extractLsb' 17 2)
  return .cos { g := guardOf w, d := w.extractLsb' 43 8, a := w.extractLsb' 35 8, rm := rm' }

/-- The operands of TANH (R137). -/
def decTanh (w : BitVec 64) : Option Instr := do
  guard (w.extractLsb' 27 8 == 0#8 && w.extractLsb' 19 8 == 0#8 && w.extractLsb' 0 17 == 0#17)
  let rm' ← Rm.ofCode (w.extractLsb' 17 2)
  return .tanh { g := guardOf w, d := w.extractLsb' 43 8, a := w.extractLsb' 35 8, rm := rm' }

/-- The operands of SIGM (R137). -/
def decSigm (w : BitVec 64) : Option Instr := do
  guard (w.extractLsb' 27 8 == 0#8 && w.extractLsb' 19 8 == 0#8 && w.extractLsb' 0 17 == 0#17)
  let rm' ← Rm.ofCode (w.extractLsb' 17 2)
  return .sigm { g := guardOf w, d := w.extractLsb' 43 8, a := w.extractLsb' 35 8, rm := rm' }

/-- The operands of ERF (R137). -/
def decErf (w : BitVec 64) : Option Instr := do
  guard (w.extractLsb' 27 8 == 0#8 && w.extractLsb' 19 8 == 0#8 && w.extractLsb' 0 17 == 0#17)
  let rm' ← Rm.ofCode (w.extractLsb' 17 2)
  return .erf { g := guardOf w, d := w.extractLsb' 43 8, a := w.extractLsb' 35 8, rm := rm' }

/-- The operands of MOV (R139). -/
def decMov (w : BitVec 64) : Option Instr := do
  guard (w.extractLsb' 27 8 == 0#8 && w.extractLsb' 19 8 == 0#8 && w.extractLsb' 1 18 == 0#18)
  return .mov { g := guardOf w, d := w.extractLsb' 43 8, a := w.extractLsb' 35 8, f := w.getLsbD 0 }

/-- The operands of RDS (R140). -/
def decRds (w : BitVec 64) : Option Instr := do
  guard (w.extractLsb' 35 8 == 0#8 && w.extractLsb' 27 8 == 0#8 && w.extractLsb' 19 8 == 0#8 && w.extractLsb' 9 10 == 0#10)
  let name' ← Special.ofCode (w.extractLsb' 0 8)
  return .rds { g := guardOf w, d := w.extractLsb' 43 8, clr := w.getLsbD 8, name := name' }

/-- The operands of SHFL (R141). -/
def decShfl (w : BitVec 64) : Option Instr := do
  guard (w.extractLsb' 19 8 == 0#8 && w.extractLsb' 10 9 == 0#9)
  let seg' ← Seg.ofCode (w.extractLsb' 2 3)
  let mode' ← ShflMode.ofCode (w.extractLsb' 0 2)
  return .shfl { g := guardOf w, d := w.extractLsb' 43 8, a := w.extractLsb' 35 8, b := w.extractLsb' 27 8, k := w.extractLsb' 6 4, i := w.getLsbD 5, seg := seg', mode := mode' }

/-- The operands of BR (R142). -/
def decBr (w : BitVec 64) : Option Instr := do
  guard (w.extractLsb' 35 16 == 0#16)
  let hint' ← BrHint.ofCode (w.extractLsb' 32 3)
  return .br { g := guardOf w, hint := hint', off := w.extractLsb' 0 32 }

/-- The operands of CALL (R142). -/
def decCall (w : BitVec 64) : Option Instr := do
  guard (w.extractLsb' 35 8 == 0#8)
  let hint' ← BrHint.ofCode (w.extractLsb' 32 3)
  return .call { g := guardOf w, d := w.extractLsb' 43 8, hint := hint', off := w.extractLsb' 0 32 }

/-- The operands of BRC (R142). -/
def decBrc (w : BitVec 64) : Option Instr := do
  guard (w.extractLsb' 35 8 == 0#8)
  let hint' ← BrHint.ofCode (w.extractLsb' 32 3)
  return .brc { g := guardOf w, d := w.extractLsb' 43 8, hint := hint', off := w.extractLsb' 0 32 }

/-- The operands of BRX (R143). -/
def decBrx (w : BitVec 64) : Option Instr := do
  guard (w.extractLsb' 43 8 == 0#8 && w.extractLsb' 27 8 == 0#8 && w.extractLsb' 19 8 == 0#8 && w.extractLsb' 0 19 == 0#19)
  return .brx { g := guardOf w, a := w.extractLsb' 35 8 }

/-- The operands of RET (R143). -/
def decRet (w : BitVec 64) : Option Instr := do
  guard (w.extractLsb' 43 8 == 0#8 && w.extractLsb' 27 8 == 0#8 && w.extractLsb' 19 8 == 0#8 && w.extractLsb' 0 19 == 0#19)
  return .ret { g := guardOf w, a := w.extractLsb' 35 8 }

/-- The operands of REFORM_DIRECT (R144). -/
def decReformDirect (w : BitVec 64) : Option Instr := do
  guard (w.extractLsb' 32 19 == 0#19)
  return .reformDirect { g := guardOf w, off := w.extractLsb' 0 32 }

/-- The operands of REFORM_INDIRECT (R144). -/
def decReformIndirect (w : BitVec 64) : Option Instr := do
  guard (w.extractLsb' 43 8 == 1#8 && w.extractLsb' 0 35 == 0#35)
  return .reformIndirect { g := guardOf w, a := w.extractLsb' 35 8 }

/-- The operands of REJOIN (R145). -/
def decRejoin (w : BitVec 64) : Option Instr := do
  guard (w.extractLsb' 0 51 == 0#51)
  return .rejoin (guardOf w)

/-- The operands of BAR (R145). -/
def decBar (w : BitVec 64) : Option Instr := do
  guard (w.extractLsb' 0 51 == 0#51)
  return .bar (guardOf w)

/-- The operands of EXIT (R145). -/
def decExit (w : BitVec 64) : Option Instr := do
  guard (w.extractLsb' 0 51 == 0#51)
  return .exit (guardOf w)

/-- The operands of ERET (R354). -/
def decEret (w : BitVec 64) : Option Instr := do
  guard (w.extractLsb' 0 51 == 0#51)
  return .eret (guardOf w)

/-- The operands of GATE (R146). -/
def decGate (w : BitVec 64) : Option Instr := do
  guard (w.extractLsb' 43 8 == 0#8 && w.extractLsb' 0 19 == 0#19)
  return .gate { g := guardOf w, a := w.extractLsb' 35 8, b := w.extractLsb' 27 8, c := w.extractLsb' 19 8 }

/-- The operands of TRAP (R147). -/
def decTrap (w : BitVec 64) : Option Instr := do
  guard (w.extractLsb' 8 43 == 0#43)
  return .trap { g := guardOf w, n := w.extractLsb' 0 8 }

/-- The operands of BRK (R147). -/
def decBrk (w : BitVec 64) : Option Instr := do
  guard (w.extractLsb' 8 43 == 0#43)
  return .brk { g := guardOf w, n := w.extractLsb' 0 8 }

/-- The operands of LD (R148). -/
def decLd (w : BitVec 64) : Option Instr := do
  let ord' ← acqOf (w.extractLsb' 30 5)
  let size' ← Sz.ofCode (w.extractLsb' 27 3)
  let hint' ← Hint.ofCode (w.extractLsb' 25 2)
  return .ld { g := guardOf w, d := w.extractLsb' 43 8, a := w.extractLsb' 35 8, ord := ord', size := size', hint := hint', ofs := w.extractLsb' 0 25 }

/-- The operands of ST (R149). -/
def decSt (w : BitVec 64) : Option Instr := do
  let ord' ← relOf (w.extractLsb' 30 5)
  let size' ← Sz.ofCode (w.extractLsb' 27 3)
  let hint' ← Hint.ofCode (w.extractLsb' 25 2)
  return .st { g := guardOf w, d := w.extractLsb' 43 8, a := w.extractLsb' 35 8, ord := ord', size := size', hint := hint', ofs := w.extractLsb' 0 25 }

/-- The operands of LDR (R260). -/
def decLdr (w : BitVec 64) : Option Instr := do
  guard (w.extractLsb' 27 3 == 5#3)
  let ord' ← acqOf (w.extractLsb' 30 5)
  let hint' ← Hint.ofCode (w.extractLsb' 25 2)
  return .ldr { g := guardOf w, d := w.extractLsb' 43 8, a := w.extractLsb' 35 8, ord := ord', hint := hint', ofs := w.extractLsb' 0 25 }

/-- The operands of STR (R260). -/
def decStr (w : BitVec 64) : Option Instr := do
  guard (w.extractLsb' 27 3 == 5#3)
  let ord' ← relOf (w.extractLsb' 30 5)
  let hint' ← Hint.ofCode (w.extractLsb' 25 2)
  return .str { g := guardOf w, d := w.extractLsb' 43 8, a := w.extractLsb' 35 8, ord := ord', hint := hint', ofs := w.extractLsb' 0 25 }

/-- The operands of PUB (R252). -/
def decPub (w : BitVec 64) : Option Instr := do
  guard (w.extractLsb' 30 2 == 2#2 && w.extractLsb' 27 3 == 5#3 && w.extractLsb' 25 2 == 0#2)
  let scope' ← Scope.ofCode (w.extractLsb' 32 3)
  return .pub { g := guardOf w, d := w.extractLsb' 43 8, a := w.extractLsb' 35 8, scope := scope', ofs := w.extractLsb' 0 25 }

/-- The operands of PREF (R150). -/
def decPref (w : BitVec 64) : Option Instr := do
  guard (w.extractLsb' 43 8 == 0#8 && w.extractLsb' 27 8 == 0#8)
  let hint' ← Hint.ofCode (w.extractLsb' 25 2)
  return .pref { g := guardOf w, a := w.extractLsb' 35 8, hint := hint', ofs := w.extractLsb' 0 25 }

/-- The operands of TAGLD (R260). -/
def decTagld (w : BitVec 64) : Option Instr := do
  guard (w.extractLsb' 25 10 == 0#10)
  return .tagld { g := guardOf w, d := w.extractLsb' 43 8, a := w.extractLsb' 35 8, ofs := w.extractLsb' 0 25 }

/-- The operands of OBJINIT (R247). -/
def decObjinit (w : BitVec 64) : Option Instr := do
  guard (w.extractLsb' 25 10 == 0#10)
  return .objinit { g := guardOf w, d := w.extractLsb' 43 8, a := w.extractLsb' 35 8, ofs := w.extractLsb' 0 25 }

/-- The operands of ATOM (R262). -/
def decAtom (w : BitVec 64) : Option Instr := do
  guard (w.extractLsb' 19 8 == 0#8 && w.extractLsb' 0 8 == 0#8)
  let scope' ← Scope.ofCode (w.extractLsb' 16 3)
  let ord' ← Order.ofCode (w.extractLsb' 14 2)
  let op' ← AtomOp.ofCode (w.extractLsb' 10 4)
  return .atom { g := guardOf w, d := w.extractLsb' 43 8, a := w.extractLsb' 35 8, b := w.extractLsb' 27 8, scope := scope', ord := ord', op := op', w := w.getLsbD 9, nr := w.getLsbD 8 }

/-- The operands of CAS (R263). -/
def decCas (w : BitVec 64) : Option Instr := do
  guard (w.extractLsb' 10 4 == 0#4 && w.extractLsb' 0 9 == 0#9)
  let scope' ← Scope.ofCode (w.extractLsb' 16 3)
  let ord' ← Order.ofCode (w.extractLsb' 14 2)
  return .cas { g := guardOf w, d := w.extractLsb' 43 8, a := w.extractLsb' 35 8, b := w.extractLsb' 27 8, c := w.extractLsb' 19 8, scope := scope', ord := ord', w := w.getLsbD 9 }

/-- The operands of FENCE (R264). -/
def decFence (w : BitVec 64) : Option Instr := do
  guard (w.extractLsb' 19 32 == 0#32 && w.extractLsb' 0 14 == 0#14)
  let scope' ← Scope.ofCode (w.extractLsb' 16 3)
  let kind' ← FenceKind.ofCode (w.extractLsb' 14 2)
  return .fence { g := guardOf w, scope := scope', kind := kind' }

/-- The operands of WAIT (R265). -/
def decWait (w : BitVec 64) : Option Instr := do
  guard (w.extractLsb' 15 1 == 0#1 && w.extractLsb' 3 11 == 0#11)
  let scope' ← Scope.ofCode (w.extractLsb' 16 3)
  let cond' ← Cond.ofCode (w.extractLsb' 0 3)
  return .wait { g := guardOf w, d := w.extractLsb' 43 8, a := w.extractLsb' 35 8, b := w.extractLsb' 27 8, c := w.extractLsb' 19 8, scope := scope', acq := w.getLsbD 14, cond := cond' }

/-- The operands of QPUSH (R267). -/
def decQpush (w : BitVec 64) : Option Instr := do
  guard (w.extractLsb' 0 35 == 0#35)
  return .qpush { g := guardOf w, d := w.extractLsb' 43 8, a := w.extractLsb' 35 8 }

/-- The operands of QPOP (R267). -/
def decQpop (w : BitVec 64) : Option Instr := do
  guard (w.extractLsb' 4 39 == 0#39)
  return .qpop { g := guardOf w, d := w.extractLsb' 43 8, e := w.extractLsb' 0 4 }

/-- The operands of QSZ_CNT (R266). -/
def decQszCnt (w : BitVec 64) : Option Instr := do
  guard (w.extractLsb' 6 37 == 0#37 && w.extractLsb' 0 2 == 0#2)
  return .qszCnt { g := guardOf w, d := w.extractLsb' 43 8, e := w.extractLsb' 2 4 }

/-- The operands of QSZ_INIT (R266). -/
def decQszInit (w : BitVec 64) : Option Instr := do
  guard (w.extractLsb' 6 21 == 0#21 && w.extractLsb' 0 2 == 1#2)
  return .qszInit { g := guardOf w, d := w.extractLsb' 43 8, a := w.extractLsb' 35 8, b := w.extractLsb' 27 8, e := w.extractLsb' 2 4 }

/-- The operands of QSZ_FIN (R266). -/
def decQszFin (w : BitVec 64) : Option Instr := do
  guard (w.extractLsb' 6 45 == 0#45 && w.extractLsb' 0 2 == 2#2)
  return .qszFin { g := guardOf w, e := w.extractLsb' 2 4 }

/-- The operands of CPY (R274). -/
def decCpy (w : BitVec 64) : Option Instr := do
  guard (w.extractLsb' 14 2 == 0#2)
  let scope' ← Scope.ofCode (w.extractLsb' 16 3)
  let cv' ← cvOf (w.extractLsb' 0 11)
  return .cpy { g := guardOf w, d := w.extractLsb' 43 8, a := w.extractLsb' 35 8, b := w.extractLsb' 27 8, c := w.extractLsb' 19 8, scope := scope', ch := w.extractLsb' 11 3, cv := cv' }

/-- The operands of CPN (R275). -/
def decCpn (w : BitVec 64) : Option Instr := do
  guard (w.extractLsb' 27 8 == 0#8 && w.extractLsb' 19 8 == 0#8 && w.extractLsb' 14 2 == 0#2 && w.extractLsb' 0 11 == 0#11)
  let scope' ← Scope.ofCode (w.extractLsb' 16 3)
  return .cpn { g := guardOf w, d := w.extractLsb' 43 8, a := w.extractLsb' 35 8, scope := scope', ch := w.extractLsb' 11 3 }

/-- The operands of CWAIT (R277). -/
def decCwait (w : BitVec 64) : Option Instr := do
  guard (w.extractLsb' 43 8 == 0#8 && w.extractLsb' 19 16 == 0#16 && w.extractLsb' 14 2 == 1#2 && w.extractLsb' 0 11 == 0#11)
  let scope' ← Scope.ofCode (w.extractLsb' 16 3)
  return .cwait { g := guardOf w, a := w.extractLsb' 35 8, scope := scope', ch := w.extractLsb' 11 3 }

/-- The operands of CSTAT (R277). -/
def decCstat (w : BitVec 64) : Option Instr := do
  guard (w.extractLsb' 19 24 == 0#24 && w.extractLsb' 15 1 == 0#1 && w.extractLsb' 0 11 == 0#11)
  let scope' ← Scope.ofCode (w.extractLsb' 16 3)
  return .cstat { g := guardOf w, d := w.extractLsb' 43 8, scope := scope', acq := w.getLsbD 14, ch := w.extractLsb' 11 3 }

/-- The operands of CABORT (R277). -/
def decCabort (w : BitVec 64) : Option Instr := do
  guard (w.extractLsb' 15 36 == 0#36 && w.extractLsb' 0 11 == 0#11)
  return .cabort { g := guardOf w, k := w.getLsbD 14, ch := w.extractLsb' 11 3 }

/-- The operands of BARR (R283). -/
def decBarr (w : BitVec 64) : Option Instr := do
  guard (w.extractLsb' 43 8 == 0#8 && w.extractLsb' 5 30 == 0#30)
  let x' ← optReg (w.getLsbD 4) (w.extractLsb' 35 8)
  return .barr { g := guardOf w, x := x', n := w.extractLsb' 0 4 }

/-- The operands of BARW (R283). -/
def decBarw (w : BitVec 64) : Option Instr := do
  guard (w.extractLsb' 4 31 == 0#31)
  return .barw { g := guardOf w, d := w.extractLsb' 43 8, a := w.extractLsb' 35 8, n := w.extractLsb' 0 4 }

/-- The operands of BARI (R283). -/
def decBari (w : BitVec 64) : Option Instr := do
  guard (w.extractLsb' 43 8 == 0#8 && w.extractLsb' 4 23 == 0#23)
  return .bari { g := guardOf w, a := w.extractLsb' 35 8, b := w.extractLsb' 27 8, n := w.extractLsb' 0 4 }

/-- The operands of WOPEN (R285). -/
def decWopen (w : BitVec 64) : Option Instr := do
  guard (w.extractLsb' 27 8 == 0#8 && w.extractLsb' 19 8 == 0#8 && w.extractLsb' 1 18 == 0#18)
  return .wopen { g := guardOf w, d := w.extractLsb' 43 8, a := w.extractLsb' 35 8, f := w.getLsbD 0 }

/-- The operands of WCLOSE (R285). -/
def decWclose (w : BitVec 64) : Option Instr := do
  guard (w.extractLsb' 43 8 == 0#8 && w.extractLsb' 27 8 == 0#8 && w.extractLsb' 19 8 == 0#8 && w.extractLsb' 0 19 == 0#19)
  return .wclose { g := guardOf w, a := w.extractLsb' 35 8 }

/-- The operands of SUBSC (R287). -/
def decSubsc (w : BitVec 64) : Option Instr := do
  guard (w.extractLsb' 19 8 == 0#8 && w.extractLsb' 0 19 == 0#19)
  return .subsc { g := guardOf w, d := w.extractLsb' 43 8, a := w.extractLsb' 35 8, b := w.extractLsb' 27 8 }

/-- The operands of UNSUBSC (R287). -/
def decUnsubsc (w : BitVec 64) : Option Instr := do
  guard (w.extractLsb' 43 8 == 0#8 && w.extractLsb' 27 8 == 0#8 && w.extractLsb' 19 8 == 0#8 && w.extractLsb' 0 19 == 0#19)
  return .unsubsc { g := guardOf w, a := w.extractLsb' 35 8 }

/-- The operands of VWAIT (R287). -/
def decVwait (w : BitVec 64) : Option Instr := do
  guard (w.extractLsb' 1 18 == 0#18)
  return .vwait { g := guardOf w, d := w.extractLsb' 43 8, a := w.extractLsb' 35 8, b := w.extractLsb' 27 8, c := w.extractLsb' 19 8, tf := w.getLsbD 0 }

/-- The operands of KVREF (R196). -/
def decKvref (w : BitVec 64) : Option Instr := do
  guard (w.extractLsb' 27 8 == 0#8 && w.extractLsb' 19 8 == 0#8 && w.extractLsb' 9 5 == 0#5 && w.extractLsb' 8 1 == 0#1)
  let scope' ← Scope.ofCode (w.extractLsb' 16 3)
  let ord' ← Order.ofCode (w.extractLsb' 14 2)
  return .kvref { g := guardOf w, d := w.extractLsb' 43 8, a := w.extractLsb' 35 8, scope := scope', ord := ord', n := w.extractLsb' 0 8 }

/-- The operands of KVREF_CLAIM (R196). -/
def decKvrefClaim (w : BitVec 64) : Option Instr := do
  guard (w.extractLsb' 27 8 == 0#8 && w.extractLsb' 19 8 == 0#8 && w.extractLsb' 9 5 == 0#5 && w.extractLsb' 8 1 == 1#1)
  let scope' ← Scope.ofCode (w.extractLsb' 16 3)
  let ord' ← Order.ofCode (w.extractLsb' 14 2)
  return .kvrefClaim { g := guardOf w, d := w.extractLsb' 43 8, a := w.extractLsb' 35 8, scope := scope', ord := ord', n := w.extractLsb' 0 8 }

/-- The operands of KVUNREF (R196). -/
def decKvunref (w : BitVec 64) : Option Instr := do
  guard (w.extractLsb' 27 8 == 0#8 && w.extractLsb' 19 8 == 0#8 && w.extractLsb' 9 5 == 0#5 && w.extractLsb' 8 1 == 0#1)
  let scope' ← Scope.ofCode (w.extractLsb' 16 3)
  let ord' ← Order.ofCode (w.extractLsb' 14 2)
  return .kvunref { g := guardOf w, d := w.extractLsb' 43 8, a := w.extractLsb' 35 8, scope := scope', ord := ord', n := w.extractLsb' 0 8 }

/-- The operands of LAUNCH (R289). -/
def decLaunch (w : BitVec 64) : Option Instr := do
  guard (w.extractLsb' 19 8 == 0#8 && w.extractLsb' 0 19 == 0#19)
  return .launch { g := guardOf w, d := w.extractLsb' 43 8, a := w.extractLsb' 35 8, b := w.extractLsb' 27 8 }

/-- The operands of ACCLD (R288). -/
def decAccld (w : BitVec 64) : Option Instr := do
  guard (w.extractLsb' 27 8 == 0#8 && w.extractLsb' 19 8 == 0#8 && w.extractLsb' 8 11 == 0#11)
  let w' ← AccW.ofCode (w.extractLsb' 6 2)
  return .accld { g := guardOf w, d := w.extractLsb' 43 8, a := w.extractLsb' 35 8, w := w', t := w.extractLsb' 0 6 }

/-- The operands of ACCST (R288). -/
def decAccst (w : BitVec 64) : Option Instr := do
  guard (w.extractLsb' 27 8 == 0#8 && w.extractLsb' 19 8 == 0#8 && w.extractLsb' 8 11 == 0#11)
  let w' ← AccW.ofCode (w.extractLsb' 6 2)
  return .accst { g := guardOf w, d := w.extractLsb' 43 8, a := w.extractLsb' 35 8, w := w', t := w.extractLsb' 0 6 }

/-- The operands of TBW (R210). -/
def decTbw (w : BitVec 64) : Option Instr := do
  guard (w.extractLsb' 6 45 == 0#45)
  return .tbw { g := guardOf w, t := w.extractLsb' 0 6 }

/-- The operands of TBA (R209). -/
def decTba (w : BitVec 64) : Option Instr := do
  guard (w.extractLsb' 6 45 == 0#45)
  return .tba { g := guardOf w, t := w.extractLsb' 0 6 }

/-- The operands of SYSR (R353). -/
def decSysr (w : BitVec 64) : Option Instr := do
  guard (w.extractLsb' 33 2 == 0#2 && w.extractLsb' 8 24 == 0#24)
  let x' ← optReg (w.getLsbD 32) (w.extractLsb' 35 8)
  let code' ← SysReg.ofCode (w.extractLsb' 0 8)
  return .sysr { g := guardOf w, d := w.extractLsb' 43 8, x := x', code := code' }

/-- The operands of SYSW (R353). -/
def decSysw (w : BitVec 64) : Option Instr := do
  guard (w.extractLsb' 33 2 == 0#2 && w.extractLsb' 8 24 == 0#24)
  let x' ← optReg (w.getLsbD 32) (w.extractLsb' 35 8)
  let code' ← SysReg.ofCode (w.extractLsb' 0 8)
  return .sysw { g := guardOf w, d := w.extractLsb' 43 8, x := x', code := code' }

/-- The operands of TLBI_ALL (R355). -/
def decTlbiAll (w : BitVec 64) : Option Instr := do
  guard (w.extractLsb' 0 51 == 0#51)
  return .tlbiAll (guardOf w)

/-- The operands of TLBI_ASID (R355). -/
def decTlbiAsid (w : BitVec 64) : Option Instr := do
  guard (w.extractLsb' 43 8 == 0#8 && w.extractLsb' 2 33 == 0#33 && w.extractLsb' 0 2 == 1#2)
  return .tlbiAsid { g := guardOf w, a := w.extractLsb' 35 8 }

/-- The operands of TLBI_VA (R355). -/
def decTlbiVa (w : BitVec 64) : Option Instr := do
  guard (w.extractLsb' 43 8 == 0#8 && w.extractLsb' 2 25 == 0#25 && w.extractLsb' 0 2 == 2#2)
  return .tlbiVa { g := guardOf w, a := w.extractLsb' 35 8, b := w.extractLsb' 27 8 }

/-- The operands of CFLUSH (R356). -/
def decCflush (w : BitVec 64) : Option Instr := do
  guard (w.extractLsb' 43 8 == 0#8 && w.extractLsb' 2 33 == 0#33 && w.extractLsb' 0 1 == 0#1)
  return .cflush { g := guardOf w, a := w.extractLsb' 35 8, inv := w.getLsbD 1 }

/-- The operands of CFLUSH_ALL (R356). -/
def decCflushAll (w : BitVec 64) : Option Instr := do
  guard (w.extractLsb' 1 50 == 0#50 && w.extractLsb' 0 1 == 1#1)
  return .cflushAll (guardOf w)

/-- The operands of CINVAL (R357). -/
def decCinval (w : BitVec 64) : Option Instr := do
  guard (w.extractLsb' 3 48 == 0#48)
  let tgt' ← CacheTgt.ofCode (w.extractLsb' 0 2)
  return .cinval { g := guardOf w, wide := w.getLsbD 2, tgt := tgt' }

/-- The operands of IDLE (R358). -/
def decIdle (w : BitVec 64) : Option Instr := do
  guard (w.extractLsb' 35 8 == 0#8 && w.extractLsb' 2 25 == 0#25)
  return .idle { g := guardOf w, d := w.extractLsb' 43 8, b := w.extractLsb' 27 8, mask := w.extractLsb' 0 2 }

/-- The operands of DBGR_RD (R359). -/
def decDbgrRd (w : BitVec 64) : Option Instr := do
  guard (w.extractLsb' 10 33 == 0#33 && w.extractLsb' 0 1 == 0#1)
  return .dbgrRd { g := guardOf w, d := w.extractLsb' 43 8, n := w.extractLsb' 1 9 }

/-- The operands of DBGR_WR (R359). -/
def decDbgrWr (w : BitVec 64) : Option Instr := do
  guard (w.extractLsb' 10 33 == 0#33 && w.extractLsb' 0 1 == 1#1)
  return .dbgrWr { g := guardOf w, d := w.extractLsb' 43 8, n := w.extractLsb' 1 9 }

/-- The operands of KADD (R166). -/
def decKadd (w : BitVec 32) : Option Instr := do
  guard (w.extractLsb' 2 2 == 0#2)
  return .kadd { w := slotOf w, d := w.extractLsb' 16 6, a := w.extractLsb' 10 6, b := w.extractLsb' 4 6, x := w.getLsbD 1, i := w.getLsbD 0 }

/-- The operands of KSUB (R166). -/
def decKsub (w : BitVec 32) : Option Instr := do
  guard (w.extractLsb' 2 2 == 0#2)
  return .ksub { w := slotOf w, d := w.extractLsb' 16 6, a := w.extractLsb' 10 6, b := w.extractLsb' 4 6, x := w.getLsbD 1, i := w.getLsbD 0 }

/-- The operands of KMUL (R166). -/
def decKmul (w : BitVec 32) : Option Instr := do
  guard (w.extractLsb' 2 2 == 0#2)
  return .kmul { w := slotOf w, d := w.extractLsb' 16 6, a := w.extractLsb' 10 6, b := w.extractLsb' 4 6, x := w.getLsbD 1, i := w.getLsbD 0 }

/-- The operands of KAND (R166). -/
def decKand (w : BitVec 32) : Option Instr := do
  guard (w.extractLsb' 2 2 == 0#2)
  return .kand { w := slotOf w, d := w.extractLsb' 16 6, a := w.extractLsb' 10 6, b := w.extractLsb' 4 6, x := w.getLsbD 1, i := w.getLsbD 0 }

/-- The operands of KOR (R166). -/
def decKor (w : BitVec 32) : Option Instr := do
  guard (w.extractLsb' 2 2 == 0#2)
  return .kor { w := slotOf w, d := w.extractLsb' 16 6, a := w.extractLsb' 10 6, b := w.extractLsb' 4 6, x := w.getLsbD 1, i := w.getLsbD 0 }

/-- The operands of KXOR (R166). -/
def decKxor (w : BitVec 32) : Option Instr := do
  guard (w.extractLsb' 2 2 == 0#2)
  return .kxor { w := slotOf w, d := w.extractLsb' 16 6, a := w.extractLsb' 10 6, b := w.extractLsb' 4 6, x := w.getLsbD 1, i := w.getLsbD 0 }

/-- The operands of KSHL (R166). -/
def decKshl (w : BitVec 32) : Option Instr := do
  guard (w.extractLsb' 2 2 == 0#2)
  return .kshl { w := slotOf w, d := w.extractLsb' 16 6, a := w.extractLsb' 10 6, b := w.extractLsb' 4 6, x := w.getLsbD 1, i := w.getLsbD 0 }

/-- The operands of KSHR (R166). -/
def decKshr (w : BitVec 32) : Option Instr := do
  guard (w.extractLsb' 2 2 == 0#2)
  return .kshr { w := slotOf w, d := w.extractLsb' 16 6, a := w.extractLsb' 10 6, b := w.extractLsb' 4 6, x := w.getLsbD 1, i := w.getLsbD 0 }

/-- The operands of KMIN (R166). -/
def decKmin (w : BitVec 32) : Option Instr := do
  guard (w.extractLsb' 2 2 == 0#2)
  return .kmin { w := slotOf w, d := w.extractLsb' 16 6, a := w.extractLsb' 10 6, b := w.extractLsb' 4 6, x := w.getLsbD 1, i := w.getLsbD 0 }

/-- The operands of KMAX (R166). -/
def decKmax (w : BitVec 32) : Option Instr := do
  guard (w.extractLsb' 2 2 == 0#2)
  return .kmax { w := slotOf w, d := w.extractLsb' 16 6, a := w.extractLsb' 10 6, b := w.extractLsb' 4 6, x := w.getLsbD 1, i := w.getLsbD 0 }

/-- The operands of KADDI (R166). -/
def decKaddi (w : BitVec 32) : Option Instr := do
  return .kaddi { w := slotOf w, d := w.extractLsb' 16 6, a := w.extractLsb' 10 6, imm := w.extractLsb' 0 10 }

/-- The operands of KMOVI (R166). -/
def decKmovi (w : BitVec 32) : Option Instr := do
  return .kmovi { w := slotOf w, d := w.extractLsb' 16 6, imm := w.extractLsb' 0 16 }

/-- The operands of KCMP (R166). -/
def decKcmp (w : BitVec 32) : Option Instr := do
  let cond' ← Cond.ofCode (w.extractLsb' 1 3)
  return .kcmp { w := slotOf w, qd := w.extractLsb' 19 3, qe := w.extractLsb' 16 3, a := w.extractLsb' 10 6, b := w.extractLsb' 4 6, cond := cond', i := w.getLsbD 0 }

/-- The operands of KSEL (R166). -/
def decKsel (w : BitVec 32) : Option Instr := do
  return .ksel { w := slotOf w, d := w.extractLsb' 16 6, a := w.extractLsb' 10 6, b := w.extractLsb' 4 6, q := w.extractLsb' 1 3, n := w.getLsbD 0 }

/-- The operands of KLD (R166). -/
def decKld (w : BitVec 32) : Option Instr := do
  return .kld { w := slotOf w, d := w.extractLsb' 16 6, a := w.extractLsb' 10 6, imm := w.extractLsb' 0 10 }

/-- The operands of KST (R166). -/
def decKst (w : BitVec 32) : Option Instr := do
  return .kst { w := slotOf w, d := w.extractLsb' 16 6, a := w.extractLsb' 10 6, imm := w.extractLsb' 0 10 }

/-- The operands of SCFG (R169). -/
def decScfg (w : BitVec 32) : Option Instr := do
  return .scfg { w := slotOf w, s := w.extractLsb' 18 4, a := w.extractLsb' 12 6, imm := w.extractLsb' 0 12 }

/-- The operands of SBASE (R169). -/
def decSbase (w : BitVec 32) : Option Instr := do
  return .sbase { w := slotOf w, s := w.extractLsb' 18 4, a := w.extractLsb' 12 6, imm := w.extractLsb' 0 12 }

/-- The operands of SADV (R169). -/
def decSadv (w : BitVec 32) : Option Instr := do
  guard (w.extractLsb' 11 7 == 0#7)
  return .sadv { w := slotOf w, s := w.extractLsb' 18 4, n := w.extractLsb' 0 11 }

/-- The operands of SADV_B (R169). -/
def decSadvB (w : BitVec 32) : Option Instr := do
  guard (w.extractLsb' 17 1 == 1#1 && w.extractLsb' 0 11 == 0#11)
  return .sadvB { w := slotOf w, s := w.extractLsb' 18 4, a := w.extractLsb' 11 6 }

/-- The operands of SGBT (R169). -/
def decSgbt (w : BitVec 32) : Option Instr := do
  guard (w.extractLsb' 0 12 == 0#12)
  return .sgbt { w := slotOf w, s := w.extractLsb' 18 4, a := w.extractLsb' 12 6 }

/-- The operands of SROPE_ADJ (R169). -/
def decSropeAdj (w : BitVec 32) : Option Instr := do
  guard (w.extractLsb' 12 2 == 0#2 && w.extractLsb' 0 12 == 0#12)
  return .sropeAdj { w := slotOf w, s := w.extractLsb' 18 4, f := w.extractLsb' 14 4 }

/-- The operands of SROPE_HALF (R169). -/
def decSropeHalf (w : BitVec 32) : Option Instr := do
  guard (w.extractLsb' 12 2 == 1#2 && w.extractLsb' 0 12 == 0#12)
  return .sropeHalf { w := slotOf w, s := w.extractLsb' 18 4, f := w.extractLsb' 14 4 }

/-- The operands of SROPE_OFF (R169). -/
def decSropeOff (w : BitVec 32) : Option Instr := do
  guard (w.extractLsb' 14 4 == 0#4 && w.extractLsb' 12 2 == 2#2 && w.extractLsb' 0 12 == 0#12)
  return .sropeOff { w := slotOf w, s := w.extractLsb' 18 4 }

/-- The operands of CBI (R169). -/
def decCbi (w : BitVec 32) : Option Instr := do
  guard (w.extractLsb' 0 7 == 0#7)
  return .cbi { w := slotOf w, c := w.extractLsb' 19 3, a := w.extractLsb' 13 6, b := w.extractLsb' 7 6 }

/-- The operands of CBW (R170). -/
def decCbw (w : BitVec 32) : Option Instr := do
  guard (w.extractLsb' 0 11 == 0#11)
  return .cbw { w := slotOf w, c := w.extractLsb' 19 3, n := w.extractLsb' 11 8 }

/-- The operands of CBF (R170). -/
def decCbf (w : BitVec 32) : Option Instr := do
  guard (w.extractLsb' 0 11 == 0#11)
  return .cbf { w := slotOf w, c := w.extractLsb' 19 3, n := w.extractLsb' 11 8 }

/-- The operands of CBA_F (R169). -/
def decCbaF (w : BitVec 32) : Option Instr := do
  guard (w.extractLsb' 10 1 == 0#1 && w.extractLsb' 0 10 == 0#10)
  return .cbaF { w := slotOf w, c := w.extractLsb' 19 3, n := w.extractLsb' 11 8 }

/-- The operands of CBA_E (R169). -/
def decCbaE (w : BitVec 32) : Option Instr := do
  guard (w.extractLsb' 10 1 == 1#1 && w.extractLsb' 0 10 == 0#10)
  return .cbaE { w := slotOf w, c := w.extractLsb' 19 3, n := w.extractLsb' 11 8 }

/-- The operands of SSCALE (R169). -/
def decSscale (w : BitVec 32) : Option Instr := do
  guard (w.extractLsb' 0 6 == 0#6)
  return .sscale { w := slotOf w, s := w.extractLsb' 18 4, ss := w.extractLsb' 14 4, gs := w.extractLsb' 12 2, a := w.extractLsb' 6 6 }

/-- The operands of SMASK (R169). -/
def decSmask (w : BitVec 32) : Option Instr := do
  guard (w.extractLsb' 0 12 == 0#12)
  return .smask { w := slotOf w, s := w.extractLsb' 18 4, a := w.extractLsb' 12 6 }

/-- The operands of XPUSH (R176). With E = 0 the field COL has no effect, whatever it holds: the manual does not say that it must be zero
(log 79). -/
def decXpush (w : BitVec 32) : Option Instr := do
  guard (w.extractLsb' 0 12 == 0#12)
  return .xpush { w := slotOf w, s := w.extractLsb' 18 4, e := w.getLsbD 17, col := w.extractLsb' 12 5 }

/-- The operands of XSWAP (R176). -/
def decXswap (w : BitVec 32) : Option Instr := do
  guard (w.extractLsb' 0 22 == 0#22)
  return .xswap (slotOf w)

/-- The operands of XSHIFT (R174). -/
def decXshift (w : BitVec 32) : Option Instr := do
  guard (w.extractLsb' 0 6 == 0#6)
  return .xshift { w := slotOf w, t := w.extractLsb' 16 6, row := w.extractLsb' 11 5, ar := w.getLsbD 10, s := w.extractLsb' 6 4 }

/-- The operands of XACC (R174). -/
def decXacc (w : BitVec 32) : Option Instr := do
  guard (w.extractLsb' 0 6 == 0#6)
  return .xacc { w := slotOf w, t := w.extractLsb' 16 6, row := w.extractLsb' 11 5, ar := w.getLsbD 10, s := w.extractLsb' 6 4 }

/-- The operands of XDRAIN (R177). -/
def decXdrain (w : BitVec 32) : Option Instr := do
  guard (w.extractLsb' 0 5 == 0#5)
  return .xdrain { w := slotOf w, t := w.extractLsb' 16 6, row := w.extractLsb' 11 5, ar := w.getLsbD 10, s := w.extractLsb' 6 4, z := w.getLsbD 5 }

/-- The operands of XMASK (R176). -/
def decXmask (w : BitVec 32) : Option Instr := do
  guard (w.extractLsb' 11 5 == 0#5)
  return .xmask { w := slotOf w, a := w.extractLsb' 16 6, dc := w.extractLsb' 0 11 }

/-- The operands of XMODE (R176). -/
def decXmode (w : BitVec 32) : Option Instr := do
  guard (w.extractLsb' 0 14 == 0#14)
  return .xmode { w := slotOf w, af := w.extractLsb' 18 4, wf := w.extractLsb' 14 4 }

/-- The operands of YADD (R179). -/
def decYadd (w : BitVec 32) : Option Instr := do
  return .yadd { w := slotOf w, d := w.extractLsb' 15 7, a := w.extractLsb' 8 7, b := w.extractLsb' 1 7, f16 := w.getLsbD 0 }

/-- The operands of YMUL (R179). -/
def decYmul (w : BitVec 32) : Option Instr := do
  return .ymul { w := slotOf w, d := w.extractLsb' 15 7, a := w.extractLsb' 8 7, b := w.extractLsb' 1 7, f16 := w.getLsbD 0 }

/-- The operands of YRSC (R179). -/
def decYrsc (w : BitVec 32) : Option Instr := do
  return .yrsc { w := slotOf w, d := w.extractLsb' 15 7, a := w.extractLsb' 8 7, t := w.extractLsb' 2 6, sw := w.getLsbD 1, f16 := w.getLsbD 0 }

/-- The operands of YEXP (R179). -/
def decYexp (w : BitVec 32) : Option Instr := do
  return .yexp { w := slotOf w, d := w.extractLsb' 15 7, a := w.extractLsb' 8 7, t := w.extractLsb' 2 6, sw := w.getLsbD 1, f16 := w.getLsbD 0 }

/-- The operands of YRMAX (R179). -/
def decYrmax (w : BitVec 32) : Option Instr := do
  guard (w.extractLsb' 1 6 == 0#6)
  return .yrmax { w := slotOf w, t := w.extractLsb' 16 6, sw := w.getLsbD 15, a := w.extractLsb' 8 7, k := w.getLsbD 7, f16 := w.getLsbD 0 }

/-- The operands of YRSUM (R179). -/
def decYrsum (w : BitVec 32) : Option Instr := do
  guard (w.extractLsb' 1 6 == 0#6)
  return .yrsum { w := slotOf w, t := w.extractLsb' 16 6, sw := w.getLsbD 15, a := w.extractLsb' 8 7, k := w.getLsbD 7, f16 := w.getLsbD 0 }

/-- The operands of YMOV (R179). -/
def decYmov (w : BitVec 32) : Option Instr := do
  guard (w.extractLsb' 1 7 == 0#7)
  return .ymov { w := slotOf w, d := w.extractLsb' 15 7, a := w.extractLsb' 8 7, f16 := w.getLsbD 0 }

/-- The operands of YTR (R179). -/
def decYtr (w : BitVec 32) : Option Instr := do
  guard (w.extractLsb' 1 7 == 0#7)
  return .ytr { w := slotOf w, d := w.extractLsb' 15 7, a := w.extractLsb' 8 7, f16 := w.getLsbD 0 }

/-- The operands of YCVT (R180). -/
def decYcvt (w : BitVec 32) : Option Instr := do
  let td' ← Ty.ofCode (w.extractLsb' 4 4)
  let ovf' ← Ovf.ofCode (w.extractLsb' 2 2)
  return .ycvt { w := slotOf w, d := w.extractLsb' 15 7, a := w.extractLsb' 8 7, td := td', ovf := ovf', clr := w.getLsbD 1, f16 := w.getLsbD 0 }

/-- The operands of SMST (R181). -/
def decSmst (w : BitVec 32) : Option Instr := do
  guard (w.extractLsb' 0 6 == 0#6)
  return .smst { w := slotOf w, t := w.extractLsb' 16 6, s := w.extractLsb' 12 4, b := w.extractLsb' 6 6 }

/-- The operands of SMRG (R182). -/
def decSmrg (w : BitVec 32) : Option Instr := do
  guard (w.extractLsb' 0 9 == 0#9)
  return .smrg { w := slotOf w, t := w.extractLsb' 16 6, s := w.extractLsb' 12 4, n := w.extractLsb' 9 3 }

/-- The operands of YBAR_ARV (R183). -/
def decYbarArv (w : BitVec 32) : Option Instr := do
  guard (w.extractLsb' 15 1 == 0#1 && w.extractLsb' 0 15 == 0#15)
  return .ybarArv { w := slotOf w, t := w.extractLsb' 16 6 }

/-- The operands of YBAR_WT (R183). -/
def decYbarWt (w : BitVec 32) : Option Instr := do
  guard (w.extractLsb' 15 1 == 1#1 && w.extractLsb' 0 15 == 0#15)
  return .ybarWt { w := slotOf w, t := w.extractLsb' 16 6 }

/-- The operands of CCPY (R278). -/
def decCcpy (w : BitVec 32) : Option Instr := do
  guard (w.extractLsb' 0 5 == 0#5)
  return .ccpy { w := slotOf w, s := w.extractLsb' 18 4, d := w.extractLsb' 14 4, ch := w.extractLsb' 11 3, a := w.extractLsb' 5 6 }

/-- The operands of CGATH (R201). -/
def decCgath (w : BitVec 32) : Option Instr := do
  guard (w.extractLsb' 0 5 == 0#5)
  return .cgath { w := slotOf w, s := w.extractLsb' 18 4, d := w.extractLsb' 14 4, ch := w.extractLsb' 11 3, a := w.extractLsb' 5 6 }

/-- The operands of CSCAT (R280). -/
def decCscat (w : BitVec 32) : Option Instr := do
  guard (w.extractLsb' 0 5 == 0#5)
  return .cscat { w := slotOf w, s := w.extractLsb' 18 4, d := w.extractLsb' 14 4, ch := w.extractLsb' 11 3, a := w.extractLsb' 5 6 }

/-- The operands of CCPN (R279). -/
def decCcpn (w : BitVec 32) : Option Instr := do
  guard (w.extractLsb' 12 1 == 0#1 && w.extractLsb' 0 12 == 0#12)
  return .ccpn { w := slotOf w, a := w.extractLsb' 16 6, ch := w.extractLsb' 13 3 }

/-- The operands of CCPN_RING (R279). -/
def decCcpnRing (w : BitVec 32) : Option Instr := do
  guard (w.extractLsb' 12 1 == 1#1 && w.extractLsb' 0 6 == 0#6)
  return .ccpnRing { w := slotOf w, a := w.extractLsb' 16 6, ch := w.extractLsb' 13 3, c := w.extractLsb' 9 3, n := w.extractLsb' 6 3 }

/-- The operands of CCWT (R281). -/
def decCcwt (w : BitVec 32) : Option Instr := do
  guard (w.extractLsb' 0 16 == 0#16)
  return .ccwt { w := slotOf w, ch := w.extractLsb' 19 3, n := w.extractLsb' 16 3 }

/-- The operands of FBR (R184). -/
def decFbr (w : BitVec 32) : Option Instr := do
  return .fbr { q := w.extractLsb' 22 3, a := w.extractLsb' 16 6, z := w.getLsbD 15, off := w.extractLsb' 0 15 }

/-- The operands of FJMP (R184). -/
def decFjmp (w : BitVec 32) : Option Instr := do
  guard (w.extractLsb' 21 1 == 0#1)
  return .fjmp { q := w.extractLsb' 22 3, off := w.extractLsb' 0 21 }

/-- The operands of FJMP_INDIRECT (R184). -/
def decFjmpIndirect (w : BitVec 32) : Option Instr := do
  guard (w.extractLsb' 21 1 == 1#1 && w.extractLsb' 0 15 == 0#15)
  return .fjmpIndirect { q := w.extractLsb' 22 3, a := w.extractLsb' 15 6 }

/-- The operands of FCALL (R184). -/
def decFcall (w : BitVec 32) : Option Instr := do
  return .fcall { q := w.extractLsb' 22 3, l := w.extractLsb' 16 6, off := w.extractLsb' 0 16 }

/-- The operands of FRET (R184). -/
def decFret (w : BitVec 32) : Option Instr := do
  guard (w.extractLsb' 0 16 == 0#16)
  return .fret { q := w.extractLsb' 22 3, a := w.extractLsb' 16 6 }

/-- The operands of FLOOP (R186). -/
def decFloop (w : BitVec 32) : Option Instr := do
  guard (w.extractLsb' 0 8 == 0#8)
  return .floop { q := w.extractLsb' 22 3, l := w.extractLsb' 19 3, c := w.extractLsb' 13 6, n := w.extractLsb' 8 5 }

/-- The operands of GRET (R50). -/
def decGret (w : BitVec 32) : Option Instr := do
  guard (w.extractLsb' 0 22 == 0#22)
  return .gret (w.extractLsb' 22 3)

/-- The operands of FTRAP (R184). -/
def decFtrap (w : BitVec 32) : Option Instr := do
  guard (w.extractLsb' 8 14 == 0#14)
  return .ftrap { q := w.extractLsb' 22 3, n := w.extractLsb' 0 8 }

/-- The operands of FBRK (R184). -/
def decFbrk (w : BitVec 32) : Option Instr := do
  guard (w.extractLsb' 8 14 == 0#14)
  return .fbrk { q := w.extractLsb' 22 3, n := w.extractLsb' 0 8 }

/-- The operands of FFENCE (R282). -/
def decFfence (w : BitVec 32) : Option Instr := do
  guard (w.extractLsb' 2 20 == 0#20)
  let kind' ← FenceKind.ofCode (w.extractLsb' 0 2)
  return .ffence { q := w.extractLsb' 22 3, kind := kind' }

/-- The operands of FWAIT (R281). -/
def decFwait (w : BitVec 32) : Option Instr := do
  guard (w.extractLsb' 8 14 == 0#14)
  return .fwait { q := w.extractLsb' 22 3, n := w.extractLsb' 0 8 }

/-- The thread-set opcode map (R68): the constructors that share an opcode differ in a form field. -/
def parseThread (w : BitVec 64) : Option Instr :=
  match (w.extractLsb' 56 8).toNat with
  | 0x00 => decNop w
  | 0x01 => decAdd w
  | 0x02 => decSub w
  | 0x03 => decMul w
  | 0x04 => decMulh w
  | 0x05 => decMulw w
  | 0x06 => decMad w
  | 0x07 => decAnd w
  | 0x08 => decOr w
  | 0x09 => decXor w
  | 0x0A => decAndn w
  | 0x0B => decShl w
  | 0x0C => decShr w
  | 0x0D => decRot w
  | 0x0E => decMin w
  | 0x0F => decMax w
  | 0x10 => decAbs w
  | 0x11 => decClz w
  | 0x12 => decPopc w
  | 0x13 => decBrev w
  | 0x14 => decBfx w
  | 0x15 => decBfi w
  | 0x16 => decAddx w
  | 0x17 => decSubx w
  | 0x18 => decAdd64 w
  | 0x19 => decSub64 w
  | 0x1A => decShl64 w
  | 0x1B => decShr64 w
  | 0x1C => decMul64 w
  | 0x1D => decLea w
  | 0x1E => decIdot4 w
  | 0x1F => decIdot8 w
  | 0x20 => decAddi w
  | 0x21 => decAndi w
  | 0x22 => decOri w
  | 0x23 => decXori w
  | 0x24 => decShli w
  | 0x25 => decShri w
  | 0x26 => decMovi w
  | 0x27 => decMovih w
  | 0x28 => decCmpi w
  | 0x29 => decMuli w
  | 0x30 => decCmp w <|> decCmpFloat w
  | 0x31 => decPlog w
  | 0x32 => decP2d w
  | 0x33 => decD2p w
  | 0x34 => decSel w
  | 0x40 => decFadd w
  | 0x41 => decFsub w
  | 0x42 => decFmul w
  | 0x43 => decFma w
  | 0x44 => decFmin w
  | 0x45 => decFmax w
  | 0x46 => decFdot2 w
  | 0x47 => decFclass w
  | 0x48 => decFscale w
  | 0x49 => decFrnd w
  | 0x50 => decCvt w
  | 0x51 => decCvtf w
  | 0x52 => decQuant w
  | 0x53 => decDeq w
  | 0x54 => decAmax w
  | 0x55 => decPerm w
  | 0x58 => decRcp w
  | 0x59 => decRsqrt w
  | 0x5A => decSqrt w
  | 0x5B => decExp2 w
  | 0x5C => decLog2 w
  | 0x5D => decSin w
  | 0x5E => decCos w
  | 0x5F => decTanh w
  | 0x60 => decSigm w
  | 0x61 => decErf w
  | 0x68 => decMov w
  | 0x69 => decRds w
  | 0x6A => decShfl w
  | 0x70 => decBr w
  | 0x71 => decBrx w
  | 0x72 => decCall w
  | 0x73 => decRet w
  | 0x74 => decBrc w
  | 0x75 => decReformDirect w <|> decReformIndirect w
  | 0x76 => decRejoin w
  | 0x77 => decBar w
  | 0x78 => decGate w
  | 0x79 => decExit w
  | 0x7A => decTrap w
  | 0x7B => decBrk w
  | 0x80 => decLd w
  | 0x81 => decSt w
  | 0x82 => decLdr w
  | 0x83 => decStr w
  | 0x84 => decPub w
  | 0x85 => decPref w
  | 0x86 => decTagld w
  | 0x87 => decObjinit w
  | 0x88 => decAtom w
  | 0x89 => decCas w
  | 0x8A => decFence w
  | 0x8B => decWait w
  | 0x8C => decQpush w
  | 0x8D => decQpop w
  | 0x8E => decQszCnt w <|> decQszInit w <|> decQszFin w
  | 0x90 => decCpy w
  | 0x91 => decCpn w
  | 0x92 => decCwait w
  | 0x93 => decCstat w
  | 0x94 => decCabort w
  | 0x95 => decBarr w
  | 0x96 => decBarw w
  | 0x97 => decBari w
  | 0x98 => decWopen w
  | 0x99 => decWclose w
  | 0x9A => decSubsc w
  | 0x9B => decUnsubsc w
  | 0x9C => decVwait w
  | 0x9D => decKvref w <|> decKvrefClaim w
  | 0x9E => decKvunref w
  | 0x9F => decLaunch w
  | 0xA0 => decAccld w
  | 0xA1 => decAccst w
  | 0xA2 => decTbw w
  | 0xA3 => decTba w
  | 0xC0 => decSysr w
  | 0xC1 => decSysw w
  | 0xC2 => decEret w
  | 0xC3 => decTlbiAll w <|> decTlbiAsid w <|> decTlbiVa w
  | 0xC4 => decCflush w <|> decCflushAll w
  | 0xC5 => decCinval w
  | 0xC6 => decIdle w
  | 0xC7 => decDbgrRd w <|> decDbgrWr w
  | _ => none

/-- The slot words of class S0, S1 (R73). -/
def parseS (w : BitVec 32) : Option Instr :=
  match (w.extractLsb' 26 6).toNat with
  | 0x00 => decKadd w
  | 0x01 => decKsub w
  | 0x02 => decKmul w
  | 0x03 => decKand w
  | 0x04 => decKor w
  | 0x05 => decKxor w
  | 0x06 => decKshl w
  | 0x07 => decKshr w
  | 0x08 => decKmin w
  | 0x09 => decKmax w
  | 0x0A => decKaddi w
  | 0x0B => decKmovi w
  | 0x0C => decKcmp w
  | 0x0D => decKsel w
  | 0x0E => decKld w
  | 0x0F => decKst w
  | _ => none

/-- The slot words of class M0, M1 (R73). -/
def parseM (w : BitVec 32) : Option Instr :=
  match (w.extractLsb' 26 6).toNat with
  | 0x00 => decScfg w
  | 0x01 => decSbase w
  | 0x02 => decSadv w <|> decSadvB w
  | 0x03 => decSgbt w
  | 0x04 => decSropeAdj w <|> decSropeHalf w <|> decSropeOff w
  | 0x05 => decCbi w
  | 0x06 => decCbw w
  | 0x07 => decCbf w
  | 0x08 => decCbaF w <|> decCbaE w
  | 0x09 => decSscale w
  | 0x0A => decSmask w
  | _ => none

/-- The slot words of class X (R73). -/
def parseX (w : BitVec 32) : Option Instr :=
  match (w.extractLsb' 26 6).toNat with
  | 0x00 => decXpush w
  | 0x01 => decXswap w
  | 0x02 => decXshift w
  | 0x03 => decXacc w
  | 0x04 => decXdrain w
  | 0x05 => decXmask w
  | 0x06 => decXmode w
  | _ => none

/-- The slot words of class Y (R73). -/
def parseY (w : BitVec 32) : Option Instr :=
  match (w.extractLsb' 26 6).toNat with
  | 0x00 => decYadd w
  | 0x01 => decYmul w
  | 0x02 => decYrsc w
  | 0x03 => decYexp w
  | 0x04 => decYrmax w
  | 0x05 => decYrsum w
  | 0x06 => decYmov w
  | 0x07 => decYcvt w
  | 0x08 => decYtr w
  | 0x09 => decSmst w
  | 0x0A => decSmrg w
  | 0x0B => decYbarArv w <|> decYbarWt w
  | _ => none

/-- The slot words of class C (R73). -/
def parseC (w : BitVec 32) : Option Instr :=
  match (w.extractLsb' 26 6).toNat with
  | 0x00 => decCcpy w
  | 0x01 => decCcpn w <|> decCcpnRing w
  | 0x02 => decCgath w
  | 0x03 => decCscat w
  | 0x04 => decCcwt w
  | _ => none

/-- The slot words of class F (R73). -/
def parseF (w : BitVec 32) : Option Instr :=
  match (w.extractLsb' 26 6).toNat with
  | 0x00 => decFbr w
  | 0x01 => decFjmp w <|> decFjmpIndirect w
  | 0x02 => decFcall w
  | 0x03 => decFret w
  | 0x04 => decFloop w
  | 0x05 => decGret w
  | 0x06 => decFtrap w
  | 0x07 => decFbrk w
  | 0x08 => decFfence w
  | 0x09 => decFwait w
  | _ => none

/-- An instruction that keeps the limits of its entry, or ILL (R78, R80). -/
def checked (known : Bool) (i : Option Instr) : Except DecErr Instr :=
  match i with
  | none => .error (if known then .fields else .opcode)
  | some i => if i.wf then .ok i else .error .limits

/-- The thread-set opcodes that R68 lists. -/
def threadOpKnown (op : Byte) : Bool :=
  let n := op.toNat
  n ≤ 0x29 || (0x30 ≤ n && n ≤ 0x34) || (0x40 ≤ n && n ≤ 0x49) || (0x50 ≤ n && n ≤ 0x55) || (0x58 ≤ n && n ≤ 0x61) ||
  (0x68 ≤ n && n ≤ 0x6A) || (0x70 ≤ n && n ≤ 0x7B) || (0x80 ≤ n && n ≤ 0x8E) || (0x90 ≤ n && n ≤ 0x9F) ||
  (0xA0 ≤ n && n ≤ 0xA3) || (0xC0 ≤ n && n ≤ 0xC7)

/-- The thread engine's decoding of a word (R78). A word whose guard is 0b1_0000 is a no-operation whatever its other bits
hold (R60). -/
def decodeThread (w : W64) : Except DecErr Instr :=
  if (guardOf w).isSkip then .ok (.nop (guardOf w))
  else checked (threadOpKnown (w.extractLsb' 56 8)) (parseThread w)

/-- The number of opcodes of a slot class (R73). -/
def SlotClass.count : SlotClass → Nat
  | .s => 16
  | .m => 11
  | .x => 7
  | .y => 12
  | .c => 5
  | .f => 10

/-- The parser of a slot class (R73). -/
def parseSlot (k : SlotClass) (w : W32) : Option Instr :=
  match k with
  | .s => parseS w
  | .m => parseM w
  | .x => parseX w
  | .y => parseY w
  | .c => parseC w
  | .f => parseF w

/-- The keeper's decoding of a slot word (R80); an F word with H set is refused (R72). -/
def decodeSlot (k : SlotClass) (w : W32) : Except DecErr Instr :=
  if k == .f && w.getLsbD 25 then .error .fields
  else checked (decide ((w.extractLsb' 26 6).toNat < k.count)) (parseSlot k w)

/-- The class of slot numbers 0 (S0) to 7 (F) (R69, R81). -/
def slotClass (n : Nat) : SlotClass :=
  match n with
  | 0 => .s
  | 1 => .s
  | 2 => .m
  | 3 => .m
  | 4 => .x
  | 5 => .y
  | 6 => .c
  | _ => .f

/-- The slot numbers that MASK names, in the order of their words (R69, R70): bit 31 of the header is S0. -/
def maskSlots (mask : Byte) : List Nat := (List.range 8).filter fun n => mask.getLsbD (7 - n)

/-- Bytes of a bundle whose header has this MASK (R70). -/
def bundleBytes (mask : Byte) : Nat := 4 + 4 * (maskSlots mask).length

/-- The words of a well-formed instruction, from the encoding tables: the inverse of the decoder. -/
def encode (i : Instr) : Enc :=
  match i with
  | .nop g => .thread (0x00#8 ++ g.code ++ 0#51)
  | .add o => .thread (0x01#8 ++ o.g.code ++ o.d ++ o.a ++ o.b ++ 0#8 ++ 0#19)
  | .sub o => .thread (0x02#8 ++ o.g.code ++ o.d ++ o.a ++ o.b ++ 0#8 ++ 0#19)
  | .mul o => .thread (0x03#8 ++ o.g.code ++ o.d ++ o.a ++ o.b ++ 0#8 ++ 0#19)
  | .mulh o => .thread (0x04#8 ++ o.g.code ++ o.d ++ o.a ++ o.b ++ 0#8 ++ 0#18 ++ BitVec.ofBool o.f)
  | .mulw o => .thread (0x05#8 ++ o.g.code ++ o.d ++ o.a ++ o.b ++ 0#8 ++ 0#18 ++ BitVec.ofBool o.f)
  | .mad o => .thread (0x06#8 ++ o.g.code ++ o.d ++ o.a ++ o.b ++ o.c ++ 0#19)
  | .and o => .thread (0x07#8 ++ o.g.code ++ o.d ++ o.a ++ o.b ++ 0#8 ++ 0#19)
  | .or o => .thread (0x08#8 ++ o.g.code ++ o.d ++ o.a ++ o.b ++ 0#8 ++ 0#19)
  | .xor o => .thread (0x09#8 ++ o.g.code ++ o.d ++ o.a ++ o.b ++ 0#8 ++ 0#19)
  | .andn o => .thread (0x0A#8 ++ o.g.code ++ o.d ++ o.a ++ o.b ++ 0#8 ++ 0#19)
  | .shl o => .thread (0x0B#8 ++ o.g.code ++ o.d ++ o.a ++ o.b ++ 0#8 ++ 0#19)
  | .shr o => .thread (0x0C#8 ++ o.g.code ++ o.d ++ o.a ++ o.b ++ 0#8 ++ 0#18 ++ BitVec.ofBool o.f)
  | .rot o => .thread (0x0D#8 ++ o.g.code ++ o.d ++ o.a ++ o.b ++ 0#8 ++ 0#18 ++ BitVec.ofBool o.f)
  | .min o => .thread (0x0E#8 ++ o.g.code ++ o.d ++ o.a ++ o.b ++ 0#8 ++ 0#18 ++ BitVec.ofBool o.f)
  | .max o => .thread (0x0F#8 ++ o.g.code ++ o.d ++ o.a ++ o.b ++ 0#8 ++ 0#18 ++ BitVec.ofBool o.f)
  | .abs o => .thread (0x10#8 ++ o.g.code ++ o.d ++ o.a ++ 0#8 ++ 0#8 ++ 0#18 ++ BitVec.ofBool o.f)
  | .clz o => .thread (0x11#8 ++ o.g.code ++ o.d ++ o.a ++ 0#8 ++ 0#8 ++ 0#19)
  | .popc o => .thread (0x12#8 ++ o.g.code ++ o.d ++ o.a ++ 0#8 ++ 0#8 ++ 0#19)
  | .brev o => .thread (0x13#8 ++ o.g.code ++ o.d ++ o.a ++ 0#8 ++ 0#8 ++ 0#19)
  | .bfx o => .thread (0x14#8 ++ o.g.code ++ o.d ++ o.a ++ o.b ++ 0#8 ++ 0#18 ++ BitVec.ofBool o.f)
  | .bfi o => .thread (0x15#8 ++ o.g.code ++ o.d ++ o.a ++ o.b ++ o.c ++ 0#19)
  | .addx o => .thread (0x16#8 ++ o.g.code ++ o.d ++ o.a ++ o.b ++ 0#8 ++ 0#10 ++ o.co ++ BitVec.ofBool o.ce ++ o.cin)
  | .subx o => .thread (0x17#8 ++ o.g.code ++ o.d ++ o.a ++ o.b ++ 0#8 ++ 0#10 ++ o.co ++ BitVec.ofBool o.ce ++ o.cin)
  | .add64 o => .thread (0x18#8 ++ o.g.code ++ o.d ++ o.a ++ o.b ++ 0#8 ++ 0#19)
  | .sub64 o => .thread (0x19#8 ++ o.g.code ++ o.d ++ o.a ++ o.b ++ 0#8 ++ 0#19)
  | .shl64 o => .thread (0x1A#8 ++ o.g.code ++ o.d ++ o.a ++ o.b ++ 0#8 ++ 0#19)
  | .shr64 o => .thread (0x1B#8 ++ o.g.code ++ o.d ++ o.a ++ o.b ++ 0#8 ++ 0#18 ++ BitVec.ofBool o.f)
  | .mul64 o => .thread (0x1C#8 ++ o.g.code ++ o.d ++ o.a ++ o.b ++ 0#8 ++ 0#19)
  | .lea o => .thread (0x1D#8 ++ o.g.code ++ o.d ++ o.a ++ o.b ++ 0#8 ++ 0#15 ++ BitVec.ofBool o.sx ++ o.sh)
  | .idot4 o => .thread (0x1E#8 ++ o.g.code ++ o.d ++ o.a ++ o.b ++ o.c ++ 0#16 ++ BitVec.ofBool o.sat ++ BitVec.ofBool o.sb ++ BitVec.ofBool o.sa)
  | .idot8 o => .thread (0x1F#8 ++ o.g.code ++ o.d ++ o.a ++ o.b ++ o.c ++ 0#16 ++ BitVec.ofBool o.sat ++ BitVec.ofBool o.sb ++ BitVec.ofBool o.sa)
  | .addi o => .thread (0x20#8 ++ o.g.code ++ o.d ++ o.a ++ 0#3 ++ o.imm)
  | .andi o => .thread (0x21#8 ++ o.g.code ++ o.d ++ o.a ++ 0#3 ++ o.imm)
  | .ori o => .thread (0x22#8 ++ o.g.code ++ o.d ++ o.a ++ 0#3 ++ o.imm)
  | .xori o => .thread (0x23#8 ++ o.g.code ++ o.d ++ o.a ++ 0#3 ++ o.imm)
  | .shli o => .thread (0x24#8 ++ o.g.code ++ o.d ++ o.a ++ 0#2 ++ BitVec.ofBool o.ar ++ 0#27 ++ o.n)
  | .shri o => .thread (0x25#8 ++ o.g.code ++ o.d ++ o.a ++ 0#2 ++ BitVec.ofBool o.ar ++ 0#27 ++ o.n)
  | .movi o => .thread (0x26#8 ++ o.g.code ++ o.d ++ 0#11 ++ o.imm)
  | .movih o => .thread (0x27#8 ++ o.g.code ++ o.d ++ o.a ++ 0#19 ++ o.imm)
  | .cmpi o => .thread (0x28#8 ++ o.g.code ++ o.pd ++ o.pe ++ o.a ++ o.cond.code ++ o.imm)
  | .muli o => .thread (0x29#8 ++ o.g.code ++ o.d ++ o.a ++ 0#3 ++ o.imm)
  | .cmp o => .thread (0x30#8 ++ o.g.code ++ o.pd ++ o.pe ++ o.a ++ o.b ++ 0#24 ++ o.cond.code)
  | .cmpFloat o => .thread (0x30#8 ++ o.g.code ++ o.pd ++ o.pe ++ o.a ++ o.b ++ 0#10 ++ o.ty.code ++ 0#10 ++ BitVec.ofBool o.hs ++ 1#1 ++ o.cond.code)
  | .plog o => .thread (0x31#8 ++ o.g.code ++ o.pd ++ o.pe ++ 0#4 ++ o.pa ++ 0#4 ++ o.pb ++ 0#23 ++ o.tt)
  | .p2d o => .thread (0x32#8 ++ o.g.code ++ o.d ++ 0#43)
  | .d2p o => .thread (0x33#8 ++ o.g.code ++ 0#8 ++ o.a ++ 0#19 ++ o.mask ++ 0#1)
  | .sel o => .thread (0x34#8 ++ o.g.code ++ o.d ++ o.a ++ o.b ++ 0#8 ++ 0#13 ++ BitVec.ofBool o.w ++ BitVec.ofBool o.n ++ o.s)
  | .fadd o => .thread (0x40#8 ++ o.g.code ++ o.d ++ o.a ++ o.b ++ 0#8 ++ o.rm.code ++ o.ty.code ++ 0#15)
  | .fsub o => .thread (0x41#8 ++ o.g.code ++ o.d ++ o.a ++ o.b ++ 0#8 ++ o.rm.code ++ o.ty.code ++ 0#15)
  | .fmul o => .thread (0x42#8 ++ o.g.code ++ o.d ++ o.a ++ o.b ++ 0#8 ++ o.rm.code ++ o.ty.code ++ 0#15)
  | .fma o => .thread (0x43#8 ++ o.g.code ++ o.d ++ o.a ++ o.b ++ o.c ++ o.rm.code ++ o.ty.code ++ 0#15)
  | .fmin o => .thread (0x44#8 ++ o.g.code ++ o.d ++ o.a ++ o.b ++ 0#8 ++ 0#2 ++ o.ty.code ++ 0#15)
  | .fmax o => .thread (0x45#8 ++ o.g.code ++ o.d ++ o.a ++ o.b ++ 0#8 ++ 0#2 ++ o.ty.code ++ 0#15)
  | .fdot2 o => .thread (0x46#8 ++ o.g.code ++ o.d ++ o.a ++ o.b ++ o.c ++ o.rm.code ++ halfCode o.bf ++ 0#15)
  | .fclass o => .thread (0x47#8 ++ o.g.code ++ o.d ++ o.a ++ 0#8 ++ 0#8 ++ 0#2 ++ o.ty.code ++ 0#15)
  | .fscale o => .thread (0x48#8 ++ o.g.code ++ o.d ++ o.a ++ o.b ++ 0#8 ++ o.rm.code ++ o.ty.code ++ 0#15)
  | .frnd o => .thread (0x49#8 ++ o.g.code ++ o.d ++ o.a ++ 0#8 ++ 0#8 ++ o.rm.code ++ o.ty.code ++ BitVec.ofBool o.x ++ 0#14)
  | .cvt o => .thread (0x50#8 ++ o.g.code ++ o.d ++ o.a ++ 0#8 ++ 0#8 ++ o.rm.code ++ 0#5 ++ o.sel ++ o.ovf.code ++ o.td.code ++ o.ts.code)
  | .cvtf o => .thread (0x51#8 ++ o.g.code ++ o.d ++ o.a ++ o.b ++ 0#8 ++ o.rm.code ++ 0#7 ++ o.ovf.code ++ o.td.code ++ 6#4)
  | .quant o => .thread (0x52#8 ++ o.g.code ++ o.d ++ o.a ++ o.b ++ o.c ++ o.rm.code ++ 0#9 ++ o.ty.code ++ 6#4)
  | .deq o => .thread (0x53#8 ++ o.g.code ++ o.d ++ o.a ++ o.b ++ o.c ++ o.rm.code ++ 0#13 ++ o.ty.code)
  | .amax o => .thread (0x54#8 ++ o.g.code ++ o.d ++ o.a ++ 0#8 ++ 0#8 ++ 0#15 ++ o.ts.code)
  | .perm o => .thread (0x55#8 ++ o.g.code ++ o.d ++ o.a ++ o.b ++ o.c ++ 0#19)
  | .rcp o => .thread (0x58#8 ++ o.g.code ++ o.d ++ o.a ++ 0#8 ++ 0#8 ++ o.rm.code ++ 0#17)
  | .rsqrt o => .thread (0x59#8 ++ o.g.code ++ o.d ++ o.a ++ 0#8 ++ 0#8 ++ o.rm.code ++ 0#17)
  | .sqrt o => .thread (0x5A#8 ++ o.g.code ++ o.d ++ o.a ++ 0#8 ++ 0#8 ++ o.rm.code ++ 0#17)
  | .exp2 o => .thread (0x5B#8 ++ o.g.code ++ o.d ++ o.a ++ 0#8 ++ 0#8 ++ o.rm.code ++ 0#17)
  | .log2 o => .thread (0x5C#8 ++ o.g.code ++ o.d ++ o.a ++ 0#8 ++ 0#8 ++ o.rm.code ++ 0#17)
  | .sin o => .thread (0x5D#8 ++ o.g.code ++ o.d ++ o.a ++ 0#8 ++ 0#8 ++ o.rm.code ++ 0#17)
  | .cos o => .thread (0x5E#8 ++ o.g.code ++ o.d ++ o.a ++ 0#8 ++ 0#8 ++ o.rm.code ++ 0#17)
  | .tanh o => .thread (0x5F#8 ++ o.g.code ++ o.d ++ o.a ++ 0#8 ++ 0#8 ++ o.rm.code ++ 0#17)
  | .sigm o => .thread (0x60#8 ++ o.g.code ++ o.d ++ o.a ++ 0#8 ++ 0#8 ++ o.rm.code ++ 0#17)
  | .erf o => .thread (0x61#8 ++ o.g.code ++ o.d ++ o.a ++ 0#8 ++ 0#8 ++ o.rm.code ++ 0#17)
  | .mov o => .thread (0x68#8 ++ o.g.code ++ o.d ++ o.a ++ 0#8 ++ 0#8 ++ 0#18 ++ BitVec.ofBool o.f)
  | .rds o => .thread (0x69#8 ++ o.g.code ++ o.d ++ 0#8 ++ 0#8 ++ 0#8 ++ 0#10 ++ BitVec.ofBool o.clr ++ o.name.code)
  | .shfl o => .thread (0x6A#8 ++ o.g.code ++ o.d ++ o.a ++ o.b ++ 0#8 ++ 0#9 ++ o.k ++ BitVec.ofBool o.i ++ o.seg.code ++ o.mode.code)
  | .br o => .thread (0x70#8 ++ o.g.code ++ 0#16 ++ o.hint.code ++ o.off)
  | .brx o => .thread (0x71#8 ++ o.g.code ++ 0#8 ++ o.a ++ 0#8 ++ 0#8 ++ 0#19)
  | .call o => .thread (0x72#8 ++ o.g.code ++ o.d ++ 0#8 ++ o.hint.code ++ o.off)
  | .ret o => .thread (0x73#8 ++ o.g.code ++ 0#8 ++ o.a ++ 0#8 ++ 0#8 ++ 0#19)
  | .brc o => .thread (0x74#8 ++ o.g.code ++ o.d ++ 0#8 ++ o.hint.code ++ o.off)
  | .reformDirect o => .thread (0x75#8 ++ o.g.code ++ 0#19 ++ o.off)
  | .reformIndirect o => .thread (0x75#8 ++ o.g.code ++ 1#8 ++ o.a ++ 0#35)
  | .rejoin g => .thread (0x76#8 ++ g.code ++ 0#51)
  | .bar g => .thread (0x77#8 ++ g.code ++ 0#51)
  | .gate o => .thread (0x78#8 ++ o.g.code ++ 0#8 ++ o.a ++ o.b ++ o.c ++ 0#19)
  | .exit g => .thread (0x79#8 ++ g.code ++ 0#51)
  | .trap o => .thread (0x7A#8 ++ o.g.code ++ 0#43 ++ o.n)
  | .brk o => .thread (0x7B#8 ++ o.g.code ++ 0#43 ++ o.n)
  | .ld o => .thread (0x80#8 ++ o.g.code ++ o.d ++ o.a ++ acqCode o.ord ++ o.size.code ++ o.hint.code ++ o.ofs)
  | .st o => .thread (0x81#8 ++ o.g.code ++ o.d ++ o.a ++ relCode o.ord ++ o.size.code ++ o.hint.code ++ o.ofs)
  | .ldr o => .thread (0x82#8 ++ o.g.code ++ o.d ++ o.a ++ acqCode o.ord ++ 5#3 ++ o.hint.code ++ o.ofs)
  | .str o => .thread (0x83#8 ++ o.g.code ++ o.d ++ o.a ++ relCode o.ord ++ 5#3 ++ o.hint.code ++ o.ofs)
  | .pub o => .thread (0x84#8 ++ o.g.code ++ o.d ++ o.a ++ o.scope.code ++ 2#2 ++ 5#3 ++ 0#2 ++ o.ofs)
  | .pref o => .thread (0x85#8 ++ o.g.code ++ 0#8 ++ o.a ++ 0#8 ++ o.hint.code ++ o.ofs)
  | .tagld o => .thread (0x86#8 ++ o.g.code ++ o.d ++ o.a ++ 0#10 ++ o.ofs)
  | .objinit o => .thread (0x87#8 ++ o.g.code ++ o.d ++ o.a ++ 0#10 ++ o.ofs)
  | .atom o => .thread (0x88#8 ++ o.g.code ++ o.d ++ o.a ++ o.b ++ 0#8 ++ o.scope.code ++ o.ord.code ++ o.op.code ++ BitVec.ofBool o.w ++ BitVec.ofBool o.nr ++ 0#8)
  | .cas o => .thread (0x89#8 ++ o.g.code ++ o.d ++ o.a ++ o.b ++ o.c ++ o.scope.code ++ o.ord.code ++ 0#4 ++ BitVec.ofBool o.w ++ 0#9)
  | .fence o => .thread (0x8A#8 ++ o.g.code ++ 0#32 ++ o.scope.code ++ o.kind.code ++ 0#14)
  | .wait o => .thread (0x8B#8 ++ o.g.code ++ o.d ++ o.a ++ o.b ++ o.c ++ o.scope.code ++ 0#1 ++ BitVec.ofBool o.acq ++ 0#11 ++ o.cond.code)
  | .qpush o => .thread (0x8C#8 ++ o.g.code ++ o.d ++ o.a ++ 0#35)
  | .qpop o => .thread (0x8D#8 ++ o.g.code ++ o.d ++ 0#39 ++ o.e)
  | .qszCnt o => .thread (0x8E#8 ++ o.g.code ++ o.d ++ 0#37 ++ o.e ++ 0#2)
  | .qszInit o => .thread (0x8E#8 ++ o.g.code ++ o.d ++ o.a ++ o.b ++ 0#21 ++ o.e ++ 1#2)
  | .qszFin o => .thread (0x8E#8 ++ o.g.code ++ 0#45 ++ o.e ++ 2#2)
  | .cpy o => .thread (0x90#8 ++ o.g.code ++ o.d ++ o.a ++ o.b ++ o.c ++ o.scope.code ++ 0#2 ++ o.ch ++ cvCode o.cv)
  | .cpn o => .thread (0x91#8 ++ o.g.code ++ o.d ++ o.a ++ 0#8 ++ 0#8 ++ o.scope.code ++ 0#2 ++ o.ch ++ 0#11)
  | .cwait o => .thread (0x92#8 ++ o.g.code ++ 0#8 ++ o.a ++ 0#16 ++ o.scope.code ++ 1#2 ++ o.ch ++ 0#11)
  | .cstat o => .thread (0x93#8 ++ o.g.code ++ o.d ++ 0#24 ++ o.scope.code ++ 0#1 ++ BitVec.ofBool o.acq ++ o.ch ++ 0#11)
  | .cabort o => .thread (0x94#8 ++ o.g.code ++ 0#36 ++ BitVec.ofBool o.k ++ o.ch ++ 0#11)
  | .barr o => .thread (0x95#8 ++ o.g.code ++ 0#8 ++ o.x.getD 0#8 ++ 0#30 ++ BitVec.ofBool o.x.isSome ++ o.n)
  | .barw o => .thread (0x96#8 ++ o.g.code ++ o.d ++ o.a ++ 0#31 ++ o.n)
  | .bari o => .thread (0x97#8 ++ o.g.code ++ 0#8 ++ o.a ++ o.b ++ 0#23 ++ o.n)
  | .wopen o => .thread (0x98#8 ++ o.g.code ++ o.d ++ o.a ++ 0#8 ++ 0#8 ++ 0#18 ++ BitVec.ofBool o.f)
  | .wclose o => .thread (0x99#8 ++ o.g.code ++ 0#8 ++ o.a ++ 0#8 ++ 0#8 ++ 0#19)
  | .subsc o => .thread (0x9A#8 ++ o.g.code ++ o.d ++ o.a ++ o.b ++ 0#8 ++ 0#19)
  | .unsubsc o => .thread (0x9B#8 ++ o.g.code ++ 0#8 ++ o.a ++ 0#8 ++ 0#8 ++ 0#19)
  | .vwait o => .thread (0x9C#8 ++ o.g.code ++ o.d ++ o.a ++ o.b ++ o.c ++ 0#18 ++ BitVec.ofBool o.tf)
  | .kvref o => .thread (0x9D#8 ++ o.g.code ++ o.d ++ o.a ++ 0#8 ++ 0#8 ++ o.scope.code ++ o.ord.code ++ 0#5 ++ 0#1 ++ o.n)
  | .kvrefClaim o => .thread (0x9D#8 ++ o.g.code ++ o.d ++ o.a ++ 0#8 ++ 0#8 ++ o.scope.code ++ o.ord.code ++ 0#5 ++ 1#1 ++ o.n)
  | .kvunref o => .thread (0x9E#8 ++ o.g.code ++ o.d ++ o.a ++ 0#8 ++ 0#8 ++ o.scope.code ++ o.ord.code ++ 0#5 ++ 0#1 ++ o.n)
  | .launch o => .thread (0x9F#8 ++ o.g.code ++ o.d ++ o.a ++ o.b ++ 0#8 ++ 0#19)
  | .accld o => .thread (0xA0#8 ++ o.g.code ++ o.d ++ o.a ++ 0#8 ++ 0#8 ++ 0#11 ++ o.w.code ++ o.t)
  | .accst o => .thread (0xA1#8 ++ o.g.code ++ o.d ++ o.a ++ 0#8 ++ 0#8 ++ 0#11 ++ o.w.code ++ o.t)
  | .tbw o => .thread (0xA2#8 ++ o.g.code ++ 0#45 ++ o.t)
  | .tba o => .thread (0xA3#8 ++ o.g.code ++ 0#45 ++ o.t)
  | .sysr o => .thread (0xC0#8 ++ o.g.code ++ o.d ++ o.x.getD 0#8 ++ 0#2 ++ BitVec.ofBool o.x.isSome ++ 0#24 ++ o.code.code)
  | .sysw o => .thread (0xC1#8 ++ o.g.code ++ o.d ++ o.x.getD 0#8 ++ 0#2 ++ BitVec.ofBool o.x.isSome ++ 0#24 ++ o.code.code)
  | .eret g => .thread (0xC2#8 ++ g.code ++ 0#51)
  | .tlbiAll g => .thread (0xC3#8 ++ g.code ++ 0#51)
  | .tlbiAsid o => .thread (0xC3#8 ++ o.g.code ++ 0#8 ++ o.a ++ 0#33 ++ 1#2)
  | .tlbiVa o => .thread (0xC3#8 ++ o.g.code ++ 0#8 ++ o.a ++ o.b ++ 0#25 ++ 2#2)
  | .cflush o => .thread (0xC4#8 ++ o.g.code ++ 0#8 ++ o.a ++ 0#33 ++ BitVec.ofBool o.inv ++ 0#1)
  | .cflushAll g => .thread (0xC4#8 ++ g.code ++ 0#50 ++ 1#1)
  | .cinval o => .thread (0xC5#8 ++ o.g.code ++ 0#48 ++ BitVec.ofBool o.wide ++ o.tgt.code)
  | .idle o => .thread (0xC6#8 ++ o.g.code ++ o.d ++ 0#8 ++ o.b ++ 0#25 ++ o.mask)
  | .dbgrRd o => .thread (0xC7#8 ++ o.g.code ++ o.d ++ 0#33 ++ o.n ++ 0#1)
  | .dbgrWr o => .thread (0xC7#8 ++ o.g.code ++ o.d ++ 0#33 ++ o.n ++ 1#1)
  | .idleStep o => .header (headerWord o 0#8)
  | .kadd o => .slot .s (0x00#6 ++ BitVec.ofBool o.w.h ++ o.w.q ++ o.d ++ o.a ++ o.b ++ 0#2 ++ BitVec.ofBool o.x ++ BitVec.ofBool o.i)
  | .ksub o => .slot .s (0x01#6 ++ BitVec.ofBool o.w.h ++ o.w.q ++ o.d ++ o.a ++ o.b ++ 0#2 ++ BitVec.ofBool o.x ++ BitVec.ofBool o.i)
  | .kmul o => .slot .s (0x02#6 ++ BitVec.ofBool o.w.h ++ o.w.q ++ o.d ++ o.a ++ o.b ++ 0#2 ++ BitVec.ofBool o.x ++ BitVec.ofBool o.i)
  | .kand o => .slot .s (0x03#6 ++ BitVec.ofBool o.w.h ++ o.w.q ++ o.d ++ o.a ++ o.b ++ 0#2 ++ BitVec.ofBool o.x ++ BitVec.ofBool o.i)
  | .kor o => .slot .s (0x04#6 ++ BitVec.ofBool o.w.h ++ o.w.q ++ o.d ++ o.a ++ o.b ++ 0#2 ++ BitVec.ofBool o.x ++ BitVec.ofBool o.i)
  | .kxor o => .slot .s (0x05#6 ++ BitVec.ofBool o.w.h ++ o.w.q ++ o.d ++ o.a ++ o.b ++ 0#2 ++ BitVec.ofBool o.x ++ BitVec.ofBool o.i)
  | .kshl o => .slot .s (0x06#6 ++ BitVec.ofBool o.w.h ++ o.w.q ++ o.d ++ o.a ++ o.b ++ 0#2 ++ BitVec.ofBool o.x ++ BitVec.ofBool o.i)
  | .kshr o => .slot .s (0x07#6 ++ BitVec.ofBool o.w.h ++ o.w.q ++ o.d ++ o.a ++ o.b ++ 0#2 ++ BitVec.ofBool o.x ++ BitVec.ofBool o.i)
  | .kmin o => .slot .s (0x08#6 ++ BitVec.ofBool o.w.h ++ o.w.q ++ o.d ++ o.a ++ o.b ++ 0#2 ++ BitVec.ofBool o.x ++ BitVec.ofBool o.i)
  | .kmax o => .slot .s (0x09#6 ++ BitVec.ofBool o.w.h ++ o.w.q ++ o.d ++ o.a ++ o.b ++ 0#2 ++ BitVec.ofBool o.x ++ BitVec.ofBool o.i)
  | .kaddi o => .slot .s (0x0A#6 ++ BitVec.ofBool o.w.h ++ o.w.q ++ o.d ++ o.a ++ o.imm)
  | .kmovi o => .slot .s (0x0B#6 ++ BitVec.ofBool o.w.h ++ o.w.q ++ o.d ++ o.imm)
  | .kcmp o => .slot .s (0x0C#6 ++ BitVec.ofBool o.w.h ++ o.w.q ++ o.qd ++ o.qe ++ o.a ++ o.b ++ o.cond.code ++ BitVec.ofBool o.i)
  | .ksel o => .slot .s (0x0D#6 ++ BitVec.ofBool o.w.h ++ o.w.q ++ o.d ++ o.a ++ o.b ++ o.q ++ BitVec.ofBool o.n)
  | .kld o => .slot .s (0x0E#6 ++ BitVec.ofBool o.w.h ++ o.w.q ++ o.d ++ o.a ++ o.imm)
  | .kst o => .slot .s (0x0F#6 ++ BitVec.ofBool o.w.h ++ o.w.q ++ o.d ++ o.a ++ o.imm)
  | .scfg o => .slot .m (0x00#6 ++ BitVec.ofBool o.w.h ++ o.w.q ++ o.s ++ o.a ++ o.imm)
  | .sbase o => .slot .m (0x01#6 ++ BitVec.ofBool o.w.h ++ o.w.q ++ o.s ++ o.a ++ o.imm)
  | .sadv o => .slot .m (0x02#6 ++ BitVec.ofBool o.w.h ++ o.w.q ++ o.s ++ 0#7 ++ o.n)
  | .sadvB o => .slot .m (0x02#6 ++ BitVec.ofBool o.w.h ++ o.w.q ++ o.s ++ 1#1 ++ o.a ++ 0#11)
  | .sgbt o => .slot .m (0x03#6 ++ BitVec.ofBool o.w.h ++ o.w.q ++ o.s ++ o.a ++ 0#12)
  | .sropeAdj o => .slot .m (0x04#6 ++ BitVec.ofBool o.w.h ++ o.w.q ++ o.s ++ o.f ++ 0#2 ++ 0#12)
  | .sropeHalf o => .slot .m (0x04#6 ++ BitVec.ofBool o.w.h ++ o.w.q ++ o.s ++ o.f ++ 1#2 ++ 0#12)
  | .sropeOff o => .slot .m (0x04#6 ++ BitVec.ofBool o.w.h ++ o.w.q ++ o.s ++ 0#4 ++ 2#2 ++ 0#12)
  | .cbi o => .slot .m (0x05#6 ++ BitVec.ofBool o.w.h ++ o.w.q ++ o.c ++ o.a ++ o.b ++ 0#7)
  | .cbw o => .slot .m (0x06#6 ++ BitVec.ofBool o.w.h ++ o.w.q ++ o.c ++ o.n ++ 0#11)
  | .cbf o => .slot .m (0x07#6 ++ BitVec.ofBool o.w.h ++ o.w.q ++ o.c ++ o.n ++ 0#11)
  | .cbaF o => .slot .m (0x08#6 ++ BitVec.ofBool o.w.h ++ o.w.q ++ o.c ++ o.n ++ 0#1 ++ 0#10)
  | .cbaE o => .slot .m (0x08#6 ++ BitVec.ofBool o.w.h ++ o.w.q ++ o.c ++ o.n ++ 1#1 ++ 0#10)
  | .sscale o => .slot .m (0x09#6 ++ BitVec.ofBool o.w.h ++ o.w.q ++ o.s ++ o.ss ++ o.gs ++ o.a ++ 0#6)
  | .smask o => .slot .m (0x0A#6 ++ BitVec.ofBool o.w.h ++ o.w.q ++ o.s ++ o.a ++ 0#12)
  | .xpush o => .slot .x (0x00#6 ++ BitVec.ofBool o.w.h ++ o.w.q ++ o.s ++ BitVec.ofBool o.e ++ o.col ++ 0#12)
  | .xswap w => .slot .x (0x01#6 ++ BitVec.ofBool w.h ++ w.q ++ 0#22)
  | .xshift o => .slot .x (0x02#6 ++ BitVec.ofBool o.w.h ++ o.w.q ++ o.t ++ o.row ++ BitVec.ofBool o.ar ++ o.s ++ 0#6)
  | .xacc o => .slot .x (0x03#6 ++ BitVec.ofBool o.w.h ++ o.w.q ++ o.t ++ o.row ++ BitVec.ofBool o.ar ++ o.s ++ 0#6)
  | .xdrain o => .slot .x (0x04#6 ++ BitVec.ofBool o.w.h ++ o.w.q ++ o.t ++ o.row ++ BitVec.ofBool o.ar ++ o.s ++ BitVec.ofBool o.z ++ 0#5)
  | .xmask o => .slot .x (0x05#6 ++ BitVec.ofBool o.w.h ++ o.w.q ++ o.a ++ 0#5 ++ o.dc)
  | .xmode o => .slot .x (0x06#6 ++ BitVec.ofBool o.w.h ++ o.w.q ++ o.af ++ o.wf ++ 0#14)
  | .yadd o => .slot .y (0x00#6 ++ BitVec.ofBool o.w.h ++ o.w.q ++ o.d ++ o.a ++ o.b ++ BitVec.ofBool o.f16)
  | .ymul o => .slot .y (0x01#6 ++ BitVec.ofBool o.w.h ++ o.w.q ++ o.d ++ o.a ++ o.b ++ BitVec.ofBool o.f16)
  | .yrsc o => .slot .y (0x02#6 ++ BitVec.ofBool o.w.h ++ o.w.q ++ o.d ++ o.a ++ o.t ++ BitVec.ofBool o.sw ++ BitVec.ofBool o.f16)
  | .yexp o => .slot .y (0x03#6 ++ BitVec.ofBool o.w.h ++ o.w.q ++ o.d ++ o.a ++ o.t ++ BitVec.ofBool o.sw ++ BitVec.ofBool o.f16)
  | .yrmax o => .slot .y (0x04#6 ++ BitVec.ofBool o.w.h ++ o.w.q ++ o.t ++ BitVec.ofBool o.sw ++ o.a ++ BitVec.ofBool o.k ++ 0#6 ++ BitVec.ofBool o.f16)
  | .yrsum o => .slot .y (0x05#6 ++ BitVec.ofBool o.w.h ++ o.w.q ++ o.t ++ BitVec.ofBool o.sw ++ o.a ++ BitVec.ofBool o.k ++ 0#6 ++ BitVec.ofBool o.f16)
  | .ymov o => .slot .y (0x06#6 ++ BitVec.ofBool o.w.h ++ o.w.q ++ o.d ++ o.a ++ 0#7 ++ BitVec.ofBool o.f16)
  | .ycvt o => .slot .y (0x07#6 ++ BitVec.ofBool o.w.h ++ o.w.q ++ o.d ++ o.a ++ o.td.code ++ o.ovf.code ++ BitVec.ofBool o.clr ++ BitVec.ofBool o.f16)
  | .ytr o => .slot .y (0x08#6 ++ BitVec.ofBool o.w.h ++ o.w.q ++ o.d ++ o.a ++ 0#7 ++ BitVec.ofBool o.f16)
  | .smst o => .slot .y (0x09#6 ++ BitVec.ofBool o.w.h ++ o.w.q ++ o.t ++ o.s ++ o.b ++ 0#6)
  | .smrg o => .slot .y (0x0A#6 ++ BitVec.ofBool o.w.h ++ o.w.q ++ o.t ++ o.s ++ o.n ++ 0#9)
  | .ybarArv o => .slot .y (0x0B#6 ++ BitVec.ofBool o.w.h ++ o.w.q ++ o.t ++ 0#1 ++ 0#15)
  | .ybarWt o => .slot .y (0x0B#6 ++ BitVec.ofBool o.w.h ++ o.w.q ++ o.t ++ 1#1 ++ 0#15)
  | .ccpy o => .slot .c (0x00#6 ++ BitVec.ofBool o.w.h ++ o.w.q ++ o.s ++ o.d ++ o.ch ++ o.a ++ 0#5)
  | .ccpn o => .slot .c (0x01#6 ++ BitVec.ofBool o.w.h ++ o.w.q ++ o.a ++ o.ch ++ 0#1 ++ 0#12)
  | .ccpnRing o => .slot .c (0x01#6 ++ BitVec.ofBool o.w.h ++ o.w.q ++ o.a ++ o.ch ++ 1#1 ++ o.c ++ o.n ++ 0#6)
  | .cgath o => .slot .c (0x02#6 ++ BitVec.ofBool o.w.h ++ o.w.q ++ o.s ++ o.d ++ o.ch ++ o.a ++ 0#5)
  | .cscat o => .slot .c (0x03#6 ++ BitVec.ofBool o.w.h ++ o.w.q ++ o.s ++ o.d ++ o.ch ++ o.a ++ 0#5)
  | .ccwt o => .slot .c (0x04#6 ++ BitVec.ofBool o.w.h ++ o.w.q ++ o.ch ++ o.n ++ 0#16)
  | .fbr o => .slot .f (0x00#6 ++ 0#1 ++ o.q ++ o.a ++ BitVec.ofBool o.z ++ o.off)
  | .fjmp o => .slot .f (0x01#6 ++ 0#1 ++ o.q ++ 0#1 ++ o.off)
  | .fjmpIndirect o => .slot .f (0x01#6 ++ 0#1 ++ o.q ++ 1#1 ++ o.a ++ 0#15)
  | .fcall o => .slot .f (0x02#6 ++ 0#1 ++ o.q ++ o.l ++ o.off)
  | .fret o => .slot .f (0x03#6 ++ 0#1 ++ o.q ++ o.a ++ 0#16)
  | .floop o => .slot .f (0x04#6 ++ 0#1 ++ o.q ++ o.l ++ o.c ++ o.n ++ 0#8)
  | .gret q => .slot .f (0x05#6 ++ 0#1 ++ q ++ 0#22)
  | .ftrap o => .slot .f (0x06#6 ++ 0#1 ++ o.q ++ 0#14 ++ o.n)
  | .fbrk o => .slot .f (0x07#6 ++ 0#1 ++ o.q ++ 0#14 ++ o.n)
  | .ffence o => .slot .f (0x08#6 ++ 0#1 ++ o.q ++ 0#20 ++ o.kind.code)
  | .fwait o => .slot .f (0x09#6 ++ 0#1 ++ o.q ++ 0#14 ++ o.n)
  | .resultLanding _ _ => .event
  | .streamReadReturn _ _ => .event
  | .ringWaitSatisfied _ _ => .event
  | .copyWaitSatisfied _ _ => .event
  | .tileBarrierWaitSatisfied _ _ => .event
  | .tileBarrierArrival _ _ => .event
  | .tbwWake _ _ => .event
  | .commandAcceptAfterBackpressure _ _ => .event
  | .drainPoint _ _ => .event
  | .basinAgeExpiry _ _ _ => .event
  | .memoryResultReturn _ _ => .event
  | .memWaitWake _ _ => .event
  | .memWaitTimeout _ _ => .event
  | .vwaitWake _ _ => .event
  | .vwaitTimeout _ _ => .event
  | .idleWake _ _ => .event
  | .idleTimeout _ _ => .event
  | .queueWaitWake _ _ => .event
  | .cwaitWake _ _ => .event
  | .rootBroadcast _ _ => .event
  | .barwWake _ _ => .event
  | .gatherBlock _ _ _ => .event
  | .copyCommandComplete _ _ _ => .event
  | .commandFault _ _ _ => .event
  | .blockPreempt _ => .event
  | .dpboundExpiry _ => .event
  | .launchQueueTailWrite _ _ => .event
  | .launchAccept _ => .event
  | .launchWaitPoll _ => .event
  | .blockResidency _ _ => .event
  | .blockRetire _ => .event
  | .parkWake _ => .event
  | .parkMonitorFreed _ => .event
  | .l1EvictionWriteback _ _ => .event
  | .shootdownComplete _ _ => .event
  | .walkAccept _ => .event
  | .walkRestart _ _ => .event
  | .walkComplete _ _ => .event
  | .accessCountApply => .event
  | .faultRecordPost => .event
  | .faultQueueRetry => .event
  | .ctxstLoadedWrite _ _ => .event
  | .ctxstKillWrite _ => .event
  | .killComplete _ => .event
  | .walkstkWrite _ _ => .event
  | .fqbaseWrite _ => .event
  | .xtrigHreqWrite _ => .event
  | .xtrigRreqWrite _ => .event
  | .breakpointHit _ _ _ => .event
  | .haltComplete _ => .event
  | .nostopTimeout _ _ => .event
  | .trctlWrite _ _ => .event
  | .traceSample _ _ _ => .event
  | .hostRegisterWrite _ _ => .event
  | .hostBar2Write _ _ _ => .event
  | .hostBar2Read _ _ => .event
  | .capabilityApply _ => .event
  | .castWriteFlit _ _ _ => .event
  | .versionAdvanceFlit _ _ => .event
  | .remoteAccessRequestFlit _ _ _ _ => .event
  | .responseFlit _ _ => .event
  | .heartbeatFlit _ => .event
  | .heartbeatTimer => .event
  | .portDown _ => .event
  | .accessTimeout _ => .event
  | .deviceReset => .event
  | .bootVerifyComplete => .event
  | .doorbell => .event
  | .fusedSvnRaise => .event
  | .attestationRequest _ => .event
  | .thermalThrottle => .event
  | .thermalShutdown => .event
  | .writeAcknowledgedAtHome _ _ => .event
  | .preemptResidencyExpiry _ => .event
  | .ageWrite _ _ => .event
  | .pstatWrite _ _ _ => .event
  | .waitRemoteReread _ _ => .event

/-- Decoding of the words `encode` writes. -/
def decodeEnc (e : Enc) : Except DecErr Instr :=
  match e with
  | .thread w => decodeThread w
  | .slot k w => decodeSlot k w
  | .header w =>
    match decodeHeader w with
    | some (h, mask) => if mask == 0#8 then .ok (.idleStep h) else .error .header
    | none => .error .header
  | .event => .error .opcode

/-- How many bits of a slot word's class encoding are fixed for this instruction: the operand bits that its layout shows zero
or fixed. Used only by `decodeTableWord`, whose argument does not name the class. -/
def fixedBits (i : Instr) : Nat :=
  match i with
  | .nop _ => 0
  | .add _ => 0
  | .sub _ => 0
  | .mul _ => 0
  | .mulh _ => 0
  | .mulw _ => 0
  | .mad _ => 0
  | .and _ => 0
  | .or _ => 0
  | .xor _ => 0
  | .andn _ => 0
  | .shl _ => 0
  | .shr _ => 0
  | .rot _ => 0
  | .min _ => 0
  | .max _ => 0
  | .abs _ => 0
  | .clz _ => 0
  | .popc _ => 0
  | .brev _ => 0
  | .bfx _ => 0
  | .bfi _ => 0
  | .addx _ => 0
  | .subx _ => 0
  | .add64 _ => 0
  | .sub64 _ => 0
  | .shl64 _ => 0
  | .shr64 _ => 0
  | .mul64 _ => 0
  | .lea _ => 0
  | .idot4 _ => 0
  | .idot8 _ => 0
  | .addi _ => 0
  | .andi _ => 0
  | .ori _ => 0
  | .xori _ => 0
  | .shli _ => 0
  | .shri _ => 0
  | .movi _ => 0
  | .movih _ => 0
  | .cmpi _ => 0
  | .muli _ => 0
  | .cmp _ => 0
  | .cmpFloat _ => 0
  | .plog _ => 0
  | .p2d _ => 0
  | .d2p _ => 0
  | .sel _ => 0
  | .fadd _ => 0
  | .fsub _ => 0
  | .fmul _ => 0
  | .fma _ => 0
  | .fmin _ => 0
  | .fmax _ => 0
  | .fdot2 _ => 0
  | .fclass _ => 0
  | .fscale _ => 0
  | .frnd _ => 0
  | .cvt _ => 0
  | .cvtf _ => 0
  | .quant _ => 0
  | .deq _ => 0
  | .amax _ => 0
  | .perm _ => 0
  | .rcp _ => 0
  | .rsqrt _ => 0
  | .sqrt _ => 0
  | .exp2 _ => 0
  | .log2 _ => 0
  | .sin _ => 0
  | .cos _ => 0
  | .tanh _ => 0
  | .sigm _ => 0
  | .erf _ => 0
  | .mov _ => 0
  | .rds _ => 0
  | .shfl _ => 0
  | .br _ => 0
  | .brx _ => 0
  | .call _ => 0
  | .ret _ => 0
  | .brc _ => 0
  | .reformDirect _ => 0
  | .reformIndirect _ => 0
  | .rejoin _ => 0
  | .bar _ => 0
  | .gate _ => 0
  | .exit _ => 0
  | .trap _ => 0
  | .brk _ => 0
  | .ld _ => 0
  | .st _ => 0
  | .ldr _ => 0
  | .str _ => 0
  | .pub _ => 0
  | .pref _ => 0
  | .tagld _ => 0
  | .objinit _ => 0
  | .atom _ => 0
  | .cas _ => 0
  | .fence _ => 0
  | .wait _ => 0
  | .qpush _ => 0
  | .qpop _ => 0
  | .qszCnt _ => 0
  | .qszInit _ => 0
  | .qszFin _ => 0
  | .cpy _ => 0
  | .cpn _ => 0
  | .cwait _ => 0
  | .cstat _ => 0
  | .cabort _ => 0
  | .barr _ => 0
  | .barw _ => 0
  | .bari _ => 0
  | .wopen _ => 0
  | .wclose _ => 0
  | .subsc _ => 0
  | .unsubsc _ => 0
  | .vwait _ => 0
  | .kvref _ => 0
  | .kvrefClaim _ => 0
  | .kvunref _ => 0
  | .launch _ => 0
  | .accld _ => 0
  | .accst _ => 0
  | .tbw _ => 0
  | .tba _ => 0
  | .sysr _ => 0
  | .sysw _ => 0
  | .eret _ => 0
  | .tlbiAll _ => 0
  | .tlbiAsid _ => 0
  | .tlbiVa _ => 0
  | .cflush _ => 0
  | .cflushAll _ => 0
  | .cinval _ => 0
  | .idle _ => 0
  | .dbgrRd _ => 0
  | .dbgrWr _ => 0
  | .idleStep _ => 27
  | .kadd _ => 9
  | .ksub _ => 9
  | .kmul _ => 9
  | .kand _ => 9
  | .kor _ => 9
  | .kxor _ => 9
  | .kshl _ => 9
  | .kshr _ => 8
  | .kmin _ => 8
  | .kmax _ => 8
  | .kaddi _ => 6
  | .kmovi _ => 6
  | .kcmp _ => 6
  | .ksel _ => 6
  | .kld _ => 6
  | .kst _ => 6
  | .scfg _ => 6
  | .sbase _ => 6
  | .sadv _ => 13
  | .sadvB _ => 18
  | .sgbt _ => 18
  | .sropeAdj _ => 20
  | .sropeHalf _ => 20
  | .sropeOff _ => 24
  | .cbi _ => 13
  | .cbw _ => 17
  | .cbf _ => 17
  | .cbaF _ => 17
  | .cbaE _ => 17
  | .sscale _ => 12
  | .smask _ => 18
  | .xpush _ => 18
  | .xswap _ => 28
  | .xshift _ => 12
  | .xacc _ => 12
  | .xdrain _ => 11
  | .xmask _ => 11
  | .xmode _ => 20
  | .yadd _ => 6
  | .ymul _ => 6
  | .yrsc _ => 6
  | .yexp _ => 6
  | .yrmax _ => 12
  | .yrsum _ => 12
  | .ymov _ => 13
  | .ycvt _ => 6
  | .ytr _ => 13
  | .smst _ => 12
  | .smrg _ => 15
  | .ybarArv _ => 22
  | .ybarWt _ => 22
  | .ccpy _ => 11
  | .ccpn _ => 19
  | .ccpnRing _ => 13
  | .cgath _ => 11
  | .cscat _ => 11
  | .ccwt _ => 22
  | .fbr _ => 7
  | .fjmp _ => 8
  | .fjmpIndirect _ => 23
  | .fcall _ => 7
  | .fret _ => 23
  | .floop _ => 15
  | .gret _ => 29
  | .ftrap _ => 21
  | .fbrk _ => 21
  | .ffence _ => 27
  | .fwait _ => 21
  | .resultLanding _ _ => 0
  | .streamReadReturn _ _ => 0
  | .ringWaitSatisfied _ _ => 0
  | .copyWaitSatisfied _ _ => 0
  | .tileBarrierWaitSatisfied _ _ => 0
  | .tileBarrierArrival _ _ => 0
  | .tbwWake _ _ => 0
  | .commandAcceptAfterBackpressure _ _ => 0
  | .drainPoint _ _ => 0
  | .basinAgeExpiry _ _ _ => 0
  | .memoryResultReturn _ _ => 0
  | .memWaitWake _ _ => 0
  | .memWaitTimeout _ _ => 0
  | .vwaitWake _ _ => 0
  | .vwaitTimeout _ _ => 0
  | .idleWake _ _ => 0
  | .idleTimeout _ _ => 0
  | .queueWaitWake _ _ => 0
  | .cwaitWake _ _ => 0
  | .rootBroadcast _ _ => 0
  | .barwWake _ _ => 0
  | .gatherBlock _ _ _ => 0
  | .copyCommandComplete _ _ _ => 0
  | .commandFault _ _ _ => 0
  | .blockPreempt _ => 0
  | .dpboundExpiry _ => 0
  | .launchQueueTailWrite _ _ => 0
  | .launchAccept _ => 0
  | .launchWaitPoll _ => 0
  | .blockResidency _ _ => 0
  | .blockRetire _ => 0
  | .parkWake _ => 0
  | .parkMonitorFreed _ => 0
  | .l1EvictionWriteback _ _ => 0
  | .shootdownComplete _ _ => 0
  | .walkAccept _ => 0
  | .walkRestart _ _ => 0
  | .walkComplete _ _ => 0
  | .accessCountApply => 0
  | .faultRecordPost => 0
  | .faultQueueRetry => 0
  | .ctxstLoadedWrite _ _ => 0
  | .ctxstKillWrite _ => 0
  | .killComplete _ => 0
  | .walkstkWrite _ _ => 0
  | .fqbaseWrite _ => 0
  | .xtrigHreqWrite _ => 0
  | .xtrigRreqWrite _ => 0
  | .breakpointHit _ _ _ => 0
  | .haltComplete _ => 0
  | .nostopTimeout _ _ => 0
  | .trctlWrite _ _ => 0
  | .traceSample _ _ _ => 0
  | .hostRegisterWrite _ _ => 0
  | .hostBar2Write _ _ _ => 0
  | .hostBar2Read _ _ => 0
  | .capabilityApply _ => 0
  | .castWriteFlit _ _ _ => 0
  | .versionAdvanceFlit _ _ => 0
  | .remoteAccessRequestFlit _ _ _ _ => 0
  | .responseFlit _ _ => 0
  | .heartbeatFlit _ => 0
  | .heartbeatTimer => 0
  | .portDown _ => 0
  | .accessTimeout _ => 0
  | .deviceReset => 0
  | .bootVerifyComplete => 0
  | .doorbell => 0
  | .fusedSvnRaise => 0
  | .attestationRequest _ => 0
  | .thermalThrottle => 0
  | .thermalShutdown => 0
  | .writeAcknowledgedAtHome _ _ => 0
  | .preemptResidencyExpiry _ => 0
  | .ageWrite _ _ => 0
  | .pstatWrite _ _ _ => 0
  | .waitRemoteReread _ _ => 0

/-- The table's 32-bit rows name no class: a word that is a header with no slot words is the idle step; of the classes that
accept any other word, the one whose row fixes most bits is taken, the first of equals (log 19). -/
def classOf (w : W32) : Option SlotClass :=
  ([SlotClass.s, .m, .x, .y, .c, .f].foldl
    (fun (best : Option (SlotClass × Nat)) k =>
      match decodeSlot k w with
      | .error _ => best
      | .ok i =>
        match best with
        | some (_, n) => if n < fixedBits i then some (k, fixedBits i) else best
        | none => some (k, fixedBits i))
    none).map Prod.fst

/-- The instruction that the decoder reads from a word of the opcode table: 64 bits are a thread word, 32 bits a header or a
slot word. -/
def decodeTableWord (nbits w : Nat) : Option Instr :=
  if nbits = 64 then (decodeThread (BitVec.ofNat 64 w)).toOption
  else if nbits = 32 then
    let x : W32 := BitVec.ofNat 32 w
    match decodeEnc (.header x) with
    | .ok i => some i
    | .error _ => (classOf x).bind fun k => (decodeSlot k x).toOption
  else none

end Sys2Proof
end

