-- ==== Sys2Proof/Config.lean ====
section
/-! DEFINITION. What the NL8-4D's manual leaves open, as constants with no body: no proof can see their values. -/

namespace Sys2Proof.Config

/-- DESIGN CHOICE (log 6): the n-th undefined value (00_scope.md R11), of any width. -/
opaque freeBits : Nat → (w : Nat) → BitVec w

/-- DESIGN CHOICE (log 4): cycles that pass, beyond one, in the n-th turn of the model (01_machine.md R15). -/
opaque cycles : Nat → Nat

/-- DESIGN CHOICE (log 5): what timing makes of a unit that could issue in the n-th turn of the model and does not (12_scheduling.md R309,
R310), by unit. -/
opaque timing : Nat → Nat → Nat

/-- DESIGN CHOICE (log 6): the sign of the exact zero of a `deq` (05_thread_instructions.md R134), by its operands; true for -0. -/
opaque zeroSign : Nat → Nat → Bool

/-- DESIGN CHOICE (log 22): the ECDSA P-384 signature over the bytes of an attestation report (20_system_recovery.md R415). -/
opaque signEcdsa : List Byte → BitVec 768
/-- DESIGN CHOICE (log 22): the LMS signature over the bytes of an attestation report (R415). -/
opaque signLms : List Byte → List Byte
/-- DESIGN CHOICE (log 22): the boot flash can be read at the n-th verification (R414). -/
opaque flashReads : Nat → Bool
/-- DESIGN CHOICE (log 22): the bytes of the boot flash (R414). -/
opaque flashByte : Nat → Byte
/-- DESIGN CHOICE (log 22): the bytes that the image of the n-th verification takes, which no field of its header gives (R414). -/
opaque imageSize : Nat → Nat
/-- DESIGN CHOICE (log 22): an ECDSA P-384 signature verifies over a digest under the fused public key (R414). -/
opaque ecdsaVerifies : BitVec 384 → List Byte → Bool
/-- DESIGN CHOICE (log 22): an LMS signature verifies over a digest under the fused public key (R414). -/
opaque lmsVerifies : BitVec 384 → List Byte → Bool
/-- DESIGN CHOICE (log 90): what the sensors of R416 read in the n-th turn of the model: module power in watts, and temperatures in degrees
Celsius of each die's junction, of the inlet and of the outlet. -/
opaque power : Nat → Nat
/-- DESIGN CHOICE (log 90): the junction temperature, by turn and die. -/
opaque junction : Nat → Nat → Nat
/-- DESIGN CHOICE (log 90): the inlet temperature, by turn. -/
opaque inlet : Nat → Nat
/-- DESIGN CHOICE (log 90): the outlet temperature, by turn. -/
opaque outlet : Nat → Nat
/-- DESIGN CHOICE (log 22): the device identity an attestation report holds (R415). -/
opaque identity : BitVec 128

end Sys2Proof.Config
end

