-- ==== Sys2Proof/Machine/Table.lean ====
section
/-! DEFINITION. Tables: entries by number, in rising order, none equal to what an unlisted number reads as. The canonical
form makes equal contents equal data. -/

namespace Sys2Proof.Machine

/-- The entry of number k; `d` where none is listed. -/
def Tbl.get {α : Type} (d : α) (t : Tbl α) (k : Nat) : α :=
  match t with
  | [] => d
  | (i, v) :: t => if i = k then v else Tbl.get d t k

/-- An entry added at its place in the order. -/
def Tbl.insert {α : Type} (k : Nat) (v : α) (t : Tbl α) : Tbl α :=
  match t with
  | [] => [(k, v)]
  | (i, x) :: t => if i < k then (i, x) :: Tbl.insert k v t else (k, v) :: (i, x) :: t

/-- A table without the entry of number k. -/
def Tbl.erase {α : Type} (t : Tbl α) (k : Nat) : Tbl α := t.filter fun e => e.1 != k

/-- The table with v at number k: the value an unlisted number reads as removes the entry. -/
def Tbl.put {α : Type} [DecidableEq α] (d : α) (t : Tbl α) (k : Nat) (v : α) : Tbl α :=
  if v = d then Tbl.erase t k else Tbl.insert k v (Tbl.erase t k)

/-- The table with f applied to the entry of number k. -/
def Tbl.modify {α : Type} [DecidableEq α] (d : α) (t : Tbl α) (k : Nat) (f : α → α) : Tbl α :=
  Tbl.put d t k (f (Tbl.get d t k))

/-- Several entries written, in order. -/
def Tbl.puts {α : Type} [DecidableEq α] (d : α) (t : Tbl α) (l : List (Nat × α)) : Tbl α :=
  l.foldl (fun t e => Tbl.put d t e.1 e.2) t

/-- The canonical form: numbers strictly rising, and no entry equal to the default. -/
def Tbl.wf {α : Type} [DecidableEq α] (d : α) (t : Tbl α) : Bool :=
  match t with
  | [] => true
  | [(_, v)] => decide (v ≠ d)
  | (i, v) :: (j, w) :: t => decide (v ≠ d) && decide (i < j) && Tbl.wf d ((j, w) :: t)

end Sys2Proof.Machine
end

