-- ==== Sys2Proof/Machine/State.lean ====
section
/-! DEFINITION. The state of an NL8-4D, as plain data: everything 00_scope.md to 20_system_recovery.md give the machine, and
the fields of the model's own that INVENTORY.md lists (agenda, turn, cur, free). -/

namespace Sys2Proof.Machine

/-- Byte memory: one entry per physical location that does not read as zero (log 1, log 2). -/
abbrev Memory := Tbl Byte
/-- The canonical form of memory. -/
def Memory.wf (m : Memory) : Bool := Tbl.wf 0#8 m

/-! ### Threads -/

/-- The scheduler-visible waits of a thread (12_scheduling.md R306), with what ends each. -/
inductive Wait where
  | bar | rejoin | gate
  /-- At `tbw` for this tile (R209). -/
  | tileBar (tile : Nat)
  /-- At `barw` of barrier n, whose phase it saw (R283). -/
  | barw (n : Nat) (saw : Bool)
  /-- At `wait`: until the word at a location meets a condition against a value (R265). -/
  | mem (loc : Nat) (cond : Cond) (v : W32)
  /-- At `vwait`: until the copy of a window reaches a version (R287). -/
  | vwait (handle target : W32)
  /-- At `qpush` or `qpop` of endpoint e of a core (R267). -/
  | queue (core e : Nat) (push : Bool)
  /-- At `cwait` for a transfer of a channel (R277). -/
  | cwait (ch : Nat) (id : W32)
  /-- At `idle` for the queues of a mask (R358). -/
  | idle (mask : BitVec 2)
  /-- At `tba` for this tile (R209). -/
  | tba (tile : Nat)
  /-- Filed in the basin of this continuation address at this cycle, the n-th filing of the model (R38). -/
  | basin (key : Addr) (filed : Nat) (order : Nat)
  deriving DecidableEq, Repr

/-- Why the barge of a thread holds an instruction that has not performed (R269, R330, R264, R335). -/
inductive Stall where
  /-- Parked on the PTE lines at these physical line addresses: its lanes may park on several (R330); and, if some of them found no free
  monitor, the die of the first of these. -/
  | park (lines : List Nat) (full : Option Nat)
  /-- Parked without a monitor, all 256 of this die being armed (R330). -/
  | parkNoMonitor (die : Nat)
  /-- A copy channel at back-pressure (R269). -/
  | channel (ch : Nat)
  /-- A `fence` whose writes are not all acknowledged at their homes (R264). -/
  | fence
  /-- A shootdown handshake (R335). -/
  | tlbi
  /-- A `pub` whose walk has not completed (R252). -/
  | pub
  /-- An outstanding access to another device (R366). -/
  | remote (id : Nat)
  deriving DecidableEq, Repr

/-- What a thread is doing (R37, R57). -/
inductive Status where
  | active
  | waiting (w : Wait)
  | stalled (w : Stall)
  | asleep
  | exited
  deriving DecidableEq, Repr

/-- A result of unfixed latency that has not returned to its registers (R109): what it will write and which flags it merges. -/
structure Pending where
  dst : List (Nat × W32)
  fl : BitVec 5
  /-- A load, which an exit discards (R145). -/
  load : Bool
  deriving DecidableEq, Repr

/-- How far a lane of a `pub` in flight has come (R252, R417): its guard reads false, its walk runs, it performed its store at an address
and a location, or it failed with a fault code, the cause of an XLAT, an address, a physical address and a detail word. -/
inductive PubRes where
  | skip | run
  | ok (va loc : Nat)
  | failed (code num va pa detail : Nat)
  deriving DecidableEq, Repr

/-- One thread (R35, R75, R347). Register n is entry n of `regs`; predicate n is bit n of `preds`. -/
structure Thread where
  regs : Tbl W32
  preds : BitVec 16
  pc : Addr
  flags : BitVec 5
  amax : W32
  nest : BitVec 4
  noStop : Bool
  sys : Bool
  status : Status
  /-- Barge number: 0 to 63 are home barges, higher ones were formed from basins. -/
  barge : Nat
  home : Bool
  pend : List Pending
  /-- When a wait with a timeout ends (R265, R287, R358). -/
  deadline : Option Nat
  /-- The timeout has come (R265). -/
  timedOut : Bool
  /-- A handler entry that waits for its frame's memory (R370): the record and RPC. -/
  entry : Option (BitVec 512 × Addr)
  /-- The PTEs at which the instruction it replays parked last (R331). -/
  lastPark : List Nat
  /-- It stands at a `brk` that stopped its context (R393). -/
  atBrk : Bool
  pub : Option PubRes
  /-- The tiles of which its accesses are ordered after a `tbw` of the current phase: bit t (R211). -/
  tiles : BitVec 64
  deriving DecidableEq, Repr

/-- A thread at residency (R35, R36), thread `tid` of a block whose record's CODE is `pc`. -/
def Thread.fresh (pc : Addr) (tid : Nat) : Thread :=
  { regs := [], preds := 0#16, pc, flags := 0#5, amax := 0#32, nest := 0#4, noStop := false, sys := false,
    status := .active, barge := tid / 16, home := true, pend := [], deadline := none, timedOut := false,
    entry := none, lastPark := [], atBrk := false, pub := none, tiles := 0#64 }

/-! ### Tile contexts -/

/-- A view binding (R44, R46): layout map, first register, first thread. -/
structure View where
  map : BitVec 2
  dreg : Nat
  tid0 : Nat
  deriving DecidableEq, Repr

/-- An active loop (R186): level, length of the body, index of the next bundle counted from its first, and the address of the
first. An index outside the body comes of a body skipped past the end (log 28). -/
structure Loop where
  level : Nat
  len : Nat
  idx : Int
  first : Addr
  deriving DecidableEq, Repr

/-- A weight bank (R175): columns of 640 bytes, laid out as in a block frame (R377). -/
abbrev Bank := Tbl (BitVec 5120)

/-- What an operation changes when it lands (R155). -/
inductive Effect where
  | k (r : KReg) (v : W64)
  | q (r : QReg) (v : Bool)
  /-- The bits of a stream register under a mask. -/
  | stream (s : SReg) (mask val : BitVec 256)
  /-- RPOS of a stream moves by n rows, modulo ROWS (log 28). -/
  | advance (s : SReg) (n : Int)
  /-- BASE of a stream moves by a number of bytes (log 28). -/
  | baseAdd (s : SReg) (v : W64)
  /-- A whole ring register (`cbi`). -/
  | ring (c : CReg) (val : BitVec 256)
  | ringFill (c : CReg) (n : W32)
  | ringEmpty (c : CReg) (n : W32)
  /-- Column `j` of physical bank `b`. -/
  | push (b : Bool) (j : Nat) (col : BitVec 5120)
  | swap
  | mask (rm cm : W32) (dc : BitVec 11)
  | mode (af wf : BitVec 4)
  /-- The X state of R377, of a snapshot entry that the handler has changed (R379). -/
  | xState (v : Nat)
  /-- The outputs of a beat for row `r` of tile `t`: (column, F32 pattern); added when `add`. -/
  | beat (add : Bool) (t r : Nat) (out : List (Nat × W32))
  /-- Words of tile `t`: index 34 r + c for element (r, c), with side word w at c = 32 + w. -/
  | tile (t : Nat) (out : List (Nat × W32))
  /-- The amax word of tile `t`, merged as a maximum. -/
  | amax (t : Nat) (v : W32)
  /-- Elements of view v: (row, column, pattern). -/
  | view (v : Nat) (out : List (Nat × Nat × Nat))
  /-- A posted memory write: virtual address, location and byte of each. -/
  | mem (out : List (Nat × Nat × Byte))
  deriving DecidableEq, Repr

/-- An operation in flight (R51, R155): when it lands, when and by which bundle and slot it was issued, what it changes and
which flags it merges. -/
structure Landing where
  at_ : Nat
  issued : Nat
  slot : Nat
  baddr : Addr
  eff : Effect
  fl : BitVec 5
  deriving DecidableEq, Repr

/-- Why a context takes no step (R52, R54, R306, R330). -/
inductive TileWait where
  | ring | tileBar | copy | drain | memRead | fence
  /-- Its `gret` has issued, and the lock ends once the writes of that bundle are acknowledged (R50, R222). -/
  | leaving
  | channel (ch : Nat)
  /-- The entry of a channel that came free is this context's, whose command is accepted next (R269). -/
  | granted (ch : Nat)
  | park (line : Nat)
  | parkNoMonitor (die : Nat)
  | remote (id : Nat)
  deriving DecidableEq, Repr

/-- The state of a tile context (R154). -/
structure Tile where
  k : Tbl W64
  q : BitVec 8
  s : Tbl (BitVec 256)
  c : Tbl (BitVec 256)
  n : Tbl W32
  loops : List Loop
  /-- Words of the loop buffer, by address (R186). -/
  lbuf : Tbl W32
  /-- The breakpoints at whose address a bundle stood in the loop buffer when they were armed (R387): bit n. -/
  exempt : BitVec 8
  /-- Bundles still to be passed over after a `floop` whose count is 0 (R186). -/
  skip : Nat
  held : Tbl W32
  af : BitVec 4
  wf : BitVec 4
  rm : W32
  cm : W32
  dc : BitVec 11
  pi : BitVec 5
  bank0 : Bank
  bank1 : Bank
  /-- Bank 1 is the active one. -/
  bankSel : Bool
  /-- Tile words: entry 2,048 t + 34 r + c; amax at 2,048 t + 1,200, KARR and CARR at + 1,201 and + 1,202. Entry + 1,203 is the
  model's own: bit 0 from an arrival of `ybar.arv` to the `ybar.wt` that observes its `tba`, bit 1 from a `tbw` to its `tba` (R211). -/
  acc : Tbl W32
  fflags : Tbl W64
  /-- The step at which FFLAGS4 captured the event that it holds, and the number of that event's command (R104). -/
  capt : Option (Nat × Nat)
  views : Tbl (Option View)
  /-- The next bundle. -/
  baddr : Addr
  step : Nat
  fly : List Landing
  /-- A taken branch: its target, the delay bundles still to issue (R185), and of `fcall` the link register and its issue
  step. -/
  delay : Option (Addr × Nat × Option (KReg × Nat × Addr))
  wait : Option TileWait
  /-- The PTE at which the access it replays parked last (R331). -/
  lastPark : Option Nat
  /-- Arrivals of `ybar.arv` that have not taken effect: tile, issue step, bundle (R183). -/
  arrivals : List (Nat × Nat × Addr)
  deriving DecidableEq, Repr

/-- A tile context at residency (R49, R154): mode bf16 × bf16, full masks, DC 1,024. -/
def Tile.fresh : Tile :=
  { k := [], q := 0#8, s := [], c := [], n := [], loops := [], lbuf := [], exempt := 0#8, skip := 0, held := [], af := 8#4, wf := 8#4,
    rm := 0xFFFFFFFF#32, cm := 0xFFFFFFFF#32, dc := 1024#11, pi := 0#5, bank0 := [], bank1 := [], bankSel := false,
    acc := [], fflags := [], capt := none, views := [], baddr := 0#56, step := 0, fly := [], delay := none, wait := none, lastPark := none,
    arrivals := [] }

/-- The open step of a snapshot freeze (R372): the bundle and its effective words by slot, the done mask, the fault record
(with SLOT and LATE in it), whether the fault came before any slot issued, and the operands as they stood at the step. -/
structure Freeze where
  baddr : Addr
  header : W32
  words : List (Nat × W32)
  done : BitVec 8
  record : BitVec 512
  early : Bool
  late : Bool
  /-- The step was opened by an `fbrk` or a breakpoint, not by a fault (R387, R393). -/
  brk : Bool
  tile : Tile
  viewRegs : List (Tbl W32)
  deriving DecidableEq, Repr

/-! ### Blocks -/

/-- The life of a block (R57). A block waits when it runs and `Block.waits` holds of it; retired blocks are dropped, and a
launched block is one that holds a saved frame. -/
inductive Life where
  | launched | resident | running | frozen | stopped | draining
  deriving DecidableEq, Repr

/-- An open window (R233, R285): the scratchpad offset of its 128 bytes and its single-writer bit. -/
structure Window where
  off : Nat
  sw : Bool
  deriving DecidableEq, Repr

/-- A block that has been resident and has not retired. -/
structure Block where
  /-- The accepted launch it belongs to, and its linear index (R299). -/
  launch : Nat
  lin : Nat
  bid : List W32
  core : Nat
  /-- Base lane cluster e (R33). -/
  lc : Nat
  slot : Nat
  owner : BitVec 19
  life : Life
  bsize : Nat
  nregs : Nat
  scrOff : Nat
  scrLen : Nat
  accTiles : Nat
  /-- The tile context it reserves: 0 primary, 1 secondary (R34). -/
  cx : Option Nat
  correction : Bool
  tag : BitVec 16
  serves : Option Nat
  prio : Nat
  cosched : Bool
  det : Bool
  windows : List Window
  /-- The gate address of the first arriving barge (R43). -/
  gate : Option Addr
  /-- The operand registers of that gate (R146). -/
  gateOps : Reg × Reg × Reg
  inLock : Bool
  killed : Bool
  /-- Pre-emption was requested, with DPBOUND as it stood and the cycle of the request (R55, R352). -/
  preempt : Option (Nat × Nat)
  since : Nat
  /-- A frame is saved in memory (R376). -/
  saved : Bool
  /-- The saved frame has the long form (R377). -/
  savedLong : Bool
  /-- The next number for a barge formed from a basin. -/
  nextBarge : Nat
  /-- The next filing number. -/
  nextFile : Nat
  /-- The number of the next command of its context, in order of acceptance (R171). -/
  nextCmd : Nat
  /-- Ring advances held back by an earlier command of the same ring (R171): command number, ring, slots, and the
  fill-pointer value of the first undefined slot when the command failed. -/
  ringHold : List (Nat × CReg × Nat × Option W32)
  threads : List Thread
  /-- What releases of its threads carry (R226, R227): of each object that orders them, the tiles of whose current phase a `tbw` came
  before the release (R211): bit t. -/
  syncs : Tbl (BitVec 64)
  tile : Tile
  freeze : Option Freeze
  /-- The debug stop took the block from this state (R57). -/
  stoppedFrom : Option Life
  deriving DecidableEq, Repr

/-! ### Copy channels, barriers, queue endpoints -/

/-- What a command copies, in the order of its pseudocode (R272). -/
inductive CmdKind where
  /-- `cpy`, `cpn`, `ccpn`: runs of (source, destination, bytes or elements). -/
  | nest (sb db : Nat) (len : Nat) (levels : List (Nat × Int × Int)) (cv : Option CopyCv)
  /-- `ccpy`: the two stream registers as at acceptance, and rows. -/
  | rows (src dst : BitVec 256) (n : Nat)
  /-- `cgath`: blocks b0 to b0 + nb - 1 of the block table of `src`, and the frequencies read at acceptance (R199). -/
  | gather (src dst : BitVec 256) (b0 nb : Nat) (freq : List Nat)
  /-- `cscat`. -/
  | scatter (src dst : BitVec 256) (b0 nb : Nat)
  deriving DecidableEq, Repr

/-- An accepted command of a copy channel that is not complete (R268-R272). -/
structure Cmd where
  id : W32
  /-- Its number in the block's order of acceptance. -/
  seq : Nat
  blk : Nat
  /-- Issued by the block's context, else by a thread. -/
  ctx : Bool
  tid : Nat
  scope : Scope
  kind : CmdKind
  sys : Bool
  baddr : Addr
  /-- Ring, number of slots, and fill-pointer value of the first assigned slot. -/
  ring : Option (CReg × Nat × W32)
  /-- Barrier credited at completion. -/
  bar : Option (BitVec 4)
  /-- Logical blocks of a gather or scatter already processed. -/
  next : Nat
  /-- Accesses already performed of a movement that a watchpoint hit has interrupted (R389). -/
  past : Nat
  /-- The step of its context at which it was accepted (R281). -/
  step : Nat
  /-- The address of the pool record as KVPOOL gave it at acceptance (R352). -/
  pool : Nat
  /-- The block-table entry whose page the command has pinned, with the location of the descriptor it pinned (R194). -/
  pins : List (Nat × Nat)
  /-- The bytes that its processed blocks have read and written: location and length (R272). -/
  rd : List (Nat × Nat)
  wr : List (Nat × Nat)
  finished : Bool
  faulted : Bool
  /-- A watchpoint hit has paused it until the context resumes (R389); it is not finished. -/
  paused : Bool
  /-- The address of the first assigned ring slot. -/
  slot0 : Nat
  fl : BitVec 5
  /-- The line it is parked on, and the PTE at which it parked last (R330, R331). -/
  parked : Option Nat
  lastPark : Option Nat
  deriving DecidableEq, Repr

/-- What a channel keeps for one issuer of one block (R268), and the flags of its completed converting commands that no wait
has observed (R102). -/
structure ChanRec where
  last : Option W32
  flt : Option (W32 × BitVec 512)
  /-- Completed commands whose flags await an observation: ID, thread (of a context: the command's number), bundle, flags. -/
  flags : List (W32 × Nat × Addr × BitVec 5)
  deriving DecidableEq, Repr

/-- A channel record at residency. -/
def ChanRec.empty : ChanRec := { last := none, flt := none, flags := [] }

/-- A copy channel (R268). Records are keyed by 2 × block + 1 for the context. -/
structure Chan where
  next : W32
  cb : W32
  cmds : List Cmd
  recs : Tbl ChanRec
  deriving DecidableEq, Repr

/-- A channel after device reset (R268). -/
def Chan.reset : Chan := { next := 1#32, cb := 0#32, cmds := [], recs := [] }

/-- A leaf barrier (R283, R284). -/
structure Leaf where
  owner : Option Nat
  exp : Nat
  clu : Bool
  rc : Nat
  cnt : Nat
  xb : Nat
  ab : Nat
  ph : Bool
  /-- The phase is complete and reported to the cluster root. -/
  reported : Bool
  deriving DecidableEq, Repr

/-- An unclaimed leaf. -/
def Leaf.empty : Leaf :=
  { owner := none, exp := 0, clu := false, rc := 0, cnt := 0, xb := 0, ab := 0, ph := false, reported := false }

/-- A queue endpoint (R235, R266). -/
structure Endpoint where
  owner : Option Nat
  opened : Bool
  gen : BitVec 4
  base : Nat
  esz : Nat
  nslot : Nat
  head : Nat
  tail : Nat
  deriving DecidableEq, Repr

/-- A closed endpoint that no block holds. -/
def Endpoint.empty : Endpoint :=
  { owner := none, opened := false, gen := 0#4, base := 0, esz := 0, nslot := 0, head := 0, tail := 0 }

/-- What a cache hint asks for a line of an L1 (R62, R150): nothing, to be retained, or to be the first evicted. -/
inductive LineMark where
  | plain | keep | first
  deriving DecidableEq, Repr

/-- A line of an L1 (R217, R218): its number, version tag, dirty mark, the mark of a hint and 128 bytes; of a dirty line, which bytes
its core has written since it was last clean, the others being as the home has them (log 81); and the reference tags of its 16 words
as of its fill (R241). -/
structure L1Line where
  line : Nat
  tag : Byte
  dirty : Bool
  mark : LineMark
  data : List Byte
  wr : BitVec 128
  refs : BitVec 16
  deriving DecidableEq, Repr

/-- An entry of a translation buffer (R328): the table it was read for, ASID, level, the address bits it covers, its PTE. -/
structure TlbEntry where
  asid : BitVec 16
  level : Nat
  vpn : Nat
  pte : W64
  /-- Where the PTE lies, for access counts. -/
  ptea : Nat
  deriving DecidableEq, Repr

/-- An entry of the block translation buffer (R191): its ASID, location, version tag and 16 bytes. -/
structure BtbEntry where
  asid : BitVec 16
  loc : Nat
  tag : Byte
  data : BitVec 128
  deriving DecidableEq, Repr

/-- A core (R16). -/
structure CoreSt where
  ver : Byte
  l1 : List L1Line
  tlb : List TlbEntry
  /-- The block translation buffer (R191). -/
  btb : List BtbEntry
  ticache : Tbl (Option W64)
  kicache : Tbl (Option W32)
  chans : Tbl Chan
  leaves : Tbl Leaf
  ends : Tbl Endpoint
  /-- Generation of each owner slot (R244). -/
  gens : Tbl (BitVec 4)
  /-- The context that issued the latest X operation, with its block (R19), and the context slot of that block. -/
  lastX : Option (Nat × Nat × Nat)
  part : Byte
  /-- When a block last became resident (R299). -/
  lastResident : Option Nat
  /-- The queue served last, per priority (R299); 63 at reset, so that queue 0 is first. -/
  served : Tbl Nat
  /-- Trace records written and dropped, per context slot (R396). -/
  trptr : Tbl W64
  trdrop : Tbl W64
  /-- Of the trace of context slot n, for unit u (R397): entry 16 n + u holds the boundary of the period at which it sampled last, in
  cycles, and the steps that the unit had taken then. -/
  sampled : Tbl (Nat × Nat)
  /-- The barges of each lane cluster by slot number (R303): entry 128 × cluster + slot holds block and barge. -/
  slots : Tbl (Option (Nat × Nat))
  /-- The slot that issued last on each lane cluster (R303); 127 at reset, so that slot 0 is first. -/
  lastSlot : Tbl Nat
  deriving DecidableEq, Repr

/-- A core at device reset. -/
def CoreSt.reset : CoreSt :=
  { ver := 0#8, l1 := [], tlb := [], btb := [], ticache := [], kicache := [], chans := [], leaves := [], ends := [], gens := [],
    lastX := none, part := 0xFF#8, lastResident := none, served := [], trptr := [], trdrop := [],
    sampled := [], slots := [], lastSlot := [] }

/-! ### Dies -/

/-- A walk of the reach walker (R251, R252): the `pub` it serves and how far it has come. -/
structure Walk where
  blk : Nat
  tid : Nat
  ticket : Nat
  ref : Nat
  /-- The destination: whether its page has OBJ = 1, its virtual address and the base reference. -/
  destObj : Bool
  va : Nat
  base : Nat
  /-- The checks of the destination have passed (R249). -/
  checked : Bool
  scope : Scope
  core : Nat
  slot : Nat
  sys : Bool
  /-- Objects whose headers it has marked busy: where the header was found, the old header, the numbers of the object's lines, and the
  reference; in the order of marking. -/
  marked : List (Nat × Nat × List Nat × Nat)
  /-- References still to be visited, the top first. -/
  stack : List Nat
  /-- Bytes in use in its part of the walk-stack region (R254). -/
  spill : Nat
  /-- It waits for the object at this location to be released (R252). -/
  blocked : Option Nat
  /-- Another walk has wounded it at this object (R252). -/
  wounded : Option Nat
  /-- Every object it reaches is marked (R252). -/
  ready : Bool
  suspended : Bool
  parked : Option Nat
  lastPark : Option Nat
  deriving DecidableEq, Repr

/-- A die. -/
structure Die where
  tlb : List TlbEntry
  /-- Monitored lines (R330). -/
  monitors : List Nat
  /-- Walk slots (R251). -/
  walks : Tbl (Option Walk)
  /-- Publications waiting for a free slot. -/
  walkQueue : List Walk
  ecc : W64
  deriving DecidableEq, Repr

/-- A die at device reset. -/
def Die.reset : Die := { tlb := [], monitors := [], walks := [], walkQueue := [], ecc := 0#64 }

/-! ### Contexts and the dispatcher -/

/-- A cast subscription (R287): handle, physical base of the copy, window bytes, and the cast-table entry's number. -/
structure Sub where
  handle : W32
  base : Nat
  size : Nat
  deriving DecidableEq, Repr

/-- A halt in progress (R393): when it began, and the barges (block, number) whose NOSTOP no longer defers it (R394). -/
structure Halt where
  since : Nat
  expired : List (Nat × Nat)
  deriving DecidableEq, Repr

/-- A context slot (R345-R351, R385). -/
structure Ctx where
  tvec : W64
  frameb : W64
  asid : BitVec 16
  ptroot : W64
  loaded : Bool
  killing : Bool
  part : BitVec 3
  dpbound : W32
  age : BitVec 16
  det : Bool
  kvpool : W64
  walkstk : W64
  casttb : W64
  /-- The cast table as deliveries and subscriptions know it (R343): its entries at the latest `tlbi` of the ASID; none for an address
  that does not exist. -/
  casts : List (Option (BitVec 128))
  dse : Bool
  halted : Bool
  halt : Option Halt
  /-- After a resumption with DCTL.STEP = 1: the units (block, barge number or 2^20 + context) that have issued since (R393). -/
  stepped : Option (List (Nat × Nat))
  dsel : BitVec 6
  dctl : BitVec 2
  dstat : BitVec 2
  bpa : Tbl W64
  bpc : Tbl W64
  wpa : Tbl W64
  wpc : Tbl W64
  stop : BitVec 512
  cntsel : BitVec 13
  trctl : W64
  trbase : W64
  /-- The cycle at which TRCTL was last written (R397). -/
  trsince : Nat
  subs : List Sub
  deriving DecidableEq, Repr

/-- Context slot n at device reset (R346-R351). -/
def Ctx.reset (n : Nat) : Ctx :=
  { tvec := 0#64, frameb := 0#64, asid := 0#16, ptroot := 0#64, loaded := false, killing := false, part := 0#3,
    dpbound := 4096#32, age := 64#16, det := true, kvpool := 0#64, walkstk := 0#64, casttb := 0#64, casts := [], dse := false,
    halted := false, halt := none, stepped := none, dsel := BitVec.ofNat 6 n, dctl := 0#2, dstat := 0#2, bpa := [], bpc := [], wpa := [],
    wpc := [], stop := 0#512, cntsel := 0#13, trctl := 0#64, trbase := 0#64, trsince := 0, subs := [] }

/-- A launch queue's register block (R292). -/
structure Queue where
  qbase : Addr
  log2sz : BitVec 5
  en : Bool
  src : Bool
  err : Bool
  asid : BitVec 16
  head : W32
  tail : W32
  deriving DecidableEq, Repr

/-- A launch queue at device reset (R292). -/
def Queue.reset : Queue :=
  { qbase := 0#56, log2sz := 0#5, en := false, src := false, err := false, asid := 0#16, head := 0#32, tail := 0#32 }

/-- An accepted launch (R294, R297): its record, its queue and index, whether it is released, which blocks have become
resident and how many have retired, and the placement table. -/
structure Launch where
  record : BitVec 1024
  queue : Nat
  idx : W32
  slot : Nat
  released : Bool
  /-- The cycle of its release (R297, R300). -/
  since : Nat
  started : List Nat
  retired : Nat
  pmap : Option (List Byte)
  deriving DecidableEq, Repr

/-! ### Host, fabric, boot -/

/-- A canal port (R410, R411). -/
structure Port where
  up : Bool
  missed : Nat
  deriving DecidableEq, Repr

/-- An access to memory of another device, the host or an expander: physical address, bytes, kind, and the bytes or operands it sends. -/
structure Away where
  pa : Nat
  len : Nat
  kind : AwayKind
  data : List Byte
  deriving DecidableEq, Repr
/-- An outstanding access of a block to another device, the host or an expander (R366, R410): the agent of the block that made it, the agent
that waits for it (none: a posted write, or an access whose instruction a fault has ended), what it asks, and when it was made. -/
structure Remote where
  id : Nat
  blk : Nat
  agent : Nat
  who : Option Nat
  port : Nat
  ask : Away
  /-- The flits of the request that no response has answered yet, which are the last of them. -/
  left : Nat
  /-- The bytes of the responses: what its home held. -/
  got : List Byte
  since : Nat
  /-- The response came, or the time for it is over. -/
  done : Bool
  failed : Bool
  deriving DecidableEq, Repr

/-- A flit sent on the fabric (R410). -/
inductive Flit where
  | castWrite (handle : W32) (off : Nat) (data : List Byte)
  | version (handle v : W32)
  | request (id port : Nat) (ask : Away)
  | response (port : Nat) (pa : Nat) (data : List Byte)
  | heartbeat (port : Nat)
  | subscribe (handle : W32)
  | unsubscribe (handle : W32)
  deriving DecidableEq, Repr

/-- A capability record (R409): basic and expert values, and the EXPERT bit. -/
structure Cap where
  basic : W64
  expert : W64
  sel : Bool
  deriving DecidableEq, Repr

/-- What the sensors of the module read (R416): its power in watts, each die's junction temperature, and the coolant's at the inlet and the
outlet, in degrees Celsius. -/
structure Sensors where
  power : Nat
  junction : List Nat
  inlet : Nat
  outlet : Nat
  deriving DecidableEq, Repr

/-! ### Turns -/

/-- One turn: an agent of the device, or an event of the opcode table. -/
inductive Turn where
  /-- A lane cluster's scheduler selects barge `key` of block `blk`. -/
  | barge (blk key : Nat)
  /-- The merge stage selects tile context `cx` of core `core`. -/
  | tile (core cx : Nat)
  | event (i : Instr)
  deriving DecidableEq, Repr

/-- Who issues the instruction that `exec` runs: lanes of a block (by thread), or a slot of a tile context. -/
structure Cursor where
  blk : Nat
  lanes : List Nat
  pc : Addr
  /-- The slot number of a slot word, with the address of its bundle and the header's scope. -/
  slot : Nat
  baddr : Addr
  scope : Scope
  /-- The slots a faulting bundle has recorded so far, lowest first: slot and fault record. -/
  tileFault : Option (Nat × BitVec 512)
  deriving DecidableEq, Repr

/-- The cursor when no unit is issuing. -/
def Cursor.idle : Cursor :=
  { blk := 0, lanes := [], pc := 0#56, slot := 0, baddr := 0#56, scope := .core, tileFault := none }

/-- The device. -/
structure State where
  mem : Memory
  /-- Reference tags, per aligned 8-byte word of DRAM (R241): entry pa / 8. -/
  tags : Tbl Bool
  /-- PRV and LOWN, per 128-byte line (R245): entry pa / 128 holds the core, plus 1. -/
  prv : Tbl Nat
  /-- Poison marks per 16-byte word (R383): 1 plus the number that R368 gives the unit that holds the marked word. -/
  poison : Tbl Nat
  /-- Uncorrectable errors not yet found, per 16-byte word (R383): 1 plus the number that R368 gives the unit where it will be found. -/
  bad : Tbl Nat
  /-- Uncorrectable errors not yet found in the register file of a thread of a block, or in the accumulator tiles, keeper state or weight
  banks of its context (R383): the block, and the thread if it is one. -/
  upsets : List (Nat × Option Nat)
  /-- Errors that ECC has corrected and the counts of their dies have still to take in (R382): the die of each. -/
  corrected : List Nat
  clock : Nat
  /-- Stall, step and array counters (R311, R385, R400), by `counterAt`. -/
  counters : Tbl W64
  /-- What each unit was charged last (R309, R310, R398), by 16 × core + unit: class, address, lanes issued or cycles in the class, and the
  context slot for which it issued, if it issued. -/
  charged : Tbl (Nat × Nat × Nat × Option Nat)
  ctxs : Tbl Ctx
  cntthr : BitVec 12
  nqbase : W64
  fqbase : W64
  queues : Tbl Queue
  launches : Tbl (Option Launch)
  nextLaunch : Nat
  blocks : Tbl (Option Block)
  nextBlock : Nat
  cores : Tbl CoreSt
  dies : Tbl Die
  /-- Leaves of each cluster's barriers that have reported (R284): entry 16 × cluster + barrier. -/
  roots : Tbl Nat
  faultWait : List (BitVec 512)
  vectors : BitVec 3
  /-- Held additions to access counts (R337): PTE address, virtual page and ASID. -/
  counts : List (Nat × Nat × BitVec 16)
  /-- PTEs whose crossing has been notified (R338). -/
  notified : List Nat
  fabricNum : Nat
  domain : Nat
  expanders : BitVec 16
  ports : Tbl Port
  flitsOut : List Flit
  /-- Cast writes and version advances of this device's windows that have not arrived in its own copies, oldest first (R238, R287). -/
  casting : List Flit
  remotes : List Remote
  /-- Where the dispatcher's and the frames' accesses last parked (R330, R331), by `Party.num`: the PTE, and whether its line has not been written
  since. -/
  parks : Tbl (Option (Nat × Bool))
  nextRemote : Nat
  caps : Tbl Cap
  /-- The nonce last written to capability 0x0006 (R415). -/
  nonce : BitVec 256
  /-- The MSI-X table, by 8-byte word (R407, log 23). -/
  msix : Tbl W64
  sensors : Sensors
  mailbox : BitVec 4
  fuseSvn : W32
  bootPending : Bool
  bootTries : Nat
  /-- The image that runs (R414): its digest, and its SVN. -/
  image : Option (BitVec 384 × W32)
  /-- The bytes of the latest attestation report (R415). -/
  report : Option (List Byte)
  throttled : Bool
  off : Bool
  hostData : Nat
  agenda : List Turn
  turn : Nat
  rr : Nat
  cur : Cursor
  free : Nat
  deriving DecidableEq, Repr

/-- The default port: up, no heartbeat missed (log 11). -/
def Port.reset : Port := { up := true, missed := 0 }
/-- Capability record `id` at device reset (R409, R416, log 23): the power cap of 0x0007 is 2,000 W, the domain of 0x0004 holds one device. -/
def Cap.reset (id : Nat) : Cap :=
  let v : W64 := if id = 7 then 2000#64 else if id = 4 then 0x10000#64 else 0#64
  { basic := v, expert := v, sel := false }

/-- The device right after reset (INVENTORY.md, State). -/
def State.reset : State :=
  { mem := [], tags := [], prv := [], poison := [], bad := [], upsets := [], corrected := [], clock := 0, counters := [], charged := [], ctxs := [], cntthr := 256#12, nqbase := 0#64,
    fqbase := 0#64, queues := [], launches := [], nextLaunch := 0, blocks := [], nextBlock := 0, cores := [], dies := [],
    roots := [], faultWait := [], vectors := 0#3, counts := [], notified := [], fabricNum := 0, domain := 1,
    expanders := 0#16, ports := [], flitsOut := [], casting := [], remotes := [], parks := [], nextRemote := 0, caps := [], nonce := 0#256, msix := [],
    sensors := { power := 0, junction := [0, 0, 0, 0], inlet := 0, outlet := 0 }, mailbox := 0#4,
    fuseSvn := 0#32, bootPending := true, bootTries := 0, image := none, report := none, throttled := false, off := false, hostData := 0,
    agenda := [], turn := 0, rr := 0, cur := Cursor.idle, free := 0 }

/-- Why a step stops the machine. -/
inductive Fault where
  /-- Raised by `step`: the module is shut down (20_system_recovery.md R416) and only a device reset starts it again. Safe. -/
  | shutDown
  deriving DecidableEq, Repr

/-- Why an instruction has no meaning in the model. -/
inductive Refusal where
  /-- Raised by an arm of `exec` whose instruction is not modelled. Safe. -/
  | notModelled (mnemonic : String)
  deriving DecidableEq, Repr

end Sys2Proof.Machine
end

