-- ==== Sys2Proof/Machine/Operands.lean ====
section
/-! DEFINITION. Operands of thread instructions: registers, pairs and predicates of one thread (03_encodings.md R64), the guard
(R60), and the one operation by which an instruction acts on its issued lanes (05_thread_instructions.md R108). -/

namespace Sys2Proof.Machine

/-- Register dn of a thread (R64). -/
def Thread.get (t : Thread) (r : Nat) : W32 := Tbl.get 0#32 t.regs r
/-- Register dn written. -/
def Thread.set (t : Thread) (r : Nat) (v : W32) : Thread := { t with regs := Tbl.put 0#32 t.regs r v }
/-- A pair: dn holds bits [31:0] and dn+1 bits [63:32] (R64). -/
def Thread.get64 (t : Thread) (r : Nat) : W64 := t.get (r + 1) ++ t.get r
/-- A pair written. -/
def Thread.set64 (t : Thread) (r : Nat) (v : W64) : Thread := (t.set r (v.setWidth 32)).set (r + 1) (v.extractLsb' 32 32)
/-- Consecutive registers written, the first value to the lowest. -/
def Thread.setRun (t : Thread) (r : Nat) (l : List W32) : Thread :=
  match l with
  | [] => t
  | v :: l => Thread.setRun (t.set r v) (r + 1) l
/-- Consecutive registers read. -/
def Thread.getRun (t : Thread) (r n : Nat) : List W32 := (List.range n).map fun i => t.get (r + i)

/-- Predicate pn; p0 reads true (R60). -/
def Thread.pred (t : Thread) (p : Pred) : Bool := p == 0#4 || t.preds.getLsbD p.toNat
/-- Predicate pn written; a write to p0 is discarded (R64). -/
def Thread.setPred (t : Thread) (p : Pred) (v : Bool) : Thread :=
  if p = 0#4 then t
  else { t with preds := (t.preds &&& ~~~(1#16 <<< p.toNat)) ||| ((BitVec.ofBool v).setWidth 16 <<< p.toNat) }
/-- A predicate and its complement; with PE = 0 there is no complement, and the complement is written last (R120). -/
def Thread.setPreds (t : Thread) (pd pe : Pred) (v : Bool) : Thread := (t.setPred pd v).setPred pe (!v)

/-- The guard of an instruction as this lane reads it (R60). -/
def Thread.guard (t : Thread) (g : Guard) : Bool := t.pred g.p != g.neg
/-- The thread at the next instruction. -/
def Thread.advance (t : Thread) : Thread := { t with pc := t.pc + 8#56 }

/-- A block of the device. -/
def State.block (s : State) (b : Nat) : Option Block := Tbl.get none s.blocks b
/-- A block changed; a number that names no block changes nothing. -/
def State.modBlock (s : State) (b : Nat) (f : Block → Block) : State :=
  match s.block b with
  | none => s
  | some x => { s with blocks := Tbl.put none s.blocks b (some (f x)) }
/-- A block written. -/
def State.putBlock (s : State) (b : Nat) (x : Option Block) : State := { s with blocks := Tbl.put none s.blocks b x }
/-- A thread of a block. -/
def State.thread (s : State) (b tid : Nat) : Option Thread := (s.block b).bind (·.threads[tid]?)
/-- A thread of a block changed. -/
def State.modThread (s : State) (b tid : Nat) (f : Thread → Thread) : State :=
  s.modBlock b fun x => { x with threads := x.threads.modify tid f }

/-- A block with f applied to each issued lane and every other thread as it was. -/
def Block.onLanes (b : Block) (lanes : List Nat) (f : Nat → Thread → Thread) : Block :=
  { b with threads := b.threads.mapIdx fun tid t => if lanes.contains tid then f tid t else t }

/-- An instruction's effect on its issued lanes: each lane reads the state as it stood at issue (R108). -/
def State.onLanes (s : State) (f : Nat → Thread → Thread) : State := s.modBlock s.cur.blk fun b => b.onLanes s.cur.lanes f

/-- The effect of an instruction that goes on to the next one: lanes whose guard reads true have f applied, and every issued
lane advances (R60, R108). -/
def State.lanes (s : State) (g : Guard) (f : Nat → Thread → Thread) : State :=
  s.onLanes fun tid t => if t.guard g then (f tid t).advance else t.advance

/-- The issued lanes whose guard reads true, lowest first (R60). -/
def State.active (s : State) (g : Guard) : List Nat :=
  match s.block s.cur.blk with
  | none => []
  | some b => s.cur.lanes.filter fun tid =>
    match b.threads[tid]? with
    | none => false
    | some t => t.guard g

/-- The next undefined value (00_scope.md R11): a free value, by the counter of the state (log 6). -/
def State.fresh (s : State) (w : Nat) : BitVec w × State := (Config.freeBits s.free w, { s with free := s.free + 1 })

end Sys2Proof.Machine
end

