-- ==== Sys2Proof/Machine/Mem.lean ====
section
/-! DEFINITION. Memory by location (01_machine.md R21-R24, 14_isolation.md R321): bytes at their homes, little-endian words, the
L1 of each core (09_memory_model.md R216-R220), poison marks (17_faults_preemption.md R383) and park monitors (R331).

A location is a number: a 52-bit physical address, or 2^52 + 2^20 × core + offset for a scratchpad byte (log 2). -/

namespace Sys2Proof.Machine

/-- The first location of the scratchpads. -/
def scrBase : Nat := 4503599627370496
/-- The location of a scratchpad byte of a core. -/
def scrLoc (core off : Nat) : Nat := scrBase + 1048576 * core + off
/-- A location in a scratchpad. -/
def isScr (loc : Nat) : Bool := scrBase ≤ loc
/-- The region bits [51:49] of a physical address (R321). -/
def paRegion (pa : Nat) : Nat := pa / 2 ^ 49 % 8
/-- The die that is home of a physical address of region 0b000 (R24). -/
def paDie (pa : Nat) : Nat := pa / 2 ^ 37 % 4
/-- An address of this device's DRAM (R24). -/
def paDram (pa : Nat) : Bool := pa / 2 ^ 39 == 0 && pa % 2 ^ 37 < 0x1200000000

/-- n bytes as a number, least significant first (00_scope.md R5). -/
def leNat (l : List Byte) : Nat :=
  match l with
  | [] => 0
  | b :: l => b.toNat + 256 * leNat l
/-- The n bytes of a number, least significant first. -/
def leBytes (n v : Nat) : List Byte :=
  match n with
  | 0 => []
  | n + 1 => BitVec.ofNat 8 v :: leBytes n (v / 256)

/-- A byte at its home. -/
def State.byte (s : State) (loc : Nat) : Byte := Tbl.get 0#8 s.mem loc
/-- Bytes at their homes. -/
def State.bytes (s : State) (loc n : Nat) : List Byte := (List.range n).map fun i => s.byte (loc + i)
/-- A little-endian number at its home. -/
def State.word (s : State) (loc n : Nat) : Nat := leNat (s.bytes loc n)

/-- A core of the device. -/
def State.core (s : State) (c : Nat) : CoreSt := Tbl.get CoreSt.reset s.cores c
/-- A core changed. -/
def State.modCore (s : State) (c : Nat) (f : CoreSt → CoreSt) : State :=
  { s with cores := Tbl.put CoreSt.reset s.cores c (f (s.core c)) }
/-- A die of the device. -/
def State.die (s : State) (d : Nat) : Die := Tbl.get Die.reset s.dies d
/-- A die changed. -/
def State.modDie (s : State) (d : Nat) (f : Die → Die) : State := { s with dies := Tbl.put Die.reset s.dies d (f (s.die d)) }
/-- A context slot. -/
def State.ctx (s : State) (n : Nat) : Ctx := Tbl.get (Ctx.reset n) s.ctxs n
/-- A context slot changed. -/
def State.modCtx (s : State) (n : Nat) (f : Ctx → Ctx) : State :=
  { s with ctxs := Tbl.put (Ctx.reset n) s.ctxs n (f (s.ctx n)) }

/-- Bytes stored, from the lowest. -/
def writeBytes (m : Memory) (loc : Nat) (l : List Byte) : Memory :=
  match l with
  | [] => m
  | b :: l => writeBytes (Tbl.put 0#8 m loc b) (loc + 1) l

/-- The 16-byte words that a range touches, and those it covers whole. -/
def words16 (loc n : Nat) : List Nat := (List.range (n / 16 + 2)).map (loc / 16 + ·) |>.filter fun w => w * 16 < loc + n
/-- The 16-byte words that a range covers whole. -/
def wholeWords16 (loc n : Nat) : List Nat := (words16 loc n).filter fun w => loc ≤ w * 16 && w * 16 + 16 ≤ loc + n

/-- A write of whole 16-byte words clears their poison marks and the errors in them; a partial write leaves a mark set (R383). -/
def State.clearPoison (s : State) (loc n : Nat) : State :=
  (wholeWords16 loc n).foldl
    (fun s w => { s with poison := Tbl.put 0 s.poison w 0, bad := Tbl.put 0 s.bad w 0 }) s

/-- A write disarms the monitor of the line it performs on; its parked accesses are then due to wake (R331). -/
def State.disarm (s : State) (loc n : Nat) : State :=
  if isScr loc || paRegion loc != 0 then s
  else s.modDie (paDie loc) fun d =>
    { d with monitors := d.monitors.filter fun l => !(loc / 128 ≤ l && l ≤ (loc + n - 1) / 128) }

/-- A window that this device produces (R343): handle, base and bytes. -/
structure CastWin where
  handle : W32
  base : Nat
  size : Nat
  deriving DecidableEq, Repr

/-- An entry of a cast table from its 16 bytes (R343): handle, PROD, SUB, Z in bytes and PBASE; none when it is not valid. -/
def castEntry (fabricNum v : Nat) : Option (W32 × Bool × Bool × Nat × Nat) :=
  let prod := v / 2 ^ 33 % 2 == 1
  if v / 2 ^ 32 % 2 == 0 || v / 2 ^ 35 % 32 != 0 || v / 2 ^ 55 % 512 != 0 || v / 2 ^ 116 != 0 ||
      (prod && v / 2 ^ 22 % 1024 != fabricNum) then none
  else some (BitVec.ofNat 32 v, prod, v / 2 ^ 34 % 2 == 1, v / 2 ^ 40 % 2 ^ 15 * 4096, v / 2 ^ 64 % 2 ^ 52)

/-- The entries of the cast table that CASTTB names, as they stand in memory (R343); none where R321 refuses the address. -/
def State.readCasts (s : State) (c : Ctx) : List (Option (BitVec 128)) :=
  let base := c.casttb.toNat % 2 ^ 52
  (List.range (c.casttb.toNat / 2 ^ 56 % 128)).map fun i =>
    if paDram (base + 16 * i) then some (BitVec.ofNat 128 (s.word (base + 16 * i) 16)) else none
/-- The valid entries of a context's cast table, as of the latest `tlbi` of its ASID (R343). -/
def State.castTable (s : State) (c : Ctx) : List (W32 × Bool × Bool × Nat × Nat) :=
  c.casts.filterMap fun e => e.bind fun v => castEntry s.fabricNum v.toNat
/-- The windows that a context's table says this device produces. -/
def State.produced (s : State) (c : Ctx) : List CastWin :=
  (s.castTable c).filterMap fun e => if e.2.1 then some { handle := e.1, base := e.2.2.2.2, size := e.2.2.2.1 } else none

/-- The bytes of a write that lie in a range: the offset of the first in the range, and the bytes. -/
def clip (loc : Nat) (l : List Byte) (base size : Nat) : Option (Nat × List Byte) :=
  let a := Nat.max loc base
  let e := Nat.min (loc + l.length) (base + size)
  if a < e then some (a - base, (l.drop (a - loc)).take (e - a)) else none

/-- The parts of n bytes that travel in one flit each, whose payload is 232 bytes (R410): offset and length. -/
def flitParts (n : Nat) : List (Nat × Nat) := (List.range ((n + 231) / 232)).map fun k => (232 * k, Nat.min 232 (n - 232 * k))
/-- What the fabric is given when a write performs in a produced window (R286, R238): a version advance for the version word, a
cast write for the data part. -/
def castFlits (w : CastWin) (loc : Nat) (l : List Byte) : List Flit :=
  (match clip loc l w.base 4 with
    | some (0, bs) => if bs.length = 4 then [.version w.handle (BitVec.ofNat 32 (leNat bs))] else []
    | _ => []) ++
  (match clip loc l (w.base + 128) (w.size - 128) with
    | some (o, bs) => (flitParts bs.length).map fun x => .castWrite w.handle (o + 128 + x.1) ((bs.drop x.1).take x.2)
    | none => [])

/-- A flit of the fabric goes to a copy on this device too (R287). -/
def State.hasCopy (s : State) (f : Flit) : Bool :=
  match f with
  | .castWrite h _ _ | .version h _ => s.ctxs.any fun e => e.2.subs.any fun x => x.handle == h
  | .request _ _ _ | .response _ _ _ | .heartbeat _ | .subscribe _ | .unsubscribe _ => false
/-- The next port that is up (R411), by which flits leave: each of a device's ports reaches every other device (log 12). -/
def State.route (s : State) : Option Nat := (List.range 18).find? fun n => (Tbl.get Port.reset s.ports n).up
/-- The flits of a list that leave: none when no port is up (R411). -/
def State.sent (s : State) (l : List Flit) : List Flit := if s.route.isSome then l else []
/-- A write that performs at the home (R216): the bytes, the poison marks, the monitors, delivery to cast subscribers, and a PTE whose ACNT it
leaves below CNTTHR, which may be notified again (R338). -/
def State.store (s : State) (loc : Nat) (l : List Byte) : State :=
  if l = [] then s
  else
    let f := s.ctxs.flatMap fun e => (s.produced e.2).flatMap fun w => castFlits w loc l
    let s1 := ({ s with mem := writeBytes s.mem loc l }).clearPoison loc l.length
    { s1.disarm loc l.length with
      flitsOut := s.flitsOut ++ s.sent f
      casting := s.casting ++ f.filter s.hasCopy
      notified := s1.notified.filter fun a => !(a < loc + l.length && loc < a + 8 && s1.word a 8 / 2 ^ 52 % 4096 < s1.cntthr.toNat) }

/-! ### The L1 -/

/-- The L1 of a core may hold a location: DRAM of the core's own die (R216). -/
def l1May (core loc : Nat) : Bool := !isScr loc && paRegion loc == 0 && paDie loc == core / 96
/-- The line of an L1 that serves a location: dirty, or clean with the tag that VER holds (R218). -/
def CoreSt.hit (c : CoreSt) (loc : Nat) : Option L1Line :=
  c.l1.find? fun l => l.line == loc / 128 && (l.dirty || l.tag == c.ver)
/-- A location is private to a core: PRV = 1 and LOWN names it (R245). -/
def State.ownedBy (s : State) (core loc : Nat) : Bool := !isScr loc && Tbl.get 0 s.prv (loc / 128) == core + 1

/-- A word kept by an instruction cache of n words (R16), which a word too many empties first: what the caches keep is left open
(log 9). -/
def holdWord {α : Type} [DecidableEq α] (n : Nat) (t : Tbl (Option α)) (k : Nat) (w : α) : Tbl (Option α) :=
  Tbl.put none (if t.length < n then t else []) k (some w)
/-- A line holds a byte of a location that its core has written and its home has not (R217). -/
def L1Line.holds (l : L1Line) (loc : Nat) : Bool := l.line == loc / 128 && l.dirty && l.wr.getLsbD (loc % 128)
/-- Bytes of a line; of a dirty one, those that its core has not written are the home's (log 81). -/
def State.lineBytes (s : State) (l : L1Line) (loc n : Nat) : List Byte :=
  (List.range n).map fun i =>
    if l.dirty && !l.wr.getLsbD (loc % 128 + i) then s.byte (loc + i) else l.data.getD (loc % 128 + i) 0#8
/-- Byte i of a line lies in a range. -/
def L1Line.within (l : L1Line) (loc n i : Nat) : Bool := loc ≤ 128 * l.line + i && 128 * l.line + i < loc + n
/-- A line with the bytes of a range that lie in it written. -/
def L1Line.write (l : L1Line) (loc : Nat) (bs : List Byte) : L1Line :=
  { l with data := l.data.mapIdx fun i b => if l.within loc bs.length i then bs.getD (128 * l.line + i - loc) 0#8 else b }
/-- The bytes of a line that lie in a range, as a mask. -/
def L1Line.cover (l : L1Line) (loc n : Nat) : BitVec 128 :=
  (List.range 128).foldl (fun m i => if l.within loc n i then m ||| 1#128 <<< i else m) 0#128
/-- The bytes that a core has written in a dirty line, as runs: location and bytes, from the lowest. -/
def dirtyRuns (at_ : Nat) : List (Option Byte) → List (Nat × List Byte)
  | [] => []
  | none :: l => dirtyRuns (at_ + 1) l
  | some b :: l =>
    match dirtyRuns (at_ + 1) l with
    | (a, bs) :: r => if a = at_ + 1 then (at_, b :: bs) :: r else (at_, [b]) :: (a, bs) :: r
    | [] => [(at_, [b])]
/-- What a write-back of a line writes. -/
def L1Line.runs (l : L1Line) : List (Nat × List Byte) :=
  dirtyRuns (128 * l.line) (l.data.mapIdx fun i b => if l.wr.getLsbD i then some b else none)

/-- The lines that an L1 of 128 KiB holds (R16, R27). -/
def l1Lines : Nat := 1024
/-- The clean line that makes room for another, the newest line being the first of the list: one that a hint marks as the first to be
evicted, else one that a bump of VER has made invalid, else the oldest that no hint retains, else the oldest. The manual gives no rule of
replacement beyond the hints: this order is the model's choice (log 64). -/
def CoreSt.victim (c : CoreSt) (l : List L1Line) : Option L1Line :=
  let clean := l.reverse.filter fun x => !x.dirty
  (clean.find? fun x => x.mark == .first).orElse fun _ => (clean.find? fun x => x.tag != c.ver).orElse fun _ =>
    (clean.find? fun x => x.mark != .keep).orElse fun _ => clean.head?
/-- A line filled from its home, with VER's value as its tag; any stale line of the same number goes (R218). In a full L1 it takes the
place of a clean line; where 1,024 lines are dirty it is not held (log 64). -/
def CoreSt.fill (c : CoreSt) (line : Nat) (data : List Byte) (refs : BitVec 16) (dirty : Bool) (mark : LineMark) : CoreSt :=
  let rest := c.l1.filter fun l => l.line != line
  let new : L1Line := { line, tag := c.ver, dirty, mark, data, wr := 0#128, refs }
  if rest.length < l1Lines then { c with l1 := new :: rest }
  else match c.victim rest with
    | none => { c with l1 := rest }
    | some v => { c with l1 := new :: rest.filter fun l => l.line != v.line || l.dirty }

/-- The bytes an access of a core reads (R217, R218): from a valid line of its L1, else from the home. -/
def State.loadBytes (s : State) (core loc n : Nat) : List Byte :=
  if l1May core loc then
    match (s.core core).hit loc with
    | some l => s.lineBytes l loc n
    | none => s.bytes loc n
  else s.bytes loc n
/-- The reference tags of the 16 words of a line at its home (R241). -/
def State.lineRefs (s : State) (line : Nat) : BitVec 16 :=
  (List.range 16).foldl (fun m i => if Tbl.get false s.tags (16 * line + i) then m ||| 1#16 <<< i else m) 0#16
/-- The line of a location filled into a core's L1 from its home. -/
def State.fillLine (s : State) (core loc : Nat) (dirty : Bool) (mark : LineMark) : State :=
  s.modCore core fun c => c.fill (loc / 128) (s.bytes (loc / 128 * 128) 128) (s.lineRefs (loc / 128)) dirty mark
/-- The mark of a held line. -/
def State.markLine (s : State) (core loc : Nat) (m : LineMark) : State :=
  s.modCore core fun c => { c with l1 := c.l1.map fun x => if x.line == loc / 128 then { x with mark := m } else x }
/-- The mark that a hint leaves on the line it names (R62, R150); none where it allocates nothing in L1. -/
def hintMark : Hint → Option LineMark
  | .none => some .plain
  | .keep => some .keep
  | .strm => some .first
  | .nol1 => none
/-- What a read leaves in the L1: the fill of one that misses, and the mark of its hint (R62). -/
def State.afterLoad (s : State) (core loc : Nat) (hint : Hint) : State :=
  match hintMark hint with
  | none => s
  | some m =>
    if l1May core loc then
      match (s.core core).hit loc with
      | some _ => if m = .plain then s else s.markLine core loc m
      | none => s.fillLine core loc false m
    else s
/-- A clean line of a core's L1 is dropped: an agent of the core has read or written the location at its home (R220, R225). -/
def State.dropClean (s : State) (core loc : Nat) : State :=
  s.modCore core fun c => { c with l1 := c.l1.filter fun x => x.line != loc / 128 || x.dirty }

/-- Held block-table entries that a write of this core touches are dropped (R191). -/
def CoreSt.dropBtb (c : CoreSt) (loc n : Nat) : CoreSt :=
  { c with btb := c.btb.filter fun e => !(e.loc < loc + n && loc < e.loc + 16) }

/-- A core's L1 with the line of a location that is private to it: filled dirty when it is not held (R217). -/
def State.ownLine (s : State) (core loc : Nat) : State :=
  match (s.core core).hit loc with
  | some _ => s
  | none => s.fillLine core loc true .plain
/-- A write into a line that the L1 holds dirty overwrites the errors of the whole words it covers there (R383). -/
def State.clearHeld (s : State) (loc n : Nat) : State :=
  (wholeWords16 loc n).foldl (fun s w => if Tbl.get 0 s.bad w = 4 then { s with bad := Tbl.put 0 s.bad w 0 } else s) s
/-- A store of a core's agent (R217): write-through and at the home, updating the line if the L1 holds it; or, to a line
private to this core, write-back in its L1, which a full L1 evicts at once (log 64). -/
def State.storeBytes (s : State) (core loc : Nat) (l : List Byte) : State :=
  if l = [] then s
  else if l1May core loc then
    if s.ownedBy core loc then
      let s1 := s.ownLine core loc
      match (s1.core core).hit loc with
      | some _ => (s1.clearHeld loc l.length).modCore core fun c =>
        { (c.dropBtb loc l.length) with
          l1 := c.l1.map fun x =>
            if x.line == loc / 128 then
              { x.write loc l with dirty := true, wr := (if x.dirty then x.wr else 0#128) ||| x.cover loc l.length }
            else x }
      | none => (s1.modCore core fun c => c.dropBtb loc l.length).store loc l
    else
      (s.modCore core fun c =>
        { (c.dropBtb loc l.length) with l1 := c.l1.map fun x => if x.line == loc / 128 then x.write loc l else x }).store loc l
  else s.store loc l

/-- What a store's hint asks of its line (R62): one that the L1 holds is marked. `.nol1` asks nothing more, since a store allocates no line but a
private one (R217). -/
def State.storeHint (s : State) (core loc : Nat) (hint : Hint) : State :=
  match hint with
  | .keep => s.markLine core loc .keep
  | .strm => s.markLine core loc .first
  | .none | .nol1 => s

/-- Bytes stored run by run at their home. -/
def State.storeRuns (s : State) (l : List (Nat × List Byte)) : State := l.foldl (fun s x => s.store x.1 x.2) s
/-- A dirty line of a core written back to its home and kept clean, with the tag of its fill (R217, R218, R220): the bytes that the core
has written are stored, and the line has the home's for the others (log 81). -/
def State.writeBack (s : State) (core line : Nat) : State :=
  match (s.core core).l1.find? fun l => l.line == line && l.dirty with
  | none => s
  | some l =>
    let data := s.lineBytes l (line * 128) 128
    (s.modCore core fun c =>
      { c with l1 := c.l1.map fun x =>
          if x.line == line && x.dirty then { x with dirty := false, wr := 0#128, data, refs := s.lineRefs line } else x }).storeRuns l.runs
/-- The home obtains a private line from its owner's L1 before an engine or an atomic reads it (R220). -/
def State.fetchHome (s : State) (loc : Nat) : State :=
  if isScr loc then s
  else
    match Tbl.get 0 s.prv (loc / 128) with
    | 0 => s
    | c + 1 => s.writeBack c (loc / 128)

/-- A byte as its home reads it (R220): one of a private line that its owner's L1 holds dirty comes from there. -/
def State.homeByte (s : State) (loc : Nat) : Byte :=
  match if isScr loc then 0 else Tbl.get 0 s.prv (loc / 128) with
  | 0 => s.byte loc
  | c + 1 =>
    match (s.core c).l1.find? fun l => l.line == loc / 128 && l.dirty with
    | none => s.byte loc
    | some l => if l.wr.getLsbD (loc % 128) then l.data.getD (loc % 128) 0#8 else s.byte loc
/-- Bytes as their homes read them. -/
def State.homeBytes (s : State) (loc n : Nat) : List Byte := (List.range n).map fun i => s.homeByte (loc + i)
/-- The home obtains every private line that a range touches (R220). -/
def State.fetchRange (s : State) (loc n : Nat) : State :=
  (List.range (n / 128 + 2)).foldl (fun s i => if (loc / 128 + i) * 128 < loc + n then s.fetchHome ((loc / 128 + i) * 128) else s) s

/-- A write at the home by an engine or an atomic of a core: every line of the issuing core's L1 that it touches is updated (R216, R220). -/
def State.homeStore (s : State) (core loc : Nat) (l : List Byte) : State :=
  if l = [] then s
  else
    ((s.fetchRange loc l.length).modCore core fun c =>
      { (c.dropBtb loc l.length) with l1 := c.l1.map fun x => x.write loc l }).store loc l

/-- VER advances at an acquire of cluster scope or wider; when it wraps, every clean line goes, every dirty line is retagged to 0, and
the held block-table entries go as clean lines do (R218, R219, R191). -/
def CoreSt.bumpVer (c : CoreSt) : CoreSt :=
  let v := c.ver + 1#8
  if v = 0#8 then { c with ver := v, l1 := (c.l1.filter (·.dirty)).map fun l => { l with tag := 0#8 }, btb := [] } else { c with ver := v }
/-- An acquire of a core's agent at a scope: block and core scope leave VER unchanged (R218). -/
def State.acquire (s : State) (core : Nat) (sc : Scope) : State :=
  match sc with
  | .block | .core => s
  | .cluster | .die | .device | .system | .fabric => s.modCore core CoreSt.bumpVer
/-- The acquires of n agents of a core, as of the lanes of an instruction (R218, R223). -/
def State.acquires (s : State) (core : Nat) (sc : Scope) : Nat → State
  | 0 => s
  | n + 1 => (s.acquires core sc n).acquire core sc

/-- The owner of a private line has written all of a 16-byte word, and its home has not: the home's word is not read (R217). -/
def State.overlaid (s : State) (w : Nat) : Bool :=
  match if isScr (16 * w) then 0 else Tbl.get 0 s.prv (w / 8) with
  | 0 => false
  | c + 1 => (List.range 16).all fun i => (s.core c).l1.any fun l => l.holds (16 * w + i)
/-- A word is poisoned for its readers: its mark is set, and a dirty line does not hold all of it anew (R383). -/
def State.poisonedWord (s : State) (w : Nat) : Bool := Tbl.get 0 s.poison w != 0 && !s.overlaid w
/-- A word has an uncorrectable error that no reader has found: in a dirty line, or at its home where its readers meet it (R383). -/
def State.badWord (s : State) (w : Nat) : Bool :=
  Tbl.get 0 s.bad w != 0 && (Tbl.get 0 s.bad w == 4 || !s.overlaid w)
/-- A location holds poisoned bytes in a range (R383). -/
def State.poisoned (s : State) (loc n : Nat) : Bool := (words16 loc n).any s.poisonedWord
/-- A range holds an uncorrectable error that no reader has found (R383). -/
def State.badRange (s : State) (loc n : Nat) : Bool := (words16 loc n).any s.badWord
/-- A poison mark of a word, with the unit that holds it (R368): a scratchpad, else the unit named. -/
def State.setPoison (s : State) (w unit : Nat) : State :=
  { s with poison := Tbl.put 0 s.poison w (if isScr (16 * w) then 3 else unit + 1) }
/-- The words of an uncorrectable error become poisoned at their homes when a reader finds it (R383): in L2 where it was found there,
else in DRAM or the scratchpad. -/
def State.poisonBad (s : State) (loc n : Nat) : State :=
  (words16 loc n).foldl
    (fun s w => if Tbl.get 0 s.bad w ≠ 0 then
      { s.setPoison w (if Tbl.get 0 s.bad w = 2 then 1 else 0) with bad := Tbl.put 0 s.bad w 0 } else s) s

/-- The reference tag of a word of DRAM (R241). -/
def State.tag (s : State) (loc : Nat) : Bool := Tbl.get false s.tags (loc / 8)
/-- The reference tag of a word as an agent of a core reads it: with the data, of the line of its L1 that serves it (R218, R249). -/
def State.tagSeen (s : State) (core loc : Nat) : Bool :=
  if l1May core loc then
    match (s.core core).hit loc with
    | some l => if l.dirty then s.tag loc else l.refs.getLsbD (loc % 128 / 8)
    | none => s.tag loc
  else s.tag loc
/-- A reference tag written at its home. -/
def State.setTag (s : State) (loc : Nat) (v : Bool) : State := { s with tags := Tbl.put false s.tags (loc / 8) v }
/-- A reference tag written by an agent of a core: a line of its L1 follows, as it does the data (R217, R220). -/
def State.writeTag (s : State) (core loc : Nat) (v : Bool) : State :=
  (s.setTag loc v).modCore core fun c =>
    { c with l1 := c.l1.map fun x =>
        if x.line == loc / 128 then
          { x with refs := (x.refs &&& ~~~(1#16 <<< (loc % 128 / 8))) ||| (BitVec.ofBool v).setWidth 16 <<< (loc % 128 / 8) }
        else x }
/-- Some word that a range touches has its tag set. -/
def State.anyTag (s : State) (loc n : Nat) : Bool :=
  ((List.range (n / 8 + 2)).map (loc / 8 + ·)).any fun w => w * 8 < loc + n && Tbl.get false s.tags w

end Sys2Proof.Machine
end

