-- ==== Sys2Proof/Machine/Tracing.lean ====
section
/-! DEFINITION. Trace records (18_observation.md R396, R397): when a context traces, and where a core's records go. -/

namespace Sys2Proof.Machine

/-- What a Burhal record holds (R397), besides its core and the time. -/
structure Trace where
  /-- TYPE: 1 lane-cluster sample, 2 context sample, 3 array class, 4 fault or trap, 5 stop, 6 copy completion. -/
  typ : Nat
  slot : Nat
  info : Nat
  unit : Nat
  addr : Nat
  info2 : Nat
  /-- The cycle of the event, if it is not the present one. -/
  time : Option Nat := none
  deriving DecidableEq, Repr

/-- The 16 bytes of a record (R397). -/
def Trace.bits (t : Trace) (core clock : Nat) : Nat :=
  t.typ % 16 + t.slot % 16 * 2 ^ 4 + t.info % 256 * 2 ^ 8 + core % 512 * 2 ^ 16 + t.unit % 8 * 2 ^ 25 + clock % 2 ^ 32 * 2 ^ 32 +
    t.addr % 2 ^ 56 * 2 ^ 64 + t.info2 % 256 * 2 ^ 120

/-- EN and the mask bit of a record's TYPE in TRCTL (R396). -/
def Ctx.traces (c : Ctx) (typ : Nat) : Bool := c.trctl.getLsbD 0 && c.trctl.getLsbD (typ + 1)
/-- LOG2P of TRCTL. -/
def Ctx.log2p (c : Ctx) : Nat := (c.trctl.extractLsb' 32 4).toNat
/-- PERIOD of TRCTL. -/
def Ctx.period (c : Ctx) : Nat := (c.trctl.extractLsb' 16 16).toNat

/-- Records of a core written for a context slot since EN was last set (R385). -/
def CoreSt.trCount (c : CoreSt) (slot : Nat) : W64 := Tbl.get 0#64 c.trptr slot

/-- A record written at its home, or, with its part full and WRAP = 0, dropped and counted (R396). Bytes that no DRAM answers for
are lost. -/
def State.writeTrace (s : State) (slot core : Nat) (t : Trace) : State :=
  let c := s.ctx slot
  let size := 2 ^ (8 + c.log2p)
  let n := ((s.core core).trCount slot).toNat
  if size ≤ n && !c.trctl.getLsbD 1 then
    s.modCore core fun k => { k with trdrop := Tbl.modify 0#64 k.trdrop slot (· + 1#64) }
  else
    let a := c.trbase.toNat + core * 2 ^ (12 + c.log2p) + 16 * (n % size)
    (if paDram a then s.store a (leBytes 16 (t.bits core (t.time.getD s.clock))) else s).modCore core fun k =>
      { k with trptr := Tbl.modify 0#64 k.trptr slot (· + 1#64) }
/-- A record of a context's unit, when the context traces its TYPE. -/
def State.trace (s : State) (slot core : Nat) (t : Trace) : State := if (s.ctx slot).traces t.typ then s.writeTrace slot core t else s

/-- What a unit was charged last: class, address of the barge or bundle, lanes issued or cycles in the class, and the context slot for which
it issued. An array is without command at first (R398). -/
def State.chargedLast (s : State) (core unit : Nat) : Nat × Nat × Nat × Option Nat :=
  Tbl.get (if unit = 10 then (4, 0, 0, none) else (0, 0, 0, none)) s.charged (16 * core + unit)
/-- The number of the counter of a class of a unit of a core. -/
def counterAt (core unit cls : Nat) : Nat := 32 * (16 * core + unit) + cls

/-- n cycles of a unit charged to a class (12_scheduling.md R309-R311, R400): unit 0-7 lane cluster, 8 and 9 contexts, 10 array; `slot` is
the context slot for which it issues. -/
def State.charge (s : State) (core unit cls addr info n : Nat) (slot : Option Nat := none) : State :=
  { s with
    counters := Tbl.modify 0#64 s.counters (counterAt core unit cls) (· + BitVec.ofNat 64 n)
    charged := Tbl.insert (16 * core + unit) (cls, addr, info, slot) (Tbl.erase s.charged (16 * core + unit)) }
/-- n cycles of the array charged (R398, R399): a change of class writes a TYPE 3 record for the context slot of its owner. A change to no
owner is recorded for the context slot that owned it last, with ADDR 0 (R397, log 83). -/
def State.chargeArray (s : State) (slot : Option Nat) (core cx cls addr n : Nat) : State :=
  let old := s.chargedLast core 10
  let s1 := s.charge core 10 cls addr (if old.1 = cls then old.2.2.1 + n else n) n
  match slot.or ((s.core core).lastX.map fun x => x.2.2) with
  | none => s1
  | some sl =>
    if (s.ctx sl).traces 3 && old.1 != cls then
      s1.writeTrace sl core { typ := 3, slot := 4, info := cls, unit := cx, addr, info2 := Nat.min 255 old.2.2.1 }
    else s1

end Sys2Proof.Machine
end

