-- ==== Sys2Proof/Machine/Translate.lean ====
section
/-! DEFINITION. Translation and protection (14_isolation.md R321-R333, R342): page-table walks, translation buffers, the
apertures, and what an access of a thread, a context or an engine may reach. -/

namespace Sys2Proof.Machine

/-- The kinds of access that a leaf permits (R327). -/
inductive Acc where
  | read | write | rmw | fetch
  deriving DecidableEq, Repr

/-- Fault codes (R366). -/
inductive Code where
  | ill | priv | align | xlat | prot | esc | bound | tag | win | scr | arg | bsy | ecc | pois | ring | walk | timeout
  deriving DecidableEq, Repr

/-- The number of a fault code (R366). -/
def Code.num : Code → Nat
  | .ill => 0x01
  | .priv => 0x02
  | .align => 0x03
  | .xlat => 0x10
  | .prot => 0x11
  | .esc => 0x20
  | .bound => 0x21
  | .tag => 0x22
  | .win => 0x23
  | .scr => 0x24
  | .arg => 0x30
  | .bsy => 0x31
  | .ecc => 0x40
  | .pois => 0x41
  | .ring => 0x50
  | .walk => 0x51
  | .timeout => 0x60

/-- What stops an access: a fault with its cause, addresses and detail; a park on a PTE line, with or without a record (R330,
R333); an access to another device, the host or an expander that has not been acknowledged. -/
inductive Stop where
  | fault (c : Code) (cause va pa detail : Nat)
  | park (ptea va : Nat) (posts : Bool)
  | away (a : Away)
  /-- It waits at the home of an object that a walk holds busy (R248). -/
  | busy (loc : Nat)
  deriving DecidableEq, Repr

/-- A fault with an address. -/
def stopAt (c : Code) (va : Nat) : Stop := .fault c 0 va 0 0
/-- XLAT with its cause (R326). -/
def xlatAt (cause va : Nat) : Stop := .fault .xlat cause va 0 0
/-- A fault that names no address. -/
def stopBare (c : Code) : Stop := .fault c 0 0 0 0

/-- The ADDR field of a PTE as an address (R324). -/
def pteAddr (e : W64) : Nat := (e.toNat / 2 ^ 16 % 2 ^ 36) * 2 ^ 16
/-- TIER of a PTE (R324). -/
def pteTier (e : W64) : Nat := e.toNat / 2 ^ 9 % 4
/-- LEAF of a PTE (R324). -/
def pteLeaf (e : W64) : Bool := e.getLsbD 12

/-- A valid, present entry is malformed at a level (R325). -/
def malformed (lvl : Nat) (e : W64) : Bool :=
  let region := paRegion (pteAddr e)
  e.getLsbD 14 || e.getLsbD 15 ||
  (pteLeaf e && lvl ≤ 1) || (!pteLeaf e && lvl == 3) ||
  (!pteLeaf e && (e.toNat / 4 % 1024 != 0 || e.getLsbD 13 || region != 0)) ||
  (pteLeaf e && lvl == 2 && (e.toNat / 2 ^ 16 % 1024 != 0 || e.getLsbD 11)) ||
  (pteLeaf e && (4 ≤ region || pteTier e != region)) ||
  (pteLeaf e && e.getLsbD 11 && pteTier e ≤ 1)

/-- The index bits of a virtual address down to a level (R323): va[55 : 46 - 10 n]. -/
def vpnAt (va lvl : Nat) : Nat := va % 2 ^ 56 / 2 ^ (46 - 10 * lvl)

/-- A cached entry for an address at a level (R328): its ASID matches or it is global. -/
def tlbFind (l : List TlbEntry) (asid : BitVec 16) (va lvl : Nat) : Option TlbEntry :=
  l.find? fun e => e.level == lvl && e.vpn == vpnAt va lvl && (e.asid == asid || (pteLeaf e.pte && e.pte.getLsbD 6))

/-- The translation buffers an access of a core consults: the core's, then its die's (R329). -/
def State.tlbs (s : State) (core : Nat) : List TlbEntry := (s.core core).tlb ++ (s.die (core / 96)).tlb

/-- The result of a walk: the leaf, its level, where it lies, and the entries read from memory. -/
structure Walked where
  pte : W64
  level : Nat
  ptea : Nat
  read : List TlbEntry
  deriving DecidableEq, Repr

/-- The unit that holds a poisoned word (R368). -/
def State.poisonUnit (s : State) (loc : Nat) : Nat := Tbl.get 0 s.poison (loc / 16) - 1
/-- The unit where an uncorrectable error of a word is found (R368). -/
def State.badUnit (s : State) (loc : Nat) : Nat := Tbl.get 0 s.bad (loc / 16) - 1
/-- The levels of a walk from level `lvl` with `fuel` levels left, through the table at `table` (R326). PTEs are read at
their homes (R220, R329). -/
def State.walkFrom (s : State) (asid : BitVec 16) (va : Nat) (read : List TlbEntry) :
    Nat → Nat → Nat → Except Stop Walked
  | 0, _, _ => .error (xlatAt 2 va)
  | fuel + 1, lvl, table =>
    let ptea := table + 8 * (vpnAt va lvl % 1024)
    let e : W64 := BitVec.ofNat 64 (leNat (s.homeBytes ptea 8))
    if !paDram ptea then .error (xlatAt 4 va)
    else if s.poisoned ptea 8 then .error (.fault .pois 0 va ptea (s.poisonUnit ptea))
    else if s.badRange ptea 8 then .error (.fault .ecc 0 va ptea (s.badUnit ptea))
    else if !e.getLsbD 0 then .error (xlatAt 0 va)
    else if !e.getLsbD 1 then
      if e.getLsbD 13 then .error (.park ptea va true) else .error (xlatAt 1 va)
    else if malformed lvl e then .error (xlatAt 2 va)
    else
      let ent : TlbEntry := { asid, level := lvl, vpn := vpnAt va lvl, pte := e &&& 0x000FFFFFFFFFFFFF#64, ptea }
      if pteLeaf e then .ok { pte := ent.pte, level := lvl, ptea, read := ent :: read }
      else State.walkFrom s asid va (ent :: read) fuel (lvl + 1) (pteAddr e)

/-- A walk for an address (R326, R328): a cached leaf answers at once; else the walk starts below the deepest cached pointer,
or at PTROOT. -/
def State.walk (s : State) (core : Nat) (asid : BitVec 16) (root va : Nat) : Except Stop Walked :=
  let l := s.tlbs core
  let leaf (lvl : Nat) : Option TlbEntry := (tlbFind l asid va lvl).filter fun e => pteLeaf e.pte
  let ptr (lvl : Nat) : Option TlbEntry := (tlbFind l asid va lvl).filter fun e => !pteLeaf e.pte
  match leaf 3, leaf 2 with
  | some e, _ => .ok { pte := e.pte, level := 3, ptea := e.ptea, read := [] }
  | none, some e => .ok { pte := e.pte, level := 2, ptea := e.ptea, read := [] }
  | none, none =>
    match ptr 2, ptr 1, ptr 0 with
    | some e, _, _ => s.walkFrom asid va [] 1 3 (pteAddr e.pte)
    | none, some e, _ => s.walkFrom asid va [] 2 2 (pteAddr e.pte)
    | none, none, some e => s.walkFrom asid va [] 3 1 (pteAddr e.pte)
    | none, none, none => s.walkFrom asid va [] 4 0 root

/-- A leaf permits an access (R327); OBJ with a TIER other than 0 permits none (R241). -/
def leafPermits (e : W64) (k : Acc) (sys : Bool) : Bool :=
  !(e.getLsbD 7 && pteTier e != 0) && (sys || e.getLsbD 5) &&
  (match k with
   | .read => e.getLsbD 2
   | .write => e.getLsbD 3
   | .rmw => e.getLsbD 2 && e.getLsbD 3
   | .fetch => e.getLsbD 4)

/-- An access writes (R327): it parks on a write-blocked leaf (R333). -/
def Acc.writes : Acc → Bool
  | .write | .rmw => true
  | .read | .fetch => false

/-- A capability record (R409, log 23). -/
def State.cap (s : State) (id : Nat) : Cap := Tbl.get (Cap.reset id) s.caps id
/-- The value of a capability that the device uses: the expert registers, which APPLY and reset set to the basic fields (R409). -/
def Cap.value (c : Cap) : W64 := c.expert
/-- The port is in CXL mode, which capability 0x0003 selects (R406, log 23). -/
def State.cxlMode (s : State) : Bool := (s.cap 3).value.getLsbD 0
/-- A physical address exists (R321): no reserved region, not this device's own number in region 0b001, a device of the
scale-up domain, an expander that is present below a port in CXL mode (R406), and in this device's DRAM an offset below 72 GiB. -/
def State.paExists (s : State) (pa : Nat) : Bool :=
  match paRegion pa with
  | 0 => paDram pa
  | 1 => pa / 2 ^ 39 % 1024 != s.fabricNum && pa / 2 ^ 39 % 1024 < s.domain
  | 2 => pa / 2 ^ 48 % 2 == 0
  | 3 => s.cxlMode && pa / 2 ^ 48 % 2 == 0 && s.expanders.getLsbD (pa / 2 ^ 44 % 16)
  | _ => false

/-- Where an access lands: its location, the leaf it went through, and what the walk read. An aperture has no leaf. -/
structure Place where
  loc : Nat
  obj : Bool
  /-- The leaf's PTE address when it counts accesses (R337). -/
  count : Option Nat
  read : List TlbEntry
  /-- The acknowledged access to another device that it takes up (R366), and the bytes of its response. -/
  ack : Option (Nat × List Byte) := none
  deriving DecidableEq, Repr

/-- Who makes an access: a core, a context slot, a block and a privilege; and which agent of the block: a thread by its number, slot n
of the context as 1,024 + n, its fetch as 2,047, a command as `Cmd.agent` gives. -/
structure Party where
  core : Nat
  slot : Nat
  blk : Nat
  sys : Bool
  who : Nat := 0
  deriving DecidableEq, Repr

/-- The walk of an access (R326-R328). A write that meets a cached write-blocked leaf reads the leaf afresh, because reading the entry and
arming its monitor are one step at the home (R330, R333). -/
def State.walkFor (s : State) (p : Party) (va : Nat) (k : Acc) : Except Stop Walked :=
  let c := s.ctx p.slot
  match s.walk p.core c.asid c.ptroot.toNat va with
  | .error e => .error e
  | .ok w => if k.writes && w.pte.getLsbD 8 && w.read == [] then s.walkFrom c.asid va [] 4 0 c.ptroot.toNat else .ok w

/-- Each of a list is checked, or the first that stops. -/
def mapStop {α β : Type} (f : α → Except Stop β) : List α → Except Stop (List β)
  | [] => .ok []
  | x :: l =>
    match f x with
    | .error e => .error e
    | .ok y =>
      match mapStop f l with
      | .error e => .error e
      | .ok r => .ok (y :: r)

/-- Translation of an address outside the apertures (R326, R327, R333, R321). -/
def State.translate (s : State) (p : Party) (va : Nat) (k : Acc) : Except Stop Place :=
  match s.walkFor p va k with
  | .error e => .error e
  | .ok w =>
    if !leafPermits w.pte k p.sys then .error (stopAt .prot va)
    else if k.writes && w.pte.getLsbD 8 then .error (.park w.ptea va false)
    else
      let off := if w.level = 2 then va % 2 ^ 26 else va % 2 ^ 16
      let pa := pteAddr w.pte + off
      if !s.paExists pa then .error (xlatAt 4 va)
      else .ok { loc := pa, obj := w.pte.getLsbD 7, count := if w.pte.getLsbD 11 then some w.ptea else none, read := w.read }

/-- The open window of a context that holds a byte of a core's scratchpad, with its block (R342). Those of a pre-empted block are closed (R234). -/
def State.windowAt (s : State) (slot core off : Nat) : Option (Nat × Window) :=
  (s.blocks.filterMap fun e =>
    match e.2 with
    | none => none
    | some b =>
      if b.core == core && b.slot == slot && b.life != .launched then
        (b.windows.find? fun w => w.off ≤ off && off < w.off + 128).map fun w => (e.1, w)
      else none).head?

/-- An aperture access (R322, R341, R342): the issuing core's scratchpad within the block's allocation, or a peer's window. -/
def State.aperture (s : State) (p : Party) (va size : Nat) (k : Acc) : Except Stop Place :=
  let x := va % 2 ^ 20
  if k = .fetch then .error (stopAt .prot va)
  else if va / 2 ^ 20 = 0x00FF000000000000 / 2 ^ 20 then
    match s.block p.blk with
    | none => .error (stopAt .scr va)
    | some b =>
      if b.scrLen ≠ 0 && b.scrOff ≤ x && x + size ≤ b.scrOff + b.scrLen then
        .ok { loc := scrLoc p.core x, obj := false, count := none, read := [] }
      else .error (stopAt .scr va)
  else if va / 2 ^ 23 = 0x00FF010000000000 / 2 ^ 23 then
    let peer := p.core / 8 * 8 + va / 2 ^ 20 % 8
    match s.windowAt p.slot peer x with
    | none => .error (stopAt .win va)
    | some (blk, w) =>
      if w.off + 128 < x + size || (k.writes && w.sw && blk != p.blk) then .error (stopAt .win va)
      else .ok { loc := scrLoc peer x, obj := false, count := none, read := [] }
  else .error (xlatAt 3 va)

/-- An access by virtual address after its own checks of alignment (R369): translation, permission, bounds and windows. -/
def State.place (s : State) (p : Party) (va size : Nat) (k : Acc) : Except Stop Place :=
  if va / 2 ^ 56 ≠ 0 then .error (xlatAt 3 va)
  else if va / 2 ^ 48 % 256 = 0xFF then s.aperture p va size k
  else s.translate p va k

/-- The home of a location is this device's. -/
def homeHere (loc : Nat) : Bool := isScr loc || paRegion loc == 0
/-- The access is this agent's. -/
def Remote.of (r : Remote) (blk who : Nat) (a : Away) : Bool := r.blk == blk && r.who == some who && r.ask == a
/-- An agent's access to another device, the host or an expander, which has to be acknowledged (R366, log 12): the acknowledged access that
it takes up, or TIMEOUT when the time for it is over. -/
def State.acknowledged (s : State) (p : Party) (va : Nat) (a : Away) : Except Stop (Option (Nat × List Byte)) :=
  if homeHere a.pa then .ok none
  else
    match s.remotes.find? fun r => r.of p.blk p.who a && (r.done || r.failed) with
    | none => .error (.away a)
    | some r => if r.failed then .error (stopAt .timeout va) else .ok (some (r.id, r.got))
/-- The first byte of a range in a 16-byte word of which p holds. -/
def firstWord (loc n : Nat) (p : Nat → Bool) : Nat := (((words16 loc n).find? p).map fun w => Nat.max loc (16 * w)).getD loc
/-- The ECC fault of a range, at its first uncorrectable word (R383), with the unit where it is found (R368). -/
def State.eccAt (s : State) (va loc n : Nat) : Stop :=
  let a := firstWord loc n s.badWord
  .fault .ecc 0 va a (s.badUnit a)
/-- The POIS fault of a range, at its first poisoned word (R383), with the unit that holds it (R368). -/
def State.poisAt (s : State) (va loc n : Nat) : Stop :=
  let a := firstWord loc n s.poisonedWord
  .fault .pois 0 va a (s.poisonUnit a)
/-- The reader that finds an uncorrectable error leaves every affected word of the line it read there poisoned at its home (R383). -/
def State.found (s : State) (f : Stop) : State :=
  match f with
  | .fault .ecc _ _ pa _ => s.poisonBad (pa / 128 * 128) 128
  | .fault _ _ _ _ _ | .park _ _ _ | .away _ | .busy _ => s
/-- The data read of an access (R369, R383): poison, then an uncorrectable error, at the home, and the acknowledgement. -/
def State.readable (s : State) (p : Party) (va : Nat) (pl : Place) (size : Nat) : Except Stop Place :=
  if s.poisoned pl.loc size then .error (s.poisAt va pl.loc size)
  else if s.badRange pl.loc size then .error (s.eccAt va pl.loc size)
  else (s.acknowledged p va ⟨pl.loc, size, .read, []⟩).map fun r => { pl with ack := r }
/-- A write into the first 128 bytes of a window that a context of this device produces, other than an advance of its version word, whoever
makes it (R286). `adv` says that the write is a version advance by its form. -/
def State.winWrite (s : State) (loc : Nat) (l : List Byte) (adv : Bool) : Bool :=
  s.ctxs.any fun e => (s.produced e.2).any fun w =>
    loc < w.base + 128 && w.base < loc + l.length && !(adv && loc == w.base && l.length == 4 && leNat l == (s.word w.base 4 + 1) % 2 ^ 32)
/-- What a write meets after translation, but for its acknowledgement (R369): the window rule of R286, then a tagged word of an OBJ page
(R149, R250). -/
def State.writeOk (s : State) (va : Nat) (pl : Place) (l : List Byte) (adv : Bool) : Except Stop Unit :=
  if s.winWrite pl.loc l adv then .error (stopAt .win va)
  else if pl.obj && s.anyTag pl.loc l.length then .error (stopAt .tag va)
  else .ok ()
/-- What a write meets after translation, its acknowledgement last. -/
def State.writable (s : State) (p : Party) (va : Nat) (pl : Place) (l : List Byte) (adv : Bool) : Except Stop Place :=
  match s.writeOk va pl l adv with
  | .error e => .error e
  | .ok _ => (s.acknowledged p va ⟨pl.loc, l.length, .write, l⟩).map fun r => { pl with ack := r }

/-- The flits of a request (R410). -/
def Away.flits (a : Away) (id port : Nat) : List Flit :=
  (flitParts a.len).map fun x =>
    .request id port { a with pa := a.pa + x.1, len := x.2, data := if a.kind = .write then (a.data.drop x.1).take x.2 else a.data }
/-- A request to another device, the host or an expander (R366, R410), with the agent that waits for it. To another device it leaves by a
port that is up; with no route nothing is sent. -/
def State.sendNew (s : State) (blk agent : Nat) (who : Option Nat) (a : Away) : State :=
  let id := s.nextRemote
  let port := if paRegion a.pa = 1 then s.route.getD 18 else 18
  let left := if paRegion a.pa = 1 then (flitParts a.len).length else 1
  { s with
    nextRemote := id + 1
    remotes := s.remotes ++ [{ id, blk, agent, who, port, ask := a, left, got := [], since := s.clock, done := false, failed := false }]
    flitsOut := if port < 18 then s.flitsOut ++ a.flits id port else s.flitsOut }
/-- An agent's access that its instruction waits for: the request leaves, unless it is already out. -/
def State.sendAway (s : State) (blk who : Nat) (a : Away) : State :=
  if s.remotes.any fun r => r.of blk who a && !r.done && !r.failed then s else s.sendNew blk who (some who) a
/-- The number of an agent's outstanding access. -/
def State.awayId (s : State) (blk who : Nat) (a : Away) : Nat :=
  ((s.remotes.find? fun r => r.of blk who a && !r.done && !r.failed).map (·.id)).getD 0
/-- What the home of an acknowledged access held. -/
def State.gotBytes (s : State) (id : Nat) : List Byte := ((s.remotes.find? fun r => r.id == id).map (·.got)).getD []
/-- A write posted by an agent to another device, the host or an expander, for which no unit holds (R239). -/
def State.postAway (s : State) (blk agent loc : Nat) (l : List Byte) : State :=
  if homeHere loc then s else s.sendNew blk agent none ⟨loc, l.length, .write, l⟩
/-- Acknowledged accesses that their instruction has taken up. -/
def State.consume (s : State) (ids : List Nat) : State :=
  if ids = [] then s else { s with remotes := s.remotes.filter fun r => !ids.contains r.id }
/-- A fault ends what agents of a block were doing: no instruction takes up their accesses any more (R366). -/
def State.abandon (s : State) (blk : Nat) (who : Nat → Bool) : State :=
  if s.remotes = [] then s
  else { s with remotes := s.remotes.filterMap fun r =>
    if r.blk == blk && r.who.any who then (if r.done || r.failed then none else some { r with who := none }) else some r }
/-- A write of a block that no unit holds for, posted or left behind by a fault (R239, R366). -/
def Remote.posted (r : Remote) (blk : Nat) : Bool := r.blk == blk && r.who == none && r.ask.kind != .read
/-- Posted writes of agents of a block that are not acknowledged (R239, R264). -/
def State.unacked (s : State) (blk : Nat) (p : Nat → Bool) : Bool := s.remotes.any fun r => r.posted blk && p r.agent && !r.failed
/-- Posted writes of agents of a block that were not acknowledged in time (R366). -/
def State.unanswered (s : State) (blk : Nat) (p : Nat → Bool) : List Remote := s.remotes.filter fun r => r.posted blk && p r.agent && r.failed
/-- The agent is a slot of a tile context, or its fetch. -/
def agentOfTile (n : Nat) : Bool := 1024 ≤ n && n < 2048

/-- The entries a walk read are held in the core's and the die's buffers, up to their capacity (R328, R329). -/
def State.remember (s : State) (core : Nat) (l : List TlbEntry) : State :=
  if l = [] then s
  else
    (s.modCore core fun c => { c with tlb := (l ++ c.tlb).take 256 }).modDie (core / 96) fun d =>
      { d with tlb := (l ++ d.tlb).take 8192 }

/-- One counted line request (R337), held until it is applied. -/
def State.count (s : State) (slot va : Nat) (pl : Place) : State :=
  match pl.count with
  | none => s
  | some ptea => { s with counts := s.counts ++ [(ptea, va / 65536, (s.ctx slot).asid)] }

/-- What a performed access leaves in the translation machinery: the lines of the entries it read are at their homes (R220), buffer entries,
and the first access through an entry read from memory acquires at system scope (R329); a further chunk of
its range finds the entries held. -/
def State.used (s : State) (core : Nat) (pl : Place) : State :=
  if pl.read.all (s.tlbs core).contains then s
  else ((pl.read.foldl (fun s e => s.fetchHome e.ptea) s).remember core pl.read).acquire core .system
/-- What performed accesses of a party leave in the translation machinery (R329, R337), before their data: each uses its entries, and
each distinct line adds to its page's count once. Accesses are (address, place, bytes). -/
def State.settled (s : State) (p : Party) (l : List (Nat × Place × Nat)) : State :=
  let s1 := l.foldl (fun s x => s.used p.core x.2.1) s
  let firsts := l.foldl (fun (acc : List (Nat × Place × Nat)) x =>
    if acc.any fun y => y.2.1.loc / 128 == x.2.1.loc / 128 then acc else acc ++ [x]) []
  (firsts.foldl (fun s x => s.count p.slot x.1 x.2.1) s1).consume (l.filterMap fun x => x.2.1.ack.map Prod.fst)

/-- `settled` for accesses of a command that has touched the ranges of a list before: a line of these has been counted (R337). -/
def State.settledNew (s : State) (p : Party) (l : List (Nat × Place × Nat)) (old : List (Nat × Nat)) : State :=
  s.settled p (l.map fun x =>
    if old.any fun o => o.1 / 128 ≤ x.2.1.loc / 128 && x.2.1.loc / 128 ≤ (o.1 + o.2 - 1) / 128 then (x.1, { x.2.1 with count := none }, x.2.2)
    else x)

/-- The data of an access (R217, R218, R232): of one to another device, the host or an expander, the bytes of its response; else of a valid
line of the core's L1 or the home. -/
def State.dataOf (s : State) (core : Nat) (pl : Place) (n : Nat) : List Byte :=
  match pl.ack with
  | some (_, l) => l.take n
  | none => s.loadBytes core pl.loc n

end Sys2Proof.Machine
end

