-- ==== Sys2Proof/Machine/Ops.lean ====
section
/-! DEFINITION. The shared operations: fault records (17_faults_preemption.md R367, R368), accesses by virtual address, parking
(14_isolation.md R330), taking an exception and returning from one (R370-R375), and the start of a kill (R380). -/

namespace Sys2Proof.Machine

open Host (Outcome)

/-! ### Fault records -/

/-- The fields of a fault record (R367); a field not given is zero. -/
structure Rec where
  code : Nat := 0
  kind : Nat := 0
  slot : Nat := 15
  done : Nat := 0
  num : Nat := 0
  late : Bool := false
  gate : Bool := false
  prv : Bool := false
  asid : Nat := 0
  pc : Nat := 0
  baddr : Nat := 0
  va : Nat := 0
  detail : Nat := 0
  lmask : Nat := 0
  imask : Nat := 0
  own : Nat := 0
  aux : Nat := 0
  core : Nat := 0
  pa : Nat := 0
  deriving DecidableEq, Repr

/-- The 64 bytes of a record (R367); a scratchpad byte has no physical address. -/
def Rec.bits (r : Rec) : BitVec 512 :=
  BitVec.ofNat 512 (r.code % 256 + r.kind % 16 * 2 ^ 8 + r.slot % 16 * 2 ^ 12 + r.done % 256 * 2 ^ 16 + r.num % 256 * 2 ^ 24 +
    r.late.toNat * 2 ^ 32 + r.gate.toNat * 2 ^ 33 + r.prv.toNat * 2 ^ 34 + r.asid % 2 ^ 16 * 2 ^ 48 + r.pc % 2 ^ 64 * 2 ^ 64 +
    r.baddr % 2 ^ 64 * 2 ^ 128 + r.va % 2 ^ 64 * 2 ^ 192 + r.detail % 2 ^ 64 * 2 ^ 256 + r.lmask % 2 ^ 16 * 2 ^ 320 +
    r.imask % 2 ^ 16 * 2 ^ 336 + r.own % 2 ^ 19 * 2 ^ 352 + r.aux % 2 ^ 32 * 2 ^ 384 + r.core % 2 ^ 9 * 2 ^ 416 +
    (if isScr r.pa then 0 else r.pa % 2 ^ 64) * 2 ^ 448)
/-- A record with its KIND replaced. -/
def recKind (r : BitVec 512) (k : Nat) : BitVec 512 := (r &&& ~~~(0xF00#512)) ||| BitVec.ofNat 512 (k % 16 * 256)
/-- A record with its CODE replaced. -/
def recCode (r : BitVec 512) (c : Nat) : BitVec 512 := (r &&& ~~~(0xFF#512)) ||| BitVec.ofNat 512 (c % 256)
/-- A record with its DETAIL replaced. -/
def recDetail (r : BitVec 512) (d : Nat) : BitVec 512 :=
  (r &&& ~~~(0xFFFFFFFFFFFFFFFF#512 <<< 256)) ||| (BitVec.ofNat 512 (d % 2 ^ 64) <<< 256)
/-- A record with its PRV replaced. -/
def recPrv (r : BitVec 512) (b : Bool) : BitVec 512 := (r &&& ~~~(1#512 <<< 34)) ||| ((BitVec.ofBool b).setWidth 512 <<< 34)
/-- KIND of a record. -/
def recKindOf (r : BitVec 512) : Nat := (r.extractLsb' 8 4).toNat
/-- DONE of a record. -/
def recDone (r : BitVec 512) : BitVec 8 := r.extractLsb' 16 8
/-- BADDR of a record. -/
def recBaddr (r : BitVec 512) : Nat := (r.extractLsb' 128 64).toNat

/-- Lanes as a mask by position in the lane cluster (R367). -/
def laneMask (l : List Nat) : Nat := l.foldl (fun m t => m ||| 2 ^ (t % 16)) 0

/-- A record formed for the fault queue waits in the device until it is posted (R339, R384). -/
def State.post (s : State) (r : BitVec 512) : State := { s with faultWait := s.faultWait ++ [r] }

/-! ### Kill -/

/-- A kill begins (R380 steps 1 and 2): KILLING is set, the context's queues stop, and its blocks stop issuing. -/
def State.kill (s : State) (slot : Nat) : State :=
  let s := s.modCtx slot fun c => { c with killing := true }
  { s with
    queues := s.queues.map fun e => (e.1, if e.2.asid == (s.ctx slot).asid then { e.2 with en := false } else e.2)
    blocks := s.blocks.map fun e =>
      (e.1, e.2.map fun b => if b.slot == slot then { b with killed := true, life := .draining } else b) }

/-- A record with KIND 6, and the kill of its context. -/
def State.killWith (s : State) (slot : Nat) (r : BitVec 512) : State := (s.post (recKind r 6)).kill slot

/-! ### Accesses by virtual address -/

/-- A range cut at multiples of 64: (address, bytes). -/
def chunks (va : Nat) : Nat → Nat → List (Nat × Nat)
  | 0, _ => []
  | fuel + 1, n =>
    if n = 0 then []
    else
      let k := Nat.min n (64 - va % 64)
      (va, k) :: chunks (va + k) fuel (n - k)

/-- What stops, if anything. -/
def stopOf {α : Type} (e : Except Stop α) : Option Stop :=
  match e with
  | .ok _ => none
  | .error e => some e

/-- The places of a range, each chunk checked (R326, R327, R341), or the first that stops. -/
def State.places (s : State) (p : Party) (k : Acc) : List (Nat × Nat) → Except Stop (List (Nat × Nat × Place))
  | [] => .ok []
  | (va, n) :: l =>
    match s.place p va n k with
    | .error e => .error e
    | .ok pl =>
      match s.places p k l with
      | .error e => .error e
      | .ok r => .ok ((va, n, pl) :: r)

/-- Bytes read through the context's translation by a core's agent, with the state the read leaves: its acquire (R329) comes before its
data. -/
def State.virtRead (s : State) (p : Party) (va n : Nat) : Except Stop (List Byte × State) :=
  match s.places p .read (chunks va (n / 64 + 2) n) with
  | .error e => .error e
  | .ok l =>
    match mapStop (fun x => (s.readable p x.1 x.2.2 x.2.1).map fun pl => (x.1, pl, x.2.1)) l with
    | .error e => .error e
    | .ok l =>
      let s1 := s.settled p l
      .ok (l.flatMap fun x => s1.dataOf p.core x.2.1 x.2.2, l.foldl (fun s x => s.afterLoad p.core x.2.1.loc .none) s1)

/-- The bytes of a write, chunk by chunk: address, place and bytes. -/
def pieces (l : List (Nat × Nat × Place)) (bs : List Byte) : List (Nat × Place × List Byte) :=
  match l with
  | [] => []
  | (va, n, pl) :: l => (va, pl, bs.take n) :: pieces l (bs.drop n)
/-- The pieces of a write, each checked (R369). -/
def State.writables (s : State) (p : Party) (l : List (Nat × Place × List Byte)) : Except Stop (List (Nat × Place × List Byte)) :=
  mapStop (fun x => (s.writable p x.1 x.2.1 x.2.2 false).map fun pl => (x.1, pl, x.2.2)) l
/-- Accesses as the translation machinery sees them: address, place and bytes of each. -/
def pieceUses (l : List (Nat × Place × List Byte)) : List (Nat × Place × Nat) := l.map fun x => (x.1, x.2.1, x.2.2.length)
/-- Bytes stored piece by piece. -/
def State.storePieces (s : State) (core : Nat) (l : List (Nat × Place × List Byte)) : State :=
  l.foldl (fun s x => s.storeBytes core x.2.1.loc x.2.2) s

/-- Bytes written through the context's translation by a core's agent; a word whose tag is set in an OBJ page raises TAG
(R149). Nothing is written unless every chunk passes. -/
def State.virtWrite (s : State) (p : Party) (va : Nat) (bs : List Byte) : Except Stop State :=
  match s.places p .write (chunks va (bs.length / 64 + 2) bs.length) with
  | .error e => .error e
  | .ok l =>
    match s.writables p (pieces l bs) with
    | .error e => .error e
    | .ok l => .ok ((s.settled p (pieceUses l)).storePieces p.core l)

/-! ### Parking -/

/-- A park that has armed its monitor, so that its record is posted: a replay that parks on the same PTE posts none (R330, R331). -/
def Stall.armed : Stall → Bool
  | .park _ _ => true
  | .parkNoMonitor _ | .channel _ | .fence | .tlbi | .pub | .remote _ => false

/-- A unit that parks on two PTEs waits for a write of either line, or for a monitor that one of them lacks. -/
def Stall.both (a b : Stall) : Stall :=
  match a, b with
  | .park l f, .park m g => .park (l ++ m) (f.or g)
  | .park l f, .parkNoMonitor d => .park l (f.or (some d))
  | .parkNoMonitor d, .park l f => .park l ((some d).or f)
  | .parkNoMonitor _, .parkNoMonitor _ | .parkNoMonitor _, .channel _ | .parkNoMonitor _, .fence | .parkNoMonitor _, .tlbi
  | .parkNoMonitor _, .pub | .parkNoMonitor _, .remote _ | .park _ _, .channel _ | .park _ _, .fence | .park _ _, .tlbi | .park _ _, .pub
  | .park _ _, .remote _ | .channel _, _ | .fence, _ | .tlbi, _ | .pub, _ | .remote _, _ => a
/-- A park on a PTE (R330): the monitor of its line, or none when all 256 of its die are armed; and the record, unless it is
a write-block park (R333) or a replay of the same PTE (R331). -/
def State.parkOn (s : State) (ptea : Nat) (posts : Bool) (last : Option Nat) (r : BitVec 512) : State × Stall :=
  let line := ptea / 128
  let d := s.die (paDie ptea)
  if d.monitors.contains line || d.monitors.length < 256 then
    let s := if d.monitors.contains line then s else s.modDie (paDie ptea) fun d => { d with monitors := d.monitors ++ [line] }
    (if posts && last != some ptea then s.post r else s, .park [line] none)
  else (s, .parkNoMonitor (paDie ptea))

/-! ### Taking an exception -/

/-- The owner slot of an owner number (R244). -/
def ownerSlot (o : BitVec 19) : Nat := (o.extractLsb' 4 6).toNat
/-- The frame region of a block (R371). -/
def State.frameRegion (s : State) (b : Block) : Nat :=
  (s.ctx b.slot).frameb.toNat + 2 ^ 25 * (64 * b.core + ownerSlot b.owner)
/-- The trap frame of a thread at a depth (R371). -/
def State.trapFrame (s : State) (b : Block) (tid depth : Nat) : Nat :=
  s.frameRegion b + 0x200000 + 0x4800 * tid + 0x480 * (depth - 1)

/-- A thread whose pending results have landed. -/
def Thread.land (t : Thread) : Thread :=
  t.pend.foldl
    (fun t p => { (p.dst.foldl (fun t w => t.set w.1 w.2) t) with flags := t.flags ||| p.fl }) { t with pend := [] }

/-- A trap frame (R371). -/
def frameBytes (t : Thread) (nregs : Nat) (r : BitVec 512) (rpc : Addr) : List Byte :=
  leBytes 64 r.toNat ++ leBytes 8 rpc.toNat ++
  leBytes 4 ((t.preds ||| 1#16).toNat + t.flags.toNat * 2 ^ 16 + t.home.toNat * 2 ^ 21 + t.sys.toNat * 2 ^ 22) ++
  leBytes 4 t.amax.toNat ++ leBytes 48 0 ++ (t.getRun 0 nregs).flatMap fun v => leBytes 4 v.toNat

/-- The party of a block's agents: a thread by its number, and the agents that `Party` names. -/
def Block.party (b : Block) (blk : Nat) (sys : Bool) (who : Nat := 0) : Party := { core := b.core, slot := b.slot, blk, sys, who }

/-- TVEC's address (R351). -/
def Ctx.handler (c : Ctx) : Addr := c.tvec.setWidth 56 &&& ~~~(7#56)

/-- Taking an exception, for one lane (R370): the trap frame at depth NEST + 1, d0-d1 the frame's address, PRIV 1, NEST + 1
and the pc at TVEC. With TVEC 0 or NEST 15, or when the frame cannot be written, the context is killed; when the frame's
memory parks, the entry waits. -/
def State.enterLane (s : State) (blk tid : Nat) (r : BitVec 512) (rpc : Addr) : State :=
  match s.block blk, s.thread blk tid with
  | some b, some t0 =>
    if b.killed then s
    else
      let t := t0.land
      let c := s.ctx b.slot
      let r1 := recDetail (recPrv r t.sys) 0
      if c.handler = 0#56 || t.nest = 15#4 then s.killWith b.slot r1
      else
        let va := s.trapFrame b tid (t.nest.toNat + 1)
        match s.virtWrite (b.party blk true tid) va (frameBytes t b.nregs (recPrv r t.sys) rpc) with
        | .error (.fault f n fva pa d) => (s.found (.fault f n fva pa d)).killWith b.slot (recDetail (if f = .ecc then recCode r1 f.num else r1) f.num)
        | .error (.park ptea pva posts) =>
          let pr : Rec := { code := Code.xlat.num, kind := 4, slot := 8, num := 1, asid := c.asid.toNat, pc := t.pc.toNat,
                            baddr := t.pc.toNat, va := pva, own := b.owner.toNat, core := b.core, pa := ptea, aux := tid,
                            lmask := laneMask [tid], imask := laneMask [tid], prv := true }
          let x := s.parkOn ptea (posts && !t.lastPark.contains ptea) none pr.bits
          x.1.modThread blk tid fun _ => { t with status := .stalled x.2, entry := some (r, rpc), lastPark := if x.2.armed then [ptea] else t.lastPark }
        | .error (.busy _) => s
        | .error (.away a) =>
          let s1 := s.sendAway blk tid a
          s1.modThread blk tid fun _ => { t with status := .stalled (.remote (s1.awayId blk tid a)), entry := some (r, rpc) }
        | .ok s => s.modThread blk tid fun _ =>
            { (t.set64 0 (BitVec.ofNat 64 va)) with
              sys := true, nest := t.nest + 1#4, pc := c.handler, status := .active, entry := none, lastPark := [],
              deadline := none, timedOut := false }
  | _, _ => s

/-- The trace record of a fault or trap (R397). -/
def faultTrace (r : BitVec 512) (unit : Nat) : Trace :=
  { typ := 4, slot := (r.extractLsb' 12 4).toNat, info := (r.setWidth 8).toNat, unit, addr := recBaddr r, info2 := recKindOf r }
/-- A fault or trap taken by lanes of a block is traced. -/
def State.traceFault (s : State) (blk : Nat) (lanes : List Nat) (r : BitVec 512) : State :=
  match s.block blk, lanes with
  | some b, t :: _ => if b.killed then s else s.trace b.slot b.core (faultTrace r ((b.lc + t / 16) % 8))
  | _, _ => s
/-- Taking an exception, lane by lane in ascending order (R370). -/
def State.enterLanes (s : State) (blk : Nat) (lanes : List Nat) (r : BitVec 512) (rpc : Addr) : State :=
  lanes.foldl (fun s tid => s.enterLane blk tid r rpc) (s.traceFault blk lanes r)

/-- The record of a thread instruction of the issuing block (R367): slot 8, BADDR equal to PC. -/
def State.threadRec (s : State) (lanes : List Nat) : Rec :=
  match s.block s.cur.blk with
  | none => {}
  | some b =>
    { slot := 8, asid := (s.ctx b.slot).asid.toNat, pc := s.cur.pc.toNat, baddr := s.cur.pc.toNat, lmask := laneMask lanes,
      imask := laneMask s.cur.lanes, own := b.owner.toNat, aux := lanes.headD 0, core := b.core }

/-- A precise fault of the issuing barge instruction (R151, R370): the whole instruction is suppressed, the lanes `who` enter
the handler, and the record names the faulting lanes `lanes`, lowest first. -/
def State.faultAll (s : State) (who lanes : List Nat) (f : Stop) : State :=
  match f with
  | .fault c cause va pa detail =>
    let r : Rec := { s.threadRec lanes with code := c.num, num := cause, va, pa, detail }
    ((s.found f).abandon s.cur.blk s.cur.lanes.contains).enterLanes s.cur.blk who r.bits s.cur.pc
  | .park _ _ _ | .away _ | .busy _ => s

/-- A precise fault of lanes of an instruction: every issued lane whose guard reads true enters the handler (R370). -/
def State.faultLanes (s : State) (g : Guard) (lanes : List Nat) (f : Stop) : State := s.faultAll (s.active g) lanes f

/-- A fault found before issue (R78, R79, R370): every issued lane enters, and LMASK lists them. -/
def State.faultDecode (s : State) (f : Stop) : State := s.faultAll s.cur.lanes s.cur.lanes f

/-- The issued lanes whose privilege is `sys`. -/
def State.lanesAt (s : State) (sys : Bool) : List Nat :=
  s.cur.lanes.filter fun tid => (s.thread s.cur.blk tid).any fun t => t.sys == sys

/-- An instruction that needs system privilege (R78, R320): executed with user privilege on some issued lane, it raises PRIV
before issue, on every issued lane. -/
def privileged (s : State) (perform : Outcome State Fault Refusal) : Outcome State Fault Refusal :=
  if s.lanesAt false = [] then perform else .next (s.faultDecode (stopBare .priv))

/-- A trap with number n (R147, R370): KIND 1, resuming after the instruction; or a breakpoint: KIND 2, resuming at it. -/
def State.trapLanes (s : State) (g : Guard) (kind n : Nat) (rpc : Addr) : State :=
  let r : Rec := { s.threadRec (s.active g) with kind, num := n }
  s.enterLanes s.cur.blk (s.active g) r.bits rpc

/-- The issuing barge stays at its instruction: its lanes hold un-issued for this reason. -/
def State.stallLanes (s : State) (w : Stall) : State := s.onLanes fun _ t => { t with status := .stalled w }

/-- A park of the issuing barge instruction (R330): nothing performs. Each PTE on which a lane parked gets its monitor and its
record, which names the lanes that parked; a write of any of their lines wakes the barge (R331). -/
def State.parkLanes (s : State) (stops : List (Nat × Stop)) : State :=
  let lanes := stops.map Prod.fst
  let last := ((s.thread s.cur.blk (lanes.headD 0)).map (·.lastPark)).getD []
  let x := stops.foldl (fun (acc : State × List Nat × Option Stall) e =>
    match e.2 with
    | .fault _ _ _ _ _ => acc
    | .away _ | .busy _ => acc
    | .park ptea va posts =>
      if acc.2.1.contains ptea then acc
      else
        let r : Rec := { s.threadRec lanes with code := Code.xlat.num, kind := 4, num := 1, va, pa := ptea }
        let prv := (s.thread s.cur.blk (lanes.headD 0)).any (·.sys)
        let y := acc.1.parkOn ptea (posts && !last.contains ptea) none (recPrv r.bits prv)
        (y.1, if y.2.armed then acc.2.1 ++ [ptea] else acc.2.1, some ((acc.2.2.map (·.both y.2)).getD y.2))) (s, [], none)
  match x.2.2 with
  | none => s
  | some w => x.1.onLanes fun _ t => { t with status := .stalled w, lastPark := x.2.1 }

/-- The issuing barge waits for accesses to another device (R366): the requests leave, and it holds un-issued. -/
def State.awayLanes (s : State) (stops : List (Nat × Stop)) : State :=
  let x := stops.foldl (fun (acc : State × Option Nat) e =>
    match e.2 with
    | .fault _ _ _ _ _ | .park _ _ _ | .busy _ => acc
    | .away a =>
      let y := acc.1.sendAway s.cur.blk e.1 a
      (y, some (acc.2.getD (y.awayId s.cur.blk e.1 a)))) (s, none)
  match x.2 with
  | none => s
  | some id => x.1.stallLanes (.remote id)

/-- A stop is a fault. -/
def Stop.isFault : Stop → Bool
  | .fault _ _ _ _ _ => true
  | .park _ _ _ | .away _ | .busy _ => false
/-- A stop is a park. -/
def Stop.isPark : Stop → Bool
  | .park _ _ _ => true
  | .fault _ _ _ _ _ | .away _ | .busy _ => false

/-- What follows the stops of an instruction's lanes (R151): a fault of any lane suppresses the instruction and takes precedence
over a park, and the record gives the lowest faulting lane's fault; a park over a wait. With no stop, it performs. -/
def resolve (s : State) (who : List Nat) (errs : List (Nat × Stop)) (perform : State → State) : Outcome State Fault Refusal :=
  match errs.filter fun e => e.2.isFault with
  | (t, f) :: l => .next ((l.foldl (fun s e => s.found e.2) s).faultAll who (t :: l.map Prod.fst) f)
  | [] =>
    match errs.filter fun e => e.2.isPark with
    | e :: l => .next (s.parkLanes (e :: l))
    | [] =>
      match errs with
      | [] => .next (perform s)
      | _ :: _ => .next (s.awayLanes errs)

/-- An instruction whose lanes check and perform one by one, in order of `$lane` (R417): a lane that fails performs nothing, the
others perform, and then the instruction faults with the failing lanes in LMASK. Where none fails, `fin` is what follows. -/
def laneByLane (s : State) (g : Guard) (f : State → Nat → Except Stop State) (fin : State → State := id) : Outcome State Fault Refusal :=
  let x := (s.active g).foldl (fun (acc : State × List (Nat × Stop)) tid =>
    match f acc.1 tid with
    | .ok s' => (s', acc.2)
    | .error e => (acc.1, acc.2 ++ [(tid, e)])) (s, [])
  match x.2 with
  | [] => .next (fin (x.1.onLanes fun _ t => t.advance))
  | e :: l => .next ((l.foldl (fun s e => s.found e.2) x.1).faultAll (s.active g) (e.1 :: l.map Prod.fst) e.2)

/-! ### Returning from an exception -/

/-- A trap frame as it stands in memory (R371). -/
structure Frame where
  record : BitVec 512
  rpc : Nat
  word : Nat
  amax : W32
  regs : List W32
  deriving DecidableEq, Repr

/-- The words of a list of bytes. -/
def words32 : Nat → List Byte → List W32
  | 0, _ => []
  | n + 1, l => BitVec.ofNat 32 (leNat (l.take 4)) :: words32 n (l.drop 4)

/-- A frame from its bytes. -/
def parseFrame (nregs : Nat) (l : List Byte) : Frame :=
  { record := BitVec.ofNat 512 (leNat (l.take 64)), rpc := leNat ((l.drop 64).take 8), word := leNat ((l.drop 72).take 4),
    amax := BitVec.ofNat 32 (leNat ((l.drop 76).take 4)), regs := words32 nregs (l.drop 128) }

/-- The frame of a thread's innermost depth, with the state the read leaves. -/
def State.readFrame (s : State) (b : Block) (blk tid : Nat) (t : Thread) : Except Stop (Frame × State) :=
  match s.virtRead (b.party blk true tid) (s.trapFrame b tid t.nest.toNat) (128 + 4 * b.nregs) with
  | .error e => .error e
  | .ok (l, s') => .ok (parseFrame b.nregs l, s')

/-- The record is a gate frame's (R367). -/
def Frame.isGate (f : Frame) : Bool := f.record.getLsbD 33

/-- The checks of R375. -/
def State.frameOk (s : State) (b : Block) (f : Frame) : Bool :=
  (f.record.extractLsb' 48 16 == (s.ctx b.slot).asid) && (f.record.extractLsb' 352 19 == b.owner) &&
  !(3 ≤ recKindOf f.record && recKindOf f.record ≤ 7) && f.rpc < 2 ^ 56 && f.rpc % 8 == 0 &&
  (!f.isGate ||
    (some (BitVec.ofNat 56 f.rpc) == b.gate &&
      match b.freeze with
      | none => false
      | some z => (recDone z.record &&& ~~~(recDone f.record)) == 0#8 && recBaddr f.record == z.baddr.toNat))

/-- HOME of a frame (R371). -/
def Frame.home (f : Frame) : Bool := f.word / 2 ^ 21 % 2 == 1
/-- Thread `tid` restored from its frame (R354, R375): registers, predicates, flags, amax, HOME, PRIV and the pc; NEST decreases. Results
still pending would land in registers that the frame restores (R109). A gate frame's thread returns to sleep at its gate. -/
def Thread.restore (t : Thread) (tid : Nat) (f : Frame) : Thread :=
  { (({ t with regs := [], pend := [] } : Thread).setRun 0 f.regs) with
    preds := BitVec.ofNat 16 f.word &&& 0xFFFE#16, flags := BitVec.ofNat 5 (f.word / 2 ^ 16), amax := f.amax, home := f.home,
    barge := if f.home then tid / 16 else t.barge, sys := f.word / 2 ^ 22 % 2 == 1, nest := t.nest - 1#4, pc := BitVec.ofNat 56 f.rpc,
    status := if f.isGate then .asleep else .active }

/-- One lane's return (R354): the thread, and for a gate frame the done bits that the handler has set. -/
def State.restoreLane (s : State) (blk tid : Nat) (f : Frame) : State :=
  s.modBlock blk fun b =>
    { b with
      threads := b.threads.modify tid fun t => t.restore tid f
      freeze := if f.isGate then b.freeze.map fun z => { z with done := z.done ||| recDone f.record } else b.freeze }

end Sys2Proof.Machine
end

