-- ==== Sys2Proof/Machine/Fp.lean ====
section
/-! DEFINITION. Number formats, Round and the sticky flags (04_number_formats.md). Exact reals are rationals; every operation
is computed exactly and rounded once by `roundTo`. -/

namespace Sys2Proof.Machine

/-- The sticky flags (R101): [4] invalid, [3] division by zero, [2] overflow, [1] underflow, [0] inexact. -/
abbrev Flags := BitVec 5
/-- The invalid flag (R101). -/
def fInvalid : Flags := 0x10#5
/-- The division-by-zero flag (R101). -/
def fDivZero : Flags := 0x08#5
/-- The overflow flag (R101). -/
def fOverflow : Flags := 0x04#5
/-- The underflow flag (R101). -/
def fUnderflow : Flags := 0x02#5
/-- The inexact flag (R101). -/
def fInexact : Flags := 0x01#5

/-- A value of a floating format (R90): a NaN, signalling or quiet (R92), an infinity, or a sign with an exact magnitude. -/
inductive FVal where
  | nan (sig : Bool)
  | inf (neg : Bool)
  | fin (neg : Bool) (mag : Rat)
  deriving DecidableEq, Repr

/-- What a floating format is (R89): fraction bits, exponent bits and bias. -/
structure Fmt where
  w : Nat
  e : Nat
  bias : Nat
  deriving DecidableEq, Repr

/-- F32 (R89). -/
def fmtF32 : Fmt := { w := 23, e := 8, bias := 127 }
/-- F16 (R89). -/
def fmtF16 : Fmt := { w := 10, e := 5, bias := 15 }
/-- BF16 (R89). -/
def fmtBf16 : Fmt := { w := 7, e := 8, bias := 127 }
/-- F8A (R89); it has no infinity (R90). -/
def fmtF8a : Fmt := { w := 3, e := 4, bias := 7 }
/-- F8B (R89). -/
def fmtF8b : Fmt := { w := 2, e := 5, bias := 15 }

/-- The format of a floating type code; F32 for a code that is not floating. -/
def fmtOf : Ty → Fmt
  | .f16 => fmtF16
  | .bf16 => fmtBf16
  | .f8a => fmtF8a
  | .f8b => fmtF8b
  | .s8 | .z8 | .s16 | .z16 | .s32 | .z32 | .f32 | .q8 | .q4 => fmtF32

/-- Bits of a pattern. -/
def Fmt.width (f : Fmt) : Nat := 1 + f.e + f.w
/-- P, the precision (R89). -/
def Fmt.prec (f : Fmt) : Nat := f.w + 1
/-- Emin, the exponent of the smallest normal value (R89). -/
def Fmt.emin (f : Fmt) : Int := 1 - (f.bias : Int)
/-- F8A is the format whose all-ones exponent holds normal values (R90). -/
def Fmt.noInf (f : Fmt) : Bool := f == fmtF8a

/-- 2^e as an exact rational. -/
def pow2 (e : Int) : Rat :=
  match e with
  | .ofNat n => ((2 ^ n : Nat) : Rat)
  | .negSucc n => mkRat 1 (2 ^ (n + 1))

/-- MaxFin(F), the largest finite value (R91). -/
def Fmt.maxFin (f : Fmt) : Rat :=
  if f.noInf then 448 else (2 - pow2 (-(f.w : Int))) * pow2 (f.bias : Int)

/-- The canonical NaN (R91). -/
def Fmt.canonNan (f : Fmt) : Nat :=
  if f.noInf then 0x7F else ((2 ^ f.e - 1) * 2 + 1) * 2 ^ (f.w - 1)

/-- The value of a pattern (R90, R92). -/
def Fmt.decode (f : Fmt) (b : Nat) : FVal :=
  let neg := (b / 2 ^ (f.e + f.w)) % 2 == 1
  let ex := (b / 2 ^ f.w) % 2 ^ f.e
  let fr := b % 2 ^ f.w
  if ex = 0 then .fin neg ((fr : Rat) * pow2 (f.emin - f.w))
  else if ex = 2 ^ f.e - 1 && !f.noInf then
    if fr = 0 then .inf neg else .nan (f.w != 2 && fr < 2 ^ (f.w - 1))
  else if f.noInf && ex = 15 && fr = 7 then .nan false
  else .fin neg (((2 ^ f.w + fr : Nat) : Rat) * pow2 ((ex : Int) - f.bias - f.w))

/-- The integer e with 2^e ≤ a < 2^(e+1), for a > 0. -/
def floorLog2 (a : Rat) : Int :=
  let e : Int := (a.num.natAbs.log2 : Int) - (a.den.log2 : Int)
  if pow2 e ≤ a then e else e - 1

/-- The pattern of a value that the format holds exactly (R90, R91); an infinity of F8A, which has none, is its NaN. -/
def Fmt.encode (f : Fmt) (v : FVal) : Nat :=
  let s (neg : Bool) : Nat := if neg then 2 ^ (f.e + f.w) else 0
  match v with
  | .nan _ => f.canonNan
  | .inf neg => if f.noInf then f.canonNan else s neg + (2 ^ f.e - 1) * 2 ^ f.w
  | .fin neg a =>
    if a = 0 then s neg
    else if floorLog2 a < f.emin then s neg + (a / pow2 (f.emin - f.w)).floor.toNat
    else s neg + ((floorLog2 a + f.bias).toNat * 2 ^ f.w + ((a / pow2 (floorLog2 a - f.w)).floor.toNat - 2 ^ f.w))

/-- Which of the two neighbours a rounding takes (R97): `below` says how a stands to the middle, `even` that lo is even. -/
def takesHi (m : Rm) (neg : Bool) (below : Ordering) (even : Bool) : Bool :=
  match m with
  | .rne => match below with
    | .lt => false
    | .gt => true
    | .eq => !even
  | .rtz => false
  | .rup => !neg
  | .rdn => neg

/-- How two rationals compare. -/
def ratCmp (a b : Rat) : Ordering := if a < b then .lt else if a = b then .eq else .gt

/-- Rounding of a magnitude a > 0 to a multiple of q (R97): the multiple, and whether it is exact. -/
def roundMul (a q : Rat) (m : Rm) (neg : Bool) : Rat × Bool :=
  let k := (a / q).floor
  let lo := q * (k : Rat)
  if a = lo then (a, true)
  else if takesHi m neg (ratCmp (a - lo) (lo + q - a)) (k % 2 == 0) then (lo + q, false) else (lo, false)

/-- Overflow(F, s, m, ovf) (R97). -/
def overflowVal (f : Fmt) (neg : Bool) (m : Rm) (o : Ovf) : FVal :=
  if f.e + f.w = 7 then
    match o with
    | .sat => .fin neg f.maxFin
    | .nan => .nan false
    | .inf => .inf neg
  else
    match m with
    | .rne => .inf neg
    | .rtz => .fin neg f.maxFin
    | .rup => if neg then .fin neg f.maxFin else .inf neg
    | .rdn => if neg then .inf neg else .fin neg f.maxFin

/-- Round(x, F, m, ovf) of the non-zero value with sign `neg` and magnitude a (R97), with the flags it sets. -/
def roundMag (f : Fmt) (m : Rm) (o : Ovf) (neg : Bool) (a : Rat) : FVal × Flags :=
  let e := if floorLog2 a < f.emin then f.emin else floorLog2 a
  let r := roundMul a (pow2 (e - f.prec + 1)) m neg
  let fl : Flags := if r.2 then 0#5 else if a < pow2 f.emin then fInexact ||| fUnderflow else fInexact
  if f.maxFin < r.1 then (overflowVal f neg m o, fl ||| fOverflow ||| fInexact) else (.fin neg r.1, fl)

/-- Round of an exact real x; `zneg` is the sign the operation gives an exact zero (R98). -/
def roundTo (f : Fmt) (m : Rm) (o : Ovf) (x : Rat) (zneg : Bool) : FVal × Flags :=
  if x = 0 then (.fin zneg 0, 0#5)
  else if x < 0 then roundMag f m o true (-x) else roundMag f m o false x

/-- RoundInt(x, m) (R97): the integer, and whether it is exact. -/
def roundInt (x : Rat) (m : Rm) : Int × Bool :=
  if x < 0 then
    let r := roundMul (-x) 1 m true
    (-r.1.floor, r.2)
  else
    let r := roundMul x 1 m false
    (r.1.floor, r.2)

/-- The exact real of a sign and a magnitude. -/
def sgn (neg : Bool) (a : Rat) : Rat := if neg then -a else a

/-- A NaN. -/
def FVal.isNan : FVal → Bool
  | .nan _ => true
  | .inf _ | .fin _ _ => false
/-- A signalling NaN (R92). -/
def FVal.isSig : FVal → Bool
  | .nan s => s
  | .inf _ | .fin _ _ => false
/-- The sign bit of a value that is not a NaN. -/
def FVal.neg : FVal → Bool
  | .nan _ => false
  | .inf n | .fin n _ => n
/-- A zero. -/
def FVal.isZero : FVal → Bool
  | .fin _ a => a == 0
  | .nan _ | .inf _ => false
/-- The value with its sign flipped. -/
def FVal.negate : FVal → FVal
  | .nan s => .nan s
  | .inf n => .inf (!n)
  | .fin n a => .fin (!n) a

/-- A term of an exact sum: a NaN-free product or operand, with its sign; none for an infinity times zero. -/
def mulVal (a b : FVal) : Option FVal :=
  match a, b with
  | .nan s, _ => some (.nan s)
  | _, .nan s => some (.nan s)
  | .inf n, .fin m y => if y = 0 then none else some (.inf (n != m))
  | .fin n x, .inf m => if x = 0 then none else some (.inf (n != m))
  | .inf n, .inf m => some (.inf (n != m))
  | .fin n x, .fin m y => some (.fin (n != m) (x * y))

/-- The result of an invalid operation or of a NaN input. -/
def quietNan : FVal := .nan false

/-- The sign of an exact zero sum of terms (R98, R128): the terms' sign when all have it, else minus under RDN. -/
def zeroSign (m : Rm) (ts : List FVal) : Bool :=
  if ts.all FVal.neg then true else if ts.all (!·.neg) then false else m == .rdn
/-- The sign of an exact zero sum of three terms of `fdot2` (R128). -/
def dotZero (m : Rm) (ts : List FVal) : Bool := ts.all FVal.neg || m == .rdn

/-- The exact real of a finite value; 0 of any other. -/
def FVal.real : FVal → Rat
  | .fin n a => sgn n a
  | .nan _ | .inf _ => 0

/-- The infinities among terms: both signs at once are invalid. -/
def infSign (ts : List FVal) : Option (Option Bool) :=
  let p := ts.any (· == .inf false)
  let n := ts.any (· == .inf true)
  if p && n then none else if p then some (some false) else if n then some (some true) else some none

/-- Round of the exact sum of terms (R125, R126, R128), with the sign that an exact zero takes. A term that is none is an invalid product. A NaN
term comes before infinite terms of unlike signs, whose invalid flag it then leaves clear: the manual does not give that case (log 77). -/
def sumRoundWith (zero : Rm → List FVal → Bool) (f : Fmt) (m : Rm) (ts : List (Option FVal)) : FVal × Flags :=
  if ts.any (·.isNone) then (quietNan, fInvalid)
  else
    let vs := ts.filterMap id
    if vs.any FVal.isNan then (quietNan, if vs.any FVal.isSig then fInvalid else 0#5)
    else match infSign vs with
      | none => (quietNan, fInvalid)
      | some (some n) => (.inf n, 0#5)
      | some none => roundTo f m .sat (vs.foldl (fun x v => x + v.real) 0) (zero m vs)
/-- The same for the sums of R125 and R126. -/
def sumRound (f : Fmt) (m : Rm) (ts : List (Option FVal)) : FVal × Flags := sumRoundWith zeroSign f m ts

/-- The flag that signalling operands set in a thread-set float instruction (R92). -/
def sigFlag (vs : List FVal) : Flags := if vs.any FVal.isSig then fInvalid else 0#5
/-- The flag that any NaN operand sets in every other operation (R92). -/
def nanFlag (vs : List FVal) : Flags := if vs.any FVal.isNan then fInvalid else 0#5

/-- The sum of the matrix array, the tile units and `atom.fadd` (R174, R92, R98): any NaN is invalid, an exact zero is +0, one
rounding to nearest even. -/
def sumZero (f : Fmt) (ts : List (Option FVal)) : FVal × Flags :=
  if ts.any (·.isNone) then (quietNan, fInvalid)
  else
    let vs := ts.filterMap id
    if vs.any FVal.isNan then (quietNan, fInvalid)
    else match infSign vs with
      | none => (quietNan, fInvalid)
      | some (some n) => (.inf n, 0#5)
      | some none => roundTo f .rne .sat (vs.foldl (fun x v => x + v.real) 0) false

/-- a + b (R126). -/
def fAdd (f : Fmt) (m : Rm) (a b : FVal) : FVal × Flags :=
  let r := sumRound f m [some a, some b]
  (r.1, r.2 ||| sigFlag [a, b])
/-- a - b (R126). -/
def fSub (f : Fmt) (m : Rm) (a b : FVal) : FVal × Flags := fAdd f m a b.negate
/-- a × b (R126). -/
def fMul (f : Fmt) (m : Rm) (a b : FVal) : FVal × Flags :=
  let r := sumRound f m [mulVal a b]
  (r.1, r.2 ||| sigFlag [a, b])
/-- a × b + c, rounded once (R126); an invalid product is invalid even when the addend is a quiet NaN (R125). -/
def fFma (f : Fmt) (m : Rm) (a b c : FVal) : FVal × Flags :=
  let r := sumRound f m [mulVal a b, some c]
  (r.1, r.2 ||| sigFlag [a, b, c])
/-- a.lo × b.lo + a.hi × b.hi + c (R128). -/
def fDot2 (f : Fmt) (m : Rm) (al bl ah bh c : FVal) : FVal × Flags :=
  let r := sumRoundWith dotZero f m [mulVal al bl, mulVal ah bh, some c]
  (r.1, r.2 ||| sigFlag [al, bl, ah, bh, c])

/-- a × 2^k (R126). Beyond ±1,000 the exponent no longer changes the rounded result of any format, so it is cut there. -/
def fScale (f : Fmt) (m : Rm) (a : FVal) (k : Int) : FVal × Flags :=
  match a with
  | .nan s => (quietNan, if s then fInvalid else 0#5)
  | .inf n => (.inf n, 0#5)
  | .fin n x =>
    if x = 0 then (.fin n x, 0#5)
    else roundMag f m .sat n (x * pow2 (if k < -1000 then -1000 else if 1000 < k then 1000 else k))

/-- a < b for operands that are not NaN, with -0 equal to +0. -/
def fLt (a b : FVal) : Bool :=
  match a, b with
  | .nan _, _ => false
  | _, .nan _ => false
  | .inf true, .inf true => false
  | .inf true, _ => true
  | _, .inf true => false
  | .inf false, _ => false
  | .fin _ _, .inf false => true
  | .fin n x, .fin m y => sgn n x < sgn m y
/-- a = b for operands that are not NaN, with -0 equal to +0. -/
def fEq (a b : FVal) : Bool :=
  match a, b with
  | .inf n, .inf m => n == m
  | .fin n x, .fin m y => sgn n x == sgn m y
  | .nan _, _ => false
  | _, .nan _ => false
  | .inf _, .fin _ _ => false
  | .fin _ _, .inf _ => false

/-- The order of `fmin` and `fmax`, with -0 below +0 (R127). -/
def fLtZ (a b : FVal) : Bool := fLt a b || (a.isZero && b.isZero && a.neg && !b.neg)

/-- `fmin` and `fmax` on patterns (R127): the result is an operand's pattern, or the canonical NaN. -/
def fMinMax (f : Fmt) (isMax : Bool) (pa pb : Nat) : Nat × Flags :=
  let a := f.decode pa
  let b := f.decode pb
  let fl := sigFlag [a, b]
  if a.isNan && b.isNan then (f.canonNan, fl)
  else if a.isNan then (pb, fl)
  else if b.isNan then (pa, fl)
  else if isMax then (if fLtZ a b then pb else pa, fl) else (if fLtZ b a then pb else pa, fl)

/-- The class mask (R129). -/
def fClass (f : Fmt) (p : Nat) : BitVec 10 :=
  match f.decode p with
  | .nan s => if s then 0x100#10 else 0x200#10
  | .inf n => if n then 0x001#10 else 0x080#10
  | .fin n a =>
    if a = 0 then (if n then 0x008#10 else 0x010#10)
    else if a < pow2 f.emin then (if n then 0x004#10 else 0x020#10)
    else (if n then 0x002#10 else 0x040#10)

/-- `frnd` (R130): an integral value in the same format, the sign kept on a zero. -/
def fRnd (m : Rm) (x : Bool) (a : FVal) : FVal × Flags :=
  match a with
  | .nan s => (quietNan, if s then fInvalid else 0#5)
  | .inf n => (.inf n, 0#5)
  | .fin n v =>
    if v = 0 then (.fin n v, 0#5)
    else
      let r := roundMul v 1 m n
      (.fin n r.1, if x && !r.2 then fInexact else 0#5)

/-- The float conditions (R121). -/
def fCond (c : FCond) (a b : FVal) : Bool :=
  let un := a.isNan || b.isNan
  match c with
  | .eq => fEq a b
  | .ne => un || !fEq a b
  | .lt => fLt a b
  | .ge => !un && !fLt a b
  | .uo => un
  | .ord => !un
  | .le => fLt a b || fEq a b
  | .gt => !un && !(fLt a b || fEq a b)

/-- The value of a conversion to a floating format, with its flags (R94, R100, R131). `exact` says that the pair of formats
is exact, or the same. A zero keeps its sign (R98; log 24). -/
def convFloat (f : Fmt) (m : Rm) (o : Ovf) (exact : Bool) (v : FVal) : FVal × Flags :=
  match v with
  | .nan _ => (quietNan, fInvalid)
  | .inf n =>
    if exact || f.e + f.w != 7 then (.inf n, 0#5)
    else match o with
      | .sat => (.fin n f.maxFin, fOverflow ||| fInexact)
      | .nan => (quietNan, fOverflow ||| fInexact)
      | .inf => (.inf n, 0#5)
  | .fin n a => if a = 0 then (.fin n 0, 0#5) else if exact then (.fin n a, 0#5) else roundMag f m o n a

/-- Sat(x, lo, hi) (R9). -/
def satInt (x lo hi : Int) : Int := if x < lo then lo else if hi < x then hi else x

/-- The conversion codes of `cvt` to s8-s32 and z8-z32 (R99). -/
def convInt (m : Rm) (lo hi : Int) (v : FVal) : Int × Flags :=
  match v with
  | .nan _ => (0, fInvalid)
  | .inf n => (if n then lo else hi, fInvalid)
  | .fin n a =>
    let r := roundInt (sgn n a) m
    if satInt r.1 lo hi != r.1 then (satInt r.1 lo hi, fInvalid)
    else (r.1, if r.2 then 0#5 else fInexact)

/-- `quant` (R99, R133): the code of x with scale s and zero point z, saturated to lo..hi after z is added. -/
def quantCode (m : Rm) (x s : FVal) (z lo hi : Int) : Int × Flags :=
  match s with
  | .nan _ => (z, fInvalid)
  | .inf _ => (z, fInvalid)
  | .fin ns as =>
    if as = 0 then (z, fInvalid)
    else match x with
      | .nan _ => (z, fInvalid)
      | .inf n => (if n != ns then lo else hi, fOverflow ||| fInexact)
      | .fin n a =>
        let r := roundInt (sgn n a / sgn ns as) m
        let c := r.1 + z
        if satInt c lo hi != c then (satInt c lo hi, fOverflow ||| fInexact)
        else (c, if r.2 then 0#5 else fInexact)

/-- `deq` (R134): s × (code - z), rounded to F32. The spec states no sign for an exact zero whose scale and difference differ in sign:
it is a free value of the operands, so that agreeing runs agree on it (R98, R2; log 6, 24). -/
def deqVal (m : Rm) (s : FVal) (code z : Int) : FVal × Flags :=
  let d := code - z
  let zero := Config.zeroSign (fmtF32.encode s) ((code + 256) * 512 + z).toNat
  match s with
  | .nan _ => (quietNan, fInvalid)
  | .inf n => if d = 0 then (quietNan, fInvalid) else (.inf (n != decide (d < 0)), 0#5)
  | .fin n a => roundTo fmtF32 m .sat (sgn n a * (d : Rat)) (n != decide (d < 0) && ((d != 0 && a != 0) || zero))

/-- The range of an integer type (R95). -/
def intRange : Ty → Int × Int
  | .s8 => (-128, 127)
  | .z8 | .q8 => (0, 255)
  | .s16 => (-32768, 32767)
  | .z16 => (0, 65535)
  | .s32 => (-2147483648, 2147483647)
  | .z32 | .f32 | .f16 | .bf16 | .f8a | .f8b => (0, 4294967295)
  | .q4 => (0, 15)

/-- A signed integer type (R95). -/
def tySigned : Ty → Bool
  | .s8 | .s16 | .s32 => true
  | .z8 | .z16 | .z32 | .f32 | .f16 | .bf16 | .f8a | .f8b | .q8 | .q4 => false

/-- The value of an element pattern under a type of codes 0 to 10 (R90, R95). -/
def elemVal (t : Ty) (p : Nat) : FVal :=
  if t.isFloat then (fmtOf t).decode p
  else
    let n := t.bits
    let i : Int := if tySigned t && 2 ^ (n - 1) ≤ p then (p : Int) - (2 ^ n : Nat) else (p : Int)
    .fin (decide (i < 0)) (i.natAbs : Rat)

/-- Conversions between floating formats that are exact, and a format to itself (R94, R131). -/
def exactConv (ts td : Ty) : Bool :=
  ts.isFloat && (ts == td || td == .f32 || (ts.isF8 && (td == .f16 || td == .bf16)))

/-- The F32 pattern of a finite magnitude, which every source of at most 32 bits has exactly (R105). -/
def amaxOf (v : FVal) : Option W32 :=
  match v with
  | .fin _ a => some (BitVec.ofNat 32 (fmtF32.encode (.fin false a)))
  | .nan _ | .inf _ => none

/-- amax := max(amax, |v|); a NaN or an infinity leaves it unchanged (R105). Patterns of non-negative values order as the
values do. -/
def amaxMerge (old : W32) (v : FVal) : W32 :=
  match amaxOf v with
  | none => old
  | some m => if old < m then m else old

end Sys2Proof.Machine
end

