-- ==== Sys2Proof/Machine/Flags.lean ====
section
/-! DEFINITION. Every flag computation: the sticky flags and amax of a thread (04_number_formats.md R101, R102, R105), the carry
and the conditions of the integer instructions (R77, R116), and the FFLAGS registers of a tile context (R103, R104). -/

namespace Sys2Proof.Machine

/-- Flags merged into `$fflags` (R102). -/
def Thread.raise (t : Thread) (fl : Flags) : Thread := { t with flags := t.flags ||| fl }
/-- `$amax` updated over the inputs of an operation (R105). -/
def Thread.amaxOver (t : Thread) (vs : List FVal) : Thread := { t with amax := vs.foldl amaxMerge t.amax }

/-- The integer conditions (R77) on operands of any width. -/
def condHolds {w : Nat} (c : Cond) (a b : BitVec w) : Bool :=
  match c with
  | .eq => a == b
  | .ne => a != b
  | .lt => a.slt b
  | .ge => !a.slt b
  | .ltu => a.ult b
  | .geu => !a.ult b
  | .le => !b.slt a
  | .gt => b.slt a

/-- The carry of a + b + ci: whether it reaches 2^32 (R116). -/
def carryOut (a b : W32) (ci : Bool) : Bool := 4294967296 ≤ a.toNat + b.toNat + ci.toNat
/-- The borrow of a - b - ci: whether it is negative (R116). -/
def borrowOut (a b : W32) (ci : Bool) : Bool := a.toNat < b.toNat + ci.toNat

/-- Bits of FFLAGSn above the flags: FEN is bit 5, FEV bit 6, FES bit 7, FEA [63:10] (R103). An event captures its bundle and
slot when FEN = 1 and FEV = 0 (R104). -/
def mergeFflags (old : W64) (fl : Flags) (baddr : Addr) (fes : Bool) : W64 :=
  if fl = 0#5 then old
  else
    let o := old ||| fl.setWidth 64
    if o.getLsbD 5 && !o.getLsbD 6 then
      (baddr.extractLsb' 2 54) ++ (o.extractLsb' 8 2) ++ BitVec.ofBool fes ++ 1#1 ++ (o.extractLsb' 0 6)
    else o

/-- The flag register of a slot (R103): 0 S, 1 M, 2 X, 3 Y, 4 C, 5 F. -/
def slotFflags (slot : Nat) : Nat :=
  match slot with
  | 0 => 0
  | 1 => 0
  | 2 => 1
  | 3 => 1
  | 4 => 2
  | 5 => 3
  | 6 => 4
  | _ => 5

/-- Flags merged into a tile context's register for a slot (R102, R104). -/
def Tile.raise (t : Tile) (slot : Nat) (baddr : Addr) (fl : Flags) : Tile :=
  let n := slotFflags slot
  let v := mergeFflags (Tbl.get 0#64 t.fflags n) fl baddr (slot == 1 || slot == 3)
  { t with fflags := Tbl.put 0#64 t.fflags n v }

end Sys2Proof.Machine
end

