-- ==== Sys2Proof/Machine/Alu.lean ====
section
/-! DEFINITION. The integer and immediate instructions of the thread set (05_thread_instructions.md R112-R119): the value
functions, then one meaning per instruction. -/

namespace Sys2Proof.Machine

open Host (Outcome)

/-- The outcome of an instruction that only writes registers of its issued lanes. -/
def lanesNext (s : State) (g : Guard) (f : Nat → Thread → Thread) : Outcome State Fault Refusal := .next (s.lanes g f)

/-- A shift amount is b[7:0] (R113). -/
def shiftAmt (b : W32) : Nat := (b.setWidth 8).toNat
/-- The 64-bit product of two registers, signed or unsigned (R113). -/
def wideMul (u : Bool) (a b : W32) : W64 :=
  if u then a.setWidth 64 * b.setWidth 64 else a.signExtend 64 * b.signExtend 64
/-- Leading zero bits, from bit n - 1 down (R114). -/
def clzFrom (a : W32) : Nat → Nat
  | 0 => 0
  | n + 1 => if a.getLsbD n then 0 else clzFrom a n + 1
/-- One bits among the lowest n (R114). -/
def popcTo (a : W32) : Nat → Nat
  | 0 => 0
  | n + 1 => popcTo a n + (a.getLsbD n).toNat
/-- pos and the width inside the register of a bit field (R115). -/
def bfPos (b : W32) : Nat := (b.setWidth 5).toNat
/-- The width of a bit field, cut at bit 31 (R115). -/
def bfWidth (b : W32) : Nat := Nat.min (Nat.min (b.extractLsb' 8 6).toNat 32) (32 - bfPos b)
/-- A mask of the lowest w bits. -/
def lowMask (w : Nat) : W32 := BitVec.ofNat 32 (2 ^ w - 1)
/-- `bfx` (R115). -/
def bfxVal (sx : Bool) (a b : W32) : W32 :=
  let w := bfWidth b
  let f := (a >>> bfPos b) &&& lowMask w
  if sx && 0 < w && f.getLsbD (w - 1) then f ||| ~~~lowMask w else f
/-- `bfi` (R115). -/
def bfiVal (a b c : W32) : W32 :=
  let m := lowMask (bfWidth b) <<< bfPos b
  (c &&& ~~~m) ||| ((a <<< bfPos b) &&& m)
/-- Byte i of a word, extended as an integer (R118). -/
def byteInt (sx : Bool) (a : W64) (i : Nat) : Int :=
  if sx then (a.extractLsb' (8 * i) 8).toInt else ((a.extractLsb' (8 * i) 8).toNat : Int)
/-- The exact dot product of n bytes with an addend (R118). -/
def dotInt (sa sb : Bool) (a b : W64) (c : W32) (n : Nat) : Int :=
  (List.range n).foldl (fun s i => s + byteInt sa a i * byteInt sb b i) c.toInt
/-- The result of `idot4` and `idot8`: saturated or wrapped (R118). -/
def dotVal (o : DotOp) (a b : W64) (c : W32) (n : Nat) : W32 :=
  let s := dotInt o.sa o.sb a b c n
  if o.sat then BitVec.ofInt 32 (satInt s (-2147483648) 2147483647) else BitVec.ofInt 32 s
/-- The smaller or larger of two registers (R113). -/
def minVal (u : Bool) (a b : W32) : W32 := if (if u then b.ult a else b.slt a) then b else a
/-- The larger of two registers (R113). -/
def maxVal (u : Bool) (a b : W32) : W32 := if (if u then a.ult b else a.slt b) then b else a
/-- |a| with a signed (R114). -/
def absVal (sat : Bool) (a : W32) : W32 :=
  if a = 0x80000000#32 then (if sat then 0x7FFFFFFF#32 else a) else if a.getLsbD 31 then -a else a
/-- A right shift, filled with zeros or with the sign (R113). -/
def shrVal {w : Nat} (ar : Bool) (a : BitVec w) (n : Nat) : BitVec w := if ar then a.sshiftRight n else a >>> n

/-- d := f a b on 32-bit registers. -/
def alu3 (o : R3) (f : W32 → W32 → W32) (s : State) : Outcome State Fault Refusal :=
  lanesNext s o.g fun _ t => t.set o.d.toNat (f (t.get o.a.toNat) (t.get o.b.toNat))
/-- d := f m a b on 32-bit registers with a modifier bit m. -/
def alu3f (o : R3f) (f : Bool → W32 → W32 → W32) (s : State) : Outcome State Fault Refusal :=
  lanesNext s o.g fun _ t => t.set o.d.toNat (f o.f (t.get o.a.toNat) (t.get o.b.toNat))
/-- d := f a. -/
def alu2 (o : R2) (f : W32 → W32) (s : State) : Outcome State Fault Refusal :=
  lanesNext s o.g fun _ t => t.set o.d.toNat (f (t.get o.a.toNat))
/-- d := f a b c. -/
def alu4 (o : R4) (f : W32 → W32 → W32 → W32) (s : State) : Outcome State Fault Refusal :=
  lanesNext s o.g fun _ t => t.set o.d.toNat (f (t.get o.a.toNat) (t.get o.b.toNat) (t.get o.c.toNat))
/-- d := f a with an immediate. -/
def aluImm (o : ImmOp) (f : W32 → W32) (s : State) : Outcome State Fault Refusal :=
  lanesNext s o.g fun _ t => t.set o.d.toNat (f (t.get o.a.toNat))

/-- `nop` (R114). -/
def execNop (g : Guard) (s : State) : Outcome State Fault Refusal := lanesNext s g fun _ t => t
/-- `add` (R113). -/
def execAdd (o : R3) (s : State) : Outcome State Fault Refusal := alu3 o (· + ·) s
/-- `sub` (R113). -/
def execSub (o : R3) (s : State) : Outcome State Fault Refusal := alu3 o (· - ·) s
/-- `mul` (R113). -/
def execMul (o : R3) (s : State) : Outcome State Fault Refusal := alu3 o (· * ·) s
/-- `mulh` (R113). -/
def execMulh (o : R3f) (s : State) : Outcome State Fault Refusal :=
  alu3f o (fun u a b => (wideMul u a b).extractLsb' 32 32) s
/-- `mulw` (R113): the pair D receives the exact product. -/
def execMulw (o : R3f) (s : State) : Outcome State Fault Refusal :=
  lanesNext s o.g fun _ t => t.set64 o.d.toNat (wideMul o.f (t.get o.a.toNat) (t.get o.b.toNat))
/-- `mad` (R113). -/
def execMad (o : R4) (s : State) : Outcome State Fault Refusal := alu4 o (fun a b c => a * b + c) s
/-- `and` (R113). -/
def execAnd (o : R3) (s : State) : Outcome State Fault Refusal := alu3 o (· &&& ·) s
/-- `or` (R113). -/
def execOr (o : R3) (s : State) : Outcome State Fault Refusal := alu3 o (· ||| ·) s
/-- `xor` (R113). -/
def execXor (o : R3) (s : State) : Outcome State Fault Refusal := alu3 o (· ^^^ ·) s
/-- `andn` (R113): a and not b. -/
def execAndn (o : R3) (s : State) : Outcome State Fault Refusal := alu3 o (fun a b => a &&& ~~~b) s
/-- `shl` (R113). -/
def execShl (o : R3) (s : State) : Outcome State Fault Refusal := alu3 o (fun a b => a <<< shiftAmt b) s
/-- `shr` (R113). -/
def execShr (o : R3f) (s : State) : Outcome State Fault Refusal := alu3f o (fun ar a b => shrVal ar a (shiftAmt b)) s
/-- `rot` (R113). -/
def execRot (o : R3f) (s : State) : Outcome State Fault Refusal :=
  alu3f o (fun right a b => if right then a.rotateRight (b.toNat % 32) else a.rotateLeft (b.toNat % 32)) s
/-- `min` (R113). -/
def execMin (o : R3f) (s : State) : Outcome State Fault Refusal := alu3f o minVal s
/-- `max` (R113). -/
def execMax (o : R3f) (s : State) : Outcome State Fault Refusal := alu3f o maxVal s
/-- `abs` (R114). -/
def execAbs (o : R2f) (s : State) : Outcome State Fault Refusal :=
  lanesNext s o.g fun _ t => t.set o.d.toNat (absVal o.f (t.get o.a.toNat))
/-- `clz` (R114). -/
def execClz (o : R2) (s : State) : Outcome State Fault Refusal := alu2 o (fun a => BitVec.ofNat 32 (clzFrom a 32)) s
/-- `popc` (R114). -/
def execPopc (o : R2) (s : State) : Outcome State Fault Refusal := alu2 o (fun a => BitVec.ofNat 32 (popcTo a 32)) s
/-- `brev` (R114). -/
def execBrev (o : R2) (s : State) : Outcome State Fault Refusal := alu2 o BitVec.reverse s
/-- `bfx` (R115). -/
def execBfx (o : R3f) (s : State) : Outcome State Fault Refusal := alu3f o bfxVal s
/-- `bfi` (R115). -/
def execBfi (o : R4) (s : State) : Outcome State Fault Refusal := alu4 o bfiVal s

/-- The carry-in of `addx` and `subx` (R116). With CE = 0 the field CIN has no effect, whatever it holds: the manual does not say that it must be
zero (log 78). -/
def carryIn (o : CarryOp) (t : Thread) : Bool := o.ce && t.pred o.cin
/-- `addx` (R116). -/
def execAddx (o : CarryOp) (s : State) : Outcome State Fault Refusal :=
  lanesNext s o.g fun _ t =>
    let a := t.get o.a.toNat
    let b := t.get o.b.toNat
    let ci := carryIn o t
    (t.set o.d.toNat (a + b + (BitVec.ofBool ci).setWidth 32)).setPred o.co (carryOut a b ci)
/-- `subx` (R116); the carry out is the borrow. -/
def execSubx (o : CarryOp) (s : State) : Outcome State Fault Refusal :=
  lanesNext s o.g fun _ t =>
    let a := t.get o.a.toNat
    let b := t.get o.b.toNat
    let ci := carryIn o t
    (t.set o.d.toNat (a - b - (BitVec.ofBool ci).setWidth 32)).setPred o.co (borrowOut a b ci)

/-- Pair D := f A64 B64. -/
def alu64 (o : R3) (f : W64 → W64 → W64) (s : State) : Outcome State Fault Refusal :=
  lanesNext s o.g fun _ t => t.set64 o.d.toNat (f (t.get64 o.a.toNat) (t.get64 o.b.toNat))
/-- `add.64` (R113). -/
def execAdd64 (o : R3) (s : State) : Outcome State Fault Refusal := alu64 o (· + ·) s
/-- `sub.64` (R113). -/
def execSub64 (o : R3) (s : State) : Outcome State Fault Refusal := alu64 o (· - ·) s
/-- `mul.64` (R113). -/
def execMul64 (o : R3) (s : State) : Outcome State Fault Refusal := alu64 o (· * ·) s
/-- `shl.64` (R113); B names one register. -/
def execShl64 (o : R3) (s : State) : Outcome State Fault Refusal :=
  lanesNext s o.g fun _ t => t.set64 o.d.toNat (t.get64 o.a.toNat <<< shiftAmt (t.get o.b.toNat))
/-- `shr.64` (R113); B names one register. -/
def execShr64 (o : R3f) (s : State) : Outcome State Fault Refusal :=
  lanesNext s o.g fun _ t => t.set64 o.d.toNat (shrVal o.f (t.get64 o.a.toNat) (shiftAmt (t.get o.b.toNat)))
/-- `lea` (R117). -/
def execLea (o : LeaOp) (s : State) : Outcome State Fault Refusal :=
  lanesNext s o.g fun _ t =>
    let b := t.get o.b.toNat
    t.set64 o.d.toNat (t.get64 o.a.toNat + ((if o.sx then b.signExtend 64 else b.setWidth 64) <<< o.sh.toNat))
/-- `idot4` (R118). -/
def execIdot4 (o : DotOp) (s : State) : Outcome State Fault Refusal :=
  lanesNext s o.g fun _ t =>
    t.set o.d.toNat (dotVal o ((t.get o.a.toNat).setWidth 64) ((t.get o.b.toNat).setWidth 64) (t.get o.c.toNat) 4)
/-- `idot8` (R118); A and B name pairs. -/
def execIdot8 (o : DotOp) (s : State) : Outcome State Fault Refusal :=
  lanesNext s o.g fun _ t => t.set o.d.toNat (dotVal o (t.get64 o.a.toNat) (t.get64 o.b.toNat) (t.get o.c.toNat) 8)

/-- `addi` (R119). -/
def execAddi (o : ImmOp) (s : State) : Outcome State Fault Refusal := aluImm o (· + o.imm) s
/-- `andi` (R119). -/
def execAndi (o : ImmOp) (s : State) : Outcome State Fault Refusal := aluImm o (· &&& o.imm) s
/-- `ori` (R119). -/
def execOri (o : ImmOp) (s : State) : Outcome State Fault Refusal := aluImm o (· ||| o.imm) s
/-- `xori` (R119). -/
def execXori (o : ImmOp) (s : State) : Outcome State Fault Refusal := aluImm o (· ^^^ o.imm) s
/-- `muli` (R119). -/
def execMuli (o : ImmOp) (s : State) : Outcome State Fault Refusal := aluImm o (· * o.imm) s
/-- `shli` (R119). -/
def execShli (o : ShiftImm) (s : State) : Outcome State Fault Refusal :=
  lanesNext s o.g fun _ t => t.set o.d.toNat (t.get o.a.toNat <<< o.n.toNat)
/-- `shri` (R119). -/
def execShri (o : ShiftImm) (s : State) : Outcome State Fault Refusal :=
  lanesNext s o.g fun _ t => t.set o.d.toNat (shrVal o.ar (t.get o.a.toNat) o.n.toNat)
/-- `movi` (R119). -/
def execMovi (o : MoviOp) (s : State) : Outcome State Fault Refusal := lanesNext s o.g fun _ t => t.set o.d.toNat o.imm
/-- `movih` (R119): the immediate above the lower half of a. -/
def execMovih (o : MovihOp) (s : State) : Outcome State Fault Refusal :=
  lanesNext s o.g fun _ t => t.set o.d.toNat (o.imm ++ (t.get o.a.toNat).setWidth 16)

/-- `cmpi` (R120). -/
def execCmpi (o : CmpiOp) (s : State) : Outcome State Fault Refusal :=
  lanesNext s o.g fun _ t => t.setPreds o.pd o.pe (condHolds o.cond (t.get o.a.toNat) o.imm)
/-- `cmp` on integers (R120). -/
def execCmp (o : CmpOp) (s : State) : Outcome State Fault Refusal :=
  lanesNext s o.g fun _ t => t.setPreds o.pd o.pe (condHolds o.cond (t.get o.a.toNat) (t.get o.b.toNat))
/-- `plog` (R122): bit 2 pa + pb of the truth table. -/
def execPlog (o : PlogOp) (s : State) : Outcome State Fault Refusal :=
  lanesNext s o.g fun _ t => t.setPreds o.pd o.pe (o.tt.getLsbD (2 * (t.pred o.pa).toNat + (t.pred o.pb).toNat))
/-- `p2d` (R123): bit 0 is always 1. -/
def execP2d (o : P2dOp) (s : State) : Outcome State Fault Refusal :=
  lanesNext s o.g fun _ t => t.set o.d.toNat ((t.preds ||| 1#16).setWidth 32)
/-- `d2p` (R123): the predicates 1 to 15 that the mask names. -/
def execD2p (o : D2pOp) (s : State) : Outcome State Fault Refusal :=
  lanesNext s o.g fun _ t =>
    let m : BitVec 16 := o.mask ++ 0#1
    { t with preds := (t.preds &&& ~~~m) ||| ((t.get o.a.toNat).setWidth 16 &&& m) }
/-- `sel` (R124). -/
def execSel (o : SelOp) (s : State) : Outcome State Fault Refusal :=
  lanesNext s o.g fun _ t =>
    let r := (if t.pred o.s != o.n then o.a else o.b).toNat
    if o.w then t.set64 o.d.toNat (t.get64 r) else t.set o.d.toNat (t.get r)
/-- `mov` (R139). -/
def execMov (o : R2f) (s : State) : Outcome State Fault Refusal :=
  lanesNext s o.g fun _ t => if o.f then t.set64 o.d.toNat (t.get64 o.a.toNat) else t.set o.d.toNat (t.get o.a.toNat)
/-- Byte i of `perm`'s result (R136). -/
def permByte (ab : W64) (c : W32) (i : Nat) : Byte :=
  let k := c.extractLsb' (4 * i) 4
  if k.getLsbD 3 then 0#8 else ab.extractLsb' (8 * (k.setWidth 3).toNat) 8
/-- `perm` (R136). -/
def execPerm (o : R4) (s : State) : Outcome State Fault Refusal :=
  alu4 o (fun a b c => permByte (b ++ a) c 3 ++ permByte (b ++ a) c 2 ++ permByte (b ++ a) c 1 ++ permByte (b ++ a) c 0) s

end Sys2Proof.Machine
end

