-- ==== Sys2Proof/Machine/Special.lean ====
section
/-! DEFINITION. Special registers and the exchange between lanes (05_thread_instructions.md R140, R141; 03_encodings.md R75). -/

namespace Sys2Proof.Machine

open Host (Outcome)

/-- The lane cluster of a thread (R33). -/
def Block.clusterOf (b : Block) (tid : Nat) : Nat := (b.lc + tid / 16) % 8
/-- The lane of a thread (R33). -/
def Block.laneOf (b : Block) (tid : Nat) : Nat := 16 * b.clusterOf tid + tid % 16
/-- `$scr` (R75, R152). -/
def Block.scrAddr (b : Block) : Nat := 0x00FF000000000000 + (if b.scrLen = 0 then 0 else b.scrOff)

/-- The value of a special register (R75), as a pair for the 64-bit ones. -/
def specialVal (s : State) (b : Block) (tid : Nat) (t : Thread) : Special → W64
  | .tid => BitVec.ofNat 64 tid
  | .bid0 => (b.bid.getD 0 0#32).setWidth 64
  | .bid1 => (b.bid.getD 1 0#32).setWidth 64
  | .bid2 => (b.bid.getD 2 0#32).setWidth 64
  | .bid3 => (b.bid.getD 3 0#32).setWidth 64
  | .lane => BitVec.ofNat 64 (b.laneOf tid)
  | .clu => BitVec.ofNat 64 (b.clusterOf tid)
  | .core => BitVec.ofNat 64 (b.core % 96)
  | .die => BitVec.ofNat 64 (b.core / 96)
  | .dev => BitVec.ofNat 64 s.fabricNum
  | .scr => BitVec.ofNat 64 b.scrAddr
  | .clock => BitVec.ofNat 64 s.clock
  | .amax => t.amax.setWidth 64
  | .fflags => t.flags.setWidth 64

/-- The special registers of 64 bits (R75). -/
def specialWide : Special → Bool
  | .scr | .clock => true
  | .tid | .bid0 | .bid1 | .bid2 | .bid3 | .lane | .clu | .core | .die | .dev | .amax | .fflags => false

/-- The clearing form of `rds` (R140). -/
def specialClear (n : Special) (t : Thread) : Thread :=
  match n with
  | .amax => { t with amax := 0#32 }
  | .fflags => { t with flags := 0#5 }
  | .tid | .bid0 | .bid1 | .bid2 | .bid3 | .lane | .clu | .core | .die | .dev | .scr | .clock => t

/-- `rds` (R140): the register is read and then, with CLR, cleared. -/
def execRds (o : RdsOp) (s : State) : Outcome State Fault Refusal :=
  match s.block s.cur.blk with
  | none => .next s
  | some b => lanesNext s o.g fun tid t =>
    let v := specialVal s b tid t o.name
    let t' := if specialWide o.name then t.set64 o.d.toNat v else t.set o.d.toNat (v.setWidth 32)
    if o.clr then specialClear o.name t' else t'

/-- The width of a segment (R141). -/
def segWidth : Seg → Nat
  | .w16 => 16
  | .w8 => 8
  | .w4 => 4
  | .w2 => 2
  | .w1 => 1

/-- The source position of `shfl` for position u and lane operand e (R141). -/
def shflPos (m : ShflMode) (w u e : Nat) : Nat :=
  let base := u - u % w
  match m with
  | .idx => base + e % w
  | .up => if u < base + e then u else u - e
  | .down => if base + w ≤ u + e then u else u + e
  | .xor => base + Nat.xor u e % w

/-- The source thread of a lane of `shfl` (R141). -/
def shflSrc (o : ShflOp) (tid : Nat) (t : Thread) : Nat :=
  tid - tid % 16 + shflPos o.mode (segWidth o.seg) (tid % 16) (if o.i then o.k.toNat else (t.get o.b.toNat).toNat)
/-- `shfl` (R141): register A of the thread at position j of the home barge, as it stands at issue. Outside the home barge
the value is undefined (02_execution_model.md R42): a free value (log 6). -/
def execShfl (o : ShflOp) (s : State) : Outcome State Fault Refusal :=
  match s.block s.cur.blk with
  | none => .next s
  | some b =>
    lanesNext { s with free := s.free + 1024 } o.g fun tid t =>
      let v := match b.threads[shflSrc o tid t]? with
        | none => Config.freeBits (s.free + tid) 32
        | some x => if t.home && x.home then x.get o.a.toNat else Config.freeBits (s.free + tid) 32
      t.set o.d.toNat v

end Sys2Proof.Machine
end

