-- ==== Sys2Proof/Machine/Control.lean ====
section
/-! DEFINITION. Control instructions (05_thread_instructions.md R142-R147) and what they do to barges, basins and the lock
(02_execution_model.md R36-R48). -/

namespace Sys2Proof.Machine

open Host (Outcome)

/-! ### Branches -/

/-- The target of a direct branch (R63). -/
def jTarget (pc : Addr) (off : W32) : Addr := pc + (off.signExtend 56 <<< 3)
/-- Lanes whose guard reads true go where f says; the others go on (R142). -/
def branchLanes (s : State) (g : Guard) (f : Thread → Thread) : State :=
  s.onLanes fun _ t => if t.guard g then f t else t.advance
/-- `br` (R142). -/
def execBr (o : BrOp) (s : State) : Outcome State Fault Refusal :=
  .next (branchLanes s o.g fun t => { t with pc := jTarget t.pc o.off })
/-- `call` (R142): the link pair receives the address of the next instruction. -/
def execCall (o : BrDOp) (s : State) : Outcome State Fault Refusal :=
  .next (branchLanes s o.g fun t =>
    { (t.set64 o.d.toNat ((t.pc + 8#56).setWidth 64)) with pc := jTarget t.pc o.off })
/-- `brc` (R142): the count decreases, and the branch is taken unless it reaches 0. -/
def execBrc (o : BrDOp) (s : State) : Outcome State Fault Refusal :=
  .next (branchLanes s o.g fun t =>
    let d := t.get o.d.toNat - 1#32
    { (t.set o.d.toNat d) with pc := if d = 0#32 then t.pc + 8#56 else jTarget t.pc o.off })

/-- A pair that is no address of a thread instruction: bits [63:56] or [2:0] non-zero (R143). -/
def badTarget (a : W64) : Bool := a.extractLsb' 56 8 != 0#8 || a.extractLsb' 0 3 != 0#3
/-- The issued lanes whose guard reads true and of which p holds. -/
def State.lanesWhere (s : State) (g : Guard) (p : Thread → Bool) : List Nat :=
  (s.active g).filter fun tid => (s.thread s.cur.blk tid).any p

/-- An indirect branch (R143): ALIGN at the branch when some lane's target is none, its record with VA 0, which the manual leaves open (log 76). -/
def indirect (o : RegOp) (s : State) : Outcome State Fault Refusal :=
  match s.lanesWhere o.g fun t => badTarget (t.get64 o.a.toNat) with
  | [] => .next (branchLanes s o.g fun t => { t with pc := (t.get64 o.a.toNat).setWidth 56 })
  | bad => .next (s.faultLanes o.g bad (stopBare .align))
/-- `brx` (R143). -/
def execBrx (o : RegOp) (s : State) : Outcome State Fault Refusal := indirect o s
/-- `ret` (R143): as `brx`; the mark it gives the fetch unit changes no result. -/
def execRet (o : RegOp) (s : State) : Outcome State Fault Refusal := indirect o s

/-! ### Basins -/

/-- The key of the basin a thread is filed in. -/
def Thread.basin? (t : Thread) : Option (Addr × Nat × Nat) :=
  match t.status with
  | .waiting (.basin k f o) => some (k, f, o)
  | .active | .asleep | .exited | .stalled _ => none
  | .waiting .bar | .waiting .rejoin | .waiting .gate | .waiting (.barw _ _) | .waiting (.mem _ _ _) | .waiting (.vwait _ _)
  | .waiting (.queue _ _ _) | .waiting (.cwait _ _) | .waiting (.tileBar _) | .waiting (.idle _) | .waiting (.tba _) => none

/-- The threads filed in a basin of a block, by lane cluster and key: (thread, cycle, order). -/
def Block.basin (b : Block) (clu : Nat) (key : Addr) : List (Nat × Nat × Nat) :=
  b.threads.zipIdx.filterMap fun x =>
    match x.1.basin? with
    | some (k, f, o) => if k = key ∧ b.clusterOf x.2 = clu then some (x.2, f, o) else none
    | none => none

/-- The thread filed first among those of one lane. -/
def firstFiled (l : List (Nat × Nat × Nat)) : Option Nat :=
  (l.foldl (fun (best : Option (Nat × Nat)) x =>
    match best with
    | some (_, o) => if x.2.2 < o then some (x.1, x.2.2) else best
    | none => some (x.1, x.2.2)) none).map Prod.fst

/-- The threads a barge takes from a basin: for each lane, the one filed first (R39, R40). -/
def Block.basinTakes (b : Block) (clu : Nat) (key : Addr) : List Nat :=
  (List.range 16).filterMap fun l => firstFiled ((b.basin clu key).filter fun x => x.1 % 16 == l)

/-- A barge formed from a basin (R39, R40): its threads become candidates under a new number. -/
def Block.formBarge (b : Block) (clu : Nat) (key : Addr) : Block :=
  let l := b.basinTakes clu key
  if l = [] then b
  else
    { b with
      threads := b.threads.mapIdx fun tid t => if l.contains tid then { t with status := .active, barge := b.nextBarge } else t
      nextBarge := b.nextBarge + 1 }

/-- The cycle at which the oldest thread of a basin was filed (R40). -/
def Block.basinAge (b : Block) (clu : Nat) (key : Addr) : Option Nat :=
  (b.basin clu key).foldl (fun m x => some (match m with | none => x.2.1 | some y => Nat.min x.2.1 y)) none

/-- The basins of a lane cluster of a core: block, key and the oldest filing (R38). -/
def State.basins (s : State) (core clu : Nat) : List (Nat × Addr × Nat) :=
  s.blocks.flatMap fun e =>
    match e.2 with
    | none => []
    | some b =>
      if b.core = core && b.life != .launched then
        ((b.threads.zipIdx.filterMap fun x =>
          match x.1.basin? with
          | some (k, _, _) => if b.clusterOf x.2 = clu then some k else none
          | none => none).dedup).filterMap fun k => (b.basinAge clu k).map fun f => (e.1, k, f)
      else []

/-- The oldest of the basins of a lane cluster. -/
def oldestBasin (l : List (Nat × Addr × Nat)) : Option (Nat × Addr) :=
  (l.foldl (fun (best : Option (Nat × Addr × Nat)) x =>
    match best with
    | some y => if x.2.2 < y.2.2 then some x else best
    | none => some x) none).map fun x => (x.1, x.2.1)

/-- The oldest basins of a lane cluster form partial barges until it holds at most 31 (R38). A basin that leaves threads behind still
counts, so that the next oldest forms (log 65). -/
def State.makeRoom (s : State) (core clu : Nat) : Nat → State
  | 0 => s
  | n + 1 =>
    let l := s.basins core clu
    if l.length < 32 then s
    else
      match oldestBasin l with
      | none => s
      | some (ob, ok) => State.makeRoom (s.modBlock ob fun x => x.formBarge clu ok) core clu n
/-- A thread filed in the basin of its continuation address (R38): before a 33rd basin of a lane cluster opens, the oldest forms. -/
def State.file (s : State) (blk tid : Nat) (key : Addr) : State :=
  match s.block blk with
  | none => s
  | some b =>
    let clu := b.clusterOf tid
    let s := if (s.basins b.core clu).any fun x => x.1 == blk && x.2.1 == key then s else s.makeRoom b.core clu 128
    s.modBlock blk fun b =>
      { b with
        threads := b.threads.modify tid fun t =>
          { t with home := false, pc := key, status := .waiting (.basin key s.clock b.nextFile) }
        nextFile := b.nextFile + 1 }

/-- Basins with threads in all 16 lanes form full barges, again and again (R39); with AGE 0 every basin forms (R40). -/
def Block.formFull (b : Block) (age0 : Bool) : Nat → List (Nat × Addr) → Block
  | 0, _ => b
  | n + 1, l =>
    let b' := l.foldl (fun (b : Block) x =>
      if (b.basinTakes x.1 x.2).length = 16 || age0 then b.formBarge x.1 x.2 else b) b
    Block.formFull b' age0 n l

/-- The basins of one block after a filing. -/
def State.settleBasins (s : State) (blk : Nat) (keys : List (Nat × Addr)) : State :=
  match s.block blk with
  | none => s
  | some b => s.modBlock blk fun x => x.formFull ((s.ctx b.slot).age == 0#16) 64 keys

/-- `reform` (R144, R38): each lane whose guard reads true is filed by its continuation address. -/
def reformLanes (s : State) (g : Guard) (key : Thread → Addr) : State :=
  match s.block s.cur.blk with
  | none => s
  | some b =>
    let l := (s.active g).filterMap fun tid => b.threads[tid]?.map fun t => (tid, key t)
    let s' := s.onLanes fun _ t => if t.guard g then t else t.advance
    (l.foldl (fun s x => s.file s.cur.blk x.1 x.2) s').settleBasins s.cur.blk (l.map fun x => (b.clusterOf x.1, x.2))
/-- The direct `reform` (R144). -/
def execReformDirect (o : OffOp) (s : State) : Outcome State Fault Refusal :=
  .next (reformLanes s o.g fun t => jTarget t.pc o.off)
/-- The indirect `reform` (R144), checked as `brx`. -/
def execReformIndirect (o : RegOp) (s : State) : Outcome State Fault Refusal :=
  match s.lanesWhere o.g fun t => badTarget (t.get64 o.a.toNat) with
  | [] => .next (reformLanes s o.g fun t => (t.get64 o.a.toNat).setWidth 56)
  | bad => .next (s.faultLanes o.g bad (stopBare .align))
/-- BASIN_AGE_EXPIRY: a basin whose age reaches AGE forms a partial barge (R40). -/
def execBasinAgeExpiry (blk clu : Nat) (key : Addr) (s : State) : Outcome State Fault Refusal :=
  match s.block blk with
  | none => .next s
  | some b =>
    match b.basinAge clu key with
    | none => .next s
    | some f => if f + (s.ctx b.slot).age.toNat ≤ s.clock then .next (s.modBlock blk fun x => x.formBarge clu key) else .next s

/-! ### Waits of a block's threads on one another -/

/-- A thread that has not exited waits at a `rejoin` or at a gate. -/
def Thread.atRejoin (t : Thread) : Bool := t.status == .exited || t.status == .waiting .rejoin || t.status == .waiting .gate
/-- The tiles for which some of the threads that meet have passed a `tbw`: all of them are ordered after it (R211, R227, log 75). -/
def passedTiles (l : List Thread) : BitVec 64 := l.foldl (fun v t => v ||| t.tiles) 0#64
/-- A home barge whose live threads all wait at a `rejoin` or at a gate re-forms (R41): those at a `rejoin` go on. Its exited threads are
in it too, for a `shfl` that reads them (R141). -/
def Block.reformHome (b : Block) (k : Nat) : Block :=
  if (b.threads.zipIdx.all fun x => x.2 / 16 != k || x.1.atRejoin) then
    let u := passedTiles ((b.threads.zipIdx.filter fun x => x.2 / 16 == k && x.1.status == .waiting .rejoin).map Prod.fst)
    { b with threads := b.threads.mapIdx fun tid t =>
        if tid / 16 = k then
          let t := { t with home := true, barge := k }
          if t.status = .waiting .rejoin then { t.advance with status := .active, tiles := u } else t
        else t }
  else b
/-- When every live thread waits at a `bar`, all resume, each after its own (R145). -/
def Block.releaseBar (b : Block) : Block :=
  if (b.threads.any fun t => t.status == .waiting .bar) &&
      (b.threads.all fun t => t.status == .exited || t.status == .waiting .bar) then
    let u := passedTiles (b.threads.filter fun t => t.status == .waiting .bar)
    { b with threads := b.threads.map fun t => if t.status = .waiting .bar then { t.advance with status := .active, tiles := u } else t }
  else b
/-- Every live thread of the block waits at a gate, and some thread is live (R43). -/
def Block.allAtGate (b : Block) : Bool :=
  (b.threads.any fun t => t.status == .waiting .gate) &&
  (b.threads.all fun t => t.status == .exited || t.status == .waiting .gate)
/-- Lanes whose guard reads true wait; the others pass (R145). -/
def waitLanes (s : State) (g : Guard) (w : Wait) : State :=
  s.onLanes fun _ t => if t.guard g then { t with status := .waiting w } else t.advance
/-- The home barges of lanes. -/
def homesOf (l : List Nat) : List Nat := (l.map (· / 16)).dedup

/-- `rejoin` (R145, R41). -/
def execRejoin (g : Guard) (s : State) : Outcome State Fault Refusal :=
  .next ((waitLanes s g .rejoin).modBlock s.cur.blk fun b => (homesOf (s.active g)).foldl (fun b k => b.reformHome k) b)
/-- `bar` (R145). -/
def execBar (g : Guard) (s : State) : Outcome State Fault Refusal :=
  .next ((waitLanes s g .bar).modBlock s.cur.blk Block.releaseBar)

/-! ### The lock -/

/-- An entry of a map descriptor (R44). -/
structure MapEntry where
  valid : Bool
  view : Nat
  map : BitVec 2
  dreg : Nat
  nreg : Nat
  /-- A reserved field is non-zero, or V = 0 with any other field non-zero. -/
  bad : Bool
  deriving DecidableEq, Repr

/-- A map-descriptor entry from its word (R44). -/
def mapEntry (w : W32) : MapEntry :=
  { valid := w.getLsbD 31, view := (w.extractLsb' 24 4).toNat, map := w.extractLsb' 20 2, dreg := (w.extractLsb' 8 8).toNat,
    nreg := (w.extractLsb' 0 8).toNat,
    bad := if w.getLsbD 31 then w.extractLsb' 28 3 != 0#3 || w.extractLsb' 22 2 != 0#2 || w.extractLsb' 16 4 != 0#4
           else w != 0#32 }

/-- Two ranges of numbers meet. -/
def rangesMeet (a n b m : Nat) : Bool := a < b + m && b < a + n

/-- The checks of R45 on the entries of a descriptor. -/
def descriptorOk (b : Block) (l : List MapEntry) : Bool :=
  let n := b.bsize / 128
  let vs := l.filter (·.valid)
  l.all (fun e => !e.bad) &&
  vs.all (fun e => b.bsize % 128 == 0 && e.view + n ≤ 16 && e.nreg == (if e.map.getLsbD 0 then 8 else 4) &&
    e.dreg + e.nreg ≤ b.nregs) &&
  (vs.zipIdx.all fun x => vs.zipIdx.all fun y =>
    x.2 == y.2 || (!rangesMeet x.1.view n y.1.view n && !rangesMeet x.1.dreg x.1.nreg y.1.dreg y.1.nreg))

/-- The views a descriptor binds (R46). -/
def descriptorViews (b : Block) (l : List MapEntry) : Tbl (Option View) :=
  (l.filter (·.valid)).foldl (fun t e =>
    (List.range (b.bsize / 128)).foldl (fun t i =>
      Tbl.put none t (e.view + i) (some { map := e.map, dreg := e.dreg, tid0 := 128 * i })) t) []

/-- What keeps a lock from being entered. -/
inductive GateStop where
  | stop (f : Stop)
  | ok (views : Tbl (Option View)) (entry : Addr) (arg : W64) (s : State)

/-- The gate's operands and descriptor, taken from the live thread with the lowest `$tid` (R146, R44, R45). The entry address is checked
before the descriptor, an order that the manual leaves open (log 68); a block without a context comes first, as it has no lock to enter.
A read for another device's memory is one of thread `who`. -/
def State.gateCheck (s : State) (blk : Nat) (b : Block) (who : Nat) : GateStop :=
  match if b.cx.isNone then none else b.threads.find? fun t => t.status != .exited with
  | none => .stop (stopBare .ill)
  | some t =>
    let desc := (t.get64 b.gateOps.1.toNat).toNat
    let entry := t.get64 b.gateOps.2.1.toNat
    if entry.extractLsb' 56 8 ≠ 0#8 || entry.extractLsb' 0 2 ≠ 0#2 then .stop (stopAt .align entry.toNat)
    else if desc / 2 ^ 56 ≠ 0 then .stop (xlatAt 3 desc)
    else if desc % 64 ≠ 0 then .stop (stopAt .align desc)
    else
      match s.virtRead (b.party blk t.sys who) desc 64 with
      | .error f => .stop f
      | .ok (l, s') =>
        let es := (words32 16 l).map mapEntry
        if descriptorOk b es then .ok (descriptorViews b es) (entry.setWidth 56) (t.get64 b.gateOps.2.2.toNat) s'
        else .stop (stopBare .arg)

/-- The lock is entered (R43, R47, R48): views are bound, k1 takes the argument, the context starts, the threads sleep. -/
def Block.enterLock (b : Block) (views : Tbl (Option View)) (entry : Addr) (arg : W64) : Block :=
  { b with
    inLock := true
    threads := b.threads.map fun t => if t.status = .waiting .gate then { t.land with status := .asleep } else t
    tile := { b.tile with views := views, baddr := entry, k := Tbl.put 0#64 b.tile.k 1 arg, wait := none, delay := none } }

/-- A block whose live threads all wait at a gate enters the lock, unless its pre-emption is requested (R56); a fault of the
gate is reported against the lanes `who` (R45, R146). -/
def State.tryLock (s : State) (blk : Nat) (who : List Nat) : State :=
  match s.block blk with
  | none => s
  | some b =>
    if !b.allAtGate || b.preempt.isSome || b.killed || b.inLock then s
    else
      let pc := b.gate.getD 0#56
      let s0 : State := { s with cur := { s.cur with blk := blk, lanes := who, pc := pc } }
      match s.gateCheck blk b (who.headD 0) with
      | .ok views entry arg s' => s'.modBlock blk fun b => b.enterLock views entry arg
      | .stop (.fault c n va pa d) =>
        { s0.faultAll who who (.fault c n va pa d) with cur := s.cur }
      | .stop (.busy _) => s
      | .stop (.away a) => { s0.awayLanes [(who.headD 0, .away a)] with cur := s.cur }
      | .stop (.park ptea va posts) => { s0.parkLanes (who.map fun l => (l, .park ptea va posts)) with cur := s.cur }

/-- `gate` (R146, R43): ILL at another address than the first barge's, then PRIV at system privilege (R320, R79);
else the lanes wait, their home barges re-form, and the last arrival enters the lock. -/
def execGate (o : GateOp) (s : State) : Outcome State Fault Refusal :=
  match s.block s.cur.blk with
  | none => .next s
  | some b =>
    let l := s.active o.g
    let others := b.threads.any fun t => t.status == .waiting .gate
    if l ≠ [] && others && b.gate != some s.cur.pc then .next (s.faultLanes o.g l (stopBare .ill))
    else if s.lanesAt true ≠ [] then .next (s.faultDecode (stopBare .priv))
    else if l = [] then .next (s.lanes o.g fun _ t => t)
    else
      let s1 := (waitLanes s o.g .gate).modBlock s.cur.blk fun b =>
        (homesOf l).foldl (fun b k => b.reformHome k)
          { b with gate := some s.cur.pc, gateOps := (o.a, o.b, o.c) }
      .next (s1.tryLock s.cur.blk l)

/-- The lanes a gate's fault is reported against when an exit completes the lock (R45): those waiting in the home barge of the
waiting thread with the lowest `$tid`. -/
def Block.gateLanes (b : Block) : List Nat :=
  let w := b.threads.zipIdx.filterMap fun x => if x.1.status = .waiting .gate then some x.2 else none
  match w with
  | [] => []
  | t :: _ => w.filter fun x => x / 16 == t / 16

/-- A context frozen by a tile fault resumes when no live thread is in the handler (R373): its block runs again. -/
def Block.resumeCtx (b : Block) : Block :=
  if b.life = .frozen && b.threads.all (fun t => t.status == .exited || t.status == .asleep) then
    { b with life := .running }
  else b

/-! ### Tile barriers -/

/-- The number of element (r, c) of tile t in the accumulator; side word w stands at c = 32 + w. -/
def accIdx (t r c : Nat) : Nat := 2048 * t + 34 * r + c
/-- The number of the amax word of tile t (+ 0), its KARR (+ 1), CARR (+ 2) and the marks of R211 (+ 3). -/
def accSide (t k : Nat) : Nat := 2048 * t + 1200 + k
/-- A word of the accumulator. -/
def Tile.accWord (x : Tile) (i : Nat) : W32 := Tbl.get 0#32 x.acc i
/-- A word of the accumulator written. -/
def Tile.setAcc (x : Tile) (i : Nat) (v : W32) : Tile := { x with acc := Tbl.put 0#32 x.acc i v }
/-- KARR - CARR of tile t, modulo 2^16 (R208): 1 with the correction block, 0 with the keeper. -/
def Tile.withCorrection (x : Tile) (t : Nat) : Bool :=
  (x.accWord (accSide t 1) - x.accWord (accSide t 2)).setWidth 16 == 1#16

/-- The arrival of the correction block (R209): CARR advances, and the `tbw` of this phase counts no more. -/
def Tile.corrArrive (x : Tile) (t : Nat) : Tile :=
  (x.setAcc (accSide t 2) ((x.accWord (accSide t 2) + 1#32) &&& 0xFFFF#32)).setAcc (accSide t 3) (x.accWord (accSide t 3) &&& 1#32)

/-- The block whose context a block's correction threads serve (R298). -/
def State.served (s : State) (b : Block) : Option (Nat × Block) :=
  b.serves.bind fun x => (s.block x).map fun y => (x, y)
/-- The tiles at whose `tba` the threads of a block wait, when every thread that has not exited waits at one (R209). -/
def Block.tbaTiles (b : Block) : Option (List Nat) :=
  if b.threads.all fun t => t.status == .exited || (match t.status with | .waiting (.tba _) => true | _ => false) then
    some (b.threads.filterMap fun t => match t.status with | .waiting (.tba x) => some x | _ => none).dedup
  else none
/-- A `tba` that every thread has reached completes (R209): CARR advances and the threads go on, ordered after no `tbw` of a next phase (R211), or
the lanes `who` take the fault, each at its own `tba`. -/
def State.releaseTba (s : State) (blk : Nat) (who : List Nat) : State :=
  match s.block blk with
  | none => s
  | some b =>
    let pc := ((b.threads[who.headD 0]?).map (·.pc)).getD 0#56
    let s0 : State := { s with cur := { s.cur with blk := blk, lanes := who, pc := pc } }
    let fail (c : Code) : State := { s0.faultAll who who (stopBare c) with cur := s.cur }
    match b.tbaTiles with
    | none | some [] => s
    | some [t] =>
      match s.served b with
      | none => fail .arg
      | some (x, y) =>
        if !y.tile.withCorrection t then fail .bsy
        else
          (s.modBlock x fun y => { y with tile := y.tile.corrArrive t }).modBlock blk fun b =>
            { b with
              syncs := (b.syncs.map fun e => (e.1, e.2 &&& ~~~(1#64 <<< t))).filter fun e => e.2 != 0#64
              threads := b.threads.map fun u0 =>
                let u := { u0 with tiles := u0.tiles &&& ~~~(1#64 <<< t) }
                if u.status = .waiting (.tba t) then { u.advance with status := .active } else u }
    | some (_ :: _ :: _) => fail .ill
/-- The lanes against which a `tba` completed by an exit is reported (R209): those waiting in the barge in which the waiting thread
with the lowest `$tid` arrived. -/
def Block.tbaLanes (b : Block) : List Nat :=
  let w := b.threads.zipIdx.filterMap fun x => match x.1.status with | .waiting (.tba _) => some (x.2, x.1.barge) | _ => none
  match w with
  | [] => []
  | t :: _ => (w.filter fun x => x.2 == t.2).map Prod.fst

/-- What follows when threads of a block have exited (R145, R41, R43, R57, R209, R373). -/
def State.afterExit (s : State) (blk : Nat) (homes : List Nat) : State :=
  let s := s.modBlock blk fun b =>
    let b := (homes.foldl (fun b k => b.reformHome k) b).releaseBar
    if b.killed then b
    else if b.threads.all (fun t => t.status == .exited) then { b with life := .draining }
    else b.resumeCtx
  match s.block blk with
  | none => s
  | some b =>
    let s1 := s.tryLock blk b.gateLanes
    if b.tbaLanes = [] then s1 else s1.releaseTba blk b.tbaLanes

/-- A thread that has exited (R145): its pending loads are discarded, and its other results land. -/
def Thread.leave (t : Thread) : Thread :=
  { (Thread.land { t with pend := t.pend.filter fun p => !p.load }) with status := .exited, deadline := none }
/-- `exit` (R145). -/
def execExit (g : Guard) (s : State) : Outcome State Fault Refusal :=
  let s1 := s.onLanes fun _ t => if t.guard g then t.leave else t.advance
  .next (s1.afterExit s.cur.blk (homesOf (s.active g)))

/-- `trap` (R147): the handler, resuming after the trap; lanes whose guard reads false go on. -/
def execTrap (o : NumOp) (s : State) : Outcome State Fault Refusal :=
  let l := s.active o.g
  let s1 := s.onLanes fun _ t => if t.guard o.g then t else t.advance
  let r : Rec := { s.threadRec l with kind := 1, num := o.n.toNat }
  .next (s1.enterLanes s.cur.blk l r.bits (s.cur.pc + 8#56))

end Sys2Proof.Machine
end

