-- ==== Sys2Proof/Machine/Debug.lean ====
section
/-! DEFINITION. Stopping a context (18_observation.md R386-R394): breakpoint and watchpoint matches, the stop record, halts and
resumptions through the cross-trigger network, and `brk`. -/

namespace Sys2Proof.Machine

open Host (Outcome)

/-! ### Breakpoints and watchpoints -/

/-- The armed breakpoint of a context at an address of a set (R386, R387), lowest number first, but for those of a mask. -/
def Ctx.bpMatch (c : Ctx) (tile : Bool) (a : Addr) (but : BitVec 8 := 0#8) : Option Nat :=
  (List.range 8).find? fun n =>
    let k := Tbl.get 0#64 c.bpc n
    !but.getLsbD n && k.getLsbD 0 && k.getLsbD 1 == tile && Tbl.get 0#64 c.bpa n == a.setWidth 64 && (tile || a.extractLsb' 0 3 == 0#3) &&
    a.extractLsb' 0 2 == 0#2
/-- The slots a bundle breakpoint holds back (R386): 0 means all eight. -/
def Ctx.bpSlots (c : Ctx) (n : Nat) : BitVec 8 :=
  let m := (Tbl.get 0#64 c.bpc n).extractLsb' 8 8
  if m = 0#8 then 0xFF#8 else m

/-- An access as a watchpoint sees it (R388): its virtual address, absent for physical accesses, its physical address, its bytes
and its kinds. -/
structure Touch where
  va : Option Nat
  pa : Nat
  n : Nat
  rd : Bool
  wr : Bool
  eng : Bool
  /-- `$tid` of the lane that made it. -/
  who : Nat := 0
  deriving DecidableEq, Repr

/-- The address of the lowest byte at which a touch meets a watchpoint (R388, R389). -/
def Ctx.wpMeets (c : Ctx) (i : Nat) (x : Touch) : Option Nat :=
  let k := Tbl.get 0#64 c.wpc i
  let sz := 2 ^ (k.extractLsb' 4 5).toNat
  let base := (Tbl.get 0#64 c.wpa i).toNat / sz * sz
  let start := if k.getLsbD 13 then (if isScr x.pa then none else some x.pa) else x.va
  match start with
  | none => none
  | some a =>
    if k.getLsbD 0 && (!x.eng || k.getLsbD 12) && ((x.rd && k.getLsbD 2) || (x.wr && k.getLsbD 3)) && a < base + sz && base < a + x.n
    then some (Nat.max a base) else none
/-- A touch hits some watchpoint. -/
def Ctx.wpAny (c : Ctx) (x : Touch) : Bool := (List.range 8).any fun i => (c.wpMeets i x).isSome
/-- The hit that is recorded of the accesses of one instruction, bundle or command (R392): of the lowest `$tid` that hits, the first
watchpoint, with the address and the access. -/
def Ctx.wpHit (c : Ctx) (l : List Touch) : Option (Nat × Nat × Touch) :=
  let hits := l.filter c.wpAny
  match (hits.map (·.who)).min? with
  | none => none
  | some w => (List.range 8).findSome? fun i => (hits.filter fun x => x.who == w).findSome? fun x => (c.wpMeets i x).map fun a => (i, a, x)

/-! ### The stop record -/

/-- The fields of a stop record (R391). -/
structure StopRec where
  reason : Nat
  index : Nat := 0
  slot : Nat := 15
  done : Nat := 0
  copy : Bool := false
  exited : Bool := false
  wr : Bool := false
  asid : Nat := 0
  pc : Nat := 0
  baddr : Nat := 0
  va : Nat := 0
  ch : Nat := 0
  xid : Nat := 0
  core : Nat := 0
  own : Nat := 0
  tid : Nat := 0
  /-- The lane cluster of the hitting barge, for its trace record (R397); it is no field of the stop record. -/
  unit : Nat := 0
  deriving DecidableEq, Repr

/-- The 64 bytes of a stop record (R391). -/
def StopRec.bits (r : StopRec) : BitVec 512 :=
  BitVec.ofNat 512 (r.reason % 256 + r.index % 16 * 2 ^ 8 + r.slot % 16 * 2 ^ 12 + r.done % 256 * 2 ^ 16 +
    r.copy.toNat * 2 ^ 24 + r.exited.toNat * 2 ^ 25 + r.wr.toNat * 2 ^ 26 + r.asid % 2 ^ 16 * 2 ^ 32 + r.pc % 2 ^ 64 * 2 ^ 64 +
    r.baddr % 2 ^ 64 * 2 ^ 128 + r.va % 2 ^ 64 * 2 ^ 192 + r.ch % 8 * 2 ^ 256 + r.xid % 2 ^ 32 * 2 ^ 288 +
    r.core % 2 ^ 9 * 2 ^ 320 + r.own % 2 ^ 19 * 2 ^ 352 + r.tid % 2 ^ 32 * 2 ^ 384)

/-- A halt begins (R393), unless one is in progress or the context is halted. -/
def State.startHalt (s : State) (n : Nat) : State :=
  s.modCtx n fun c =>
    if c.halted || c.halt.isSome then c else { c with halt := some { since := s.clock, expired := [] }, stepped := none }
/-- An event that stops a unit: its record is written unless one is held, when MISSED is set (R392), and the halt begins. -/
def State.stopHit (s : State) (n : Nat) (r : StopRec) : State :=
  ((s.trace n r.core { typ := 5, slot := r.slot, info := r.reason, unit := r.unit, addr := r.baddr, info2 := r.index }).modCtx n fun c =>
    if c.dstat.getLsbD 0 then { c with dstat := c.dstat ||| 2#2 }
    else { c with dstat := c.dstat ||| 1#2, stop := r.bits }).startHalt n

/-- The resident block of a context on the lowest core, which is the first unit a halt request stops. -/
def State.firstBlock (s : State) (n : Nat) : Option Block :=
  (s.blocks.filterMap fun e => e.2.filter fun b => b.slot == n && b.life != .launched).foldl
    (fun (m : Option Block) b => match m with
      | none => some b
      | some x => if b.core < x.core then some b else m) none
/-- A halt request (R393): REASON 1 with the CORE of the first unit to stop; of a context without a resident block, no unit stops, and
CORE, OWN and PC are 0 (log 41). -/
def State.haltRequest (s : State) (n : Nat) : State :=
  let c := s.ctx n
  if c.halted || c.halt.isSome then s
  else
    match s.firstBlock n with
    | none => s.stopHit n { reason := 1, asid := c.asid.toNat }
    | some b => s.stopHit n { reason := 1, asid := c.asid.toNat, core := b.core, own := b.owner.toNat,
                              pc := ((b.threads.head?).map (·.pc.toNat)).getD 0 }

/-- A resumption of one block (R393): it returns to the state it left; with SKIPBRK each barge at a `brk` passes it, and a
context at an `fbrk` marks slot 7 done. -/
def Block.resume (b : Block) (skip : Bool) : Block :=
  match b.stoppedFrom with
  | none => b
  | some l =>
    { b with
      life := l, stoppedFrom := none
      threads := b.threads.map fun t =>
        if t.atBrk then { (if skip then t.advance else t) with atBrk := false } else t
      freeze := b.freeze.map fun z => if skip && z.brk && recKindOf z.record == 2 then { z with done := z.done ||| 0x80#8 } else z }
/-- Paused commands of a context go on (R389). -/
def State.resumeCmds (s : State) (n : Nat) : State :=
  let mine (m : Cmd) : Bool := (s.block m.blk).any fun b => b.slot == n
  { s with cores := s.cores.map fun e => (e.1, { e.2 with
      chans := e.2.chans.map fun c => (c.1, { c.2 with cmds := c.2.cmds.map fun m => if mine m then { m with paused := false } else m }) }) }
/-- A unit of a block that could issue in step mode and has not (R393): a barge with a candidate thread, or its context in the lock. -/
def Block.stepLeft (b : Block) (blk : Nat) (l : List (Nat × Nat)) : Bool :=
  !b.killed && (b.life == .resident || b.life == .running || b.life == .frozen) &&
  ((b.threads.any fun t => t.status == .active && !l.contains (blk, t.barge)) ||
   (b.inLock && b.life == .running && b.tile.wait.isNone && b.cx.any fun cx => !l.contains (blk, 1048576 + cx)))
/-- The end of a step (R393): when every unit of the context that could issue has issued, it halts again with REASON 5. `r` is the record of
the unit that stops first. -/
def State.stepDone (s : State) (n : Nat) (r : StopRec) : State :=
  match (s.ctx n).stepped with
  | none => s
  | some l =>
    if s.blocks.any fun e => e.2.any fun b => b.slot == n && b.stepLeft e.1 l then s else s.stopHit n { r with reason := 5, index := 0, tid := 0 }

/-- A resumption (R393): every unit of a halted context goes on; in step mode a context of which none can issue halts again. -/
def State.resumeHalt (s : State) (n : Nat) : State :=
  let c := s.ctx n
  if c.halted then
    let s1 : State := { ((s.resumeCmds n).modCtx n fun c =>
        { c with halted := false, halt := none, stepped := if c.dctl.getLsbD 1 then some [] else none }) with
      blocks := s.blocks.map fun e => (e.1, e.2.map fun b => if b.slot = n then b.resume (c.dctl.getLsbD 0) else b) }
    s1.stepDone n { reason := 5, asid := c.asid.toNat, core := ((s.firstBlock n).map (·.core)).getD 0, own := ((s.firstBlock n).map (·.owner.toNat)).getD 0 }
  else s

/-- NOSTOP of a barge's threads, issuing or waiting, defers a halt until it is cleared or its time is over (R394). -/
def Halt.defers (h : Halt) (b : Block) (blk key : Nat) : Bool :=
  !h.expired.contains (blk, key) && b.threads.any fun t => t.barge == key && t.noStop && t.status != .exited
/-- A barge is stopped by a halt (R393). -/
def Ctx.stops (c : Ctx) (b : Block) (blk key : Nat) : Bool :=
  c.halted || c.halt.any fun h => !h.defers b blk key
/-- A tile context is stopped by a halt (R393). -/
def Ctx.stopsTile (c : Ctx) : Bool := c.halted || c.halt.isSome

/-- A block that a halt has stopped (R57, R393): one that is launched stays so, and is recorded as stopped. -/
def Block.stop (b : Block) : Block :=
  if b.stoppedFrom.isSome then b
  else { b with stoppedFrom := some b.life, life := if b.life = .launched then .launched else .stopped }
/-- HALT_COMPLETE (R393): once every unit has stopped, a barge that enters a handler after its entry (R394), HALTED is set and the blocks of the context are recorded as stopped. -/
def execHaltComplete (n : Nat) (s : State) : Outcome State Fault Refusal :=
  if 64 ≤ n then .next s
  else
    match (s.ctx n).halt with
    | none => .next s
    | some h =>
      let busy := s.blocks.any fun e => e.2.any fun b =>
        b.slot == n && b.life != .launched && b.threads.any fun t => h.defers b e.1 t.barge || t.entry.isSome
      if busy then .next s
      else
        .next { (s.modCtx n fun c => { c with halted := true, halt := none, stepped := none }) with
                blocks := s.blocks.map fun e => (e.1, e.2.map fun b =>
                  if b.slot = n then b.stop else b) }

/-- NOSTOP_TIMEOUT (R394): 512 cycles after the halt reached it, a barge with NOSTOP stops. -/
def execNostopTimeout (blk tid : Nat) (s : State) : Outcome State Fault Refusal :=
  match s.block blk, s.thread blk tid with
  | some b, some t =>
    .next (s.modCtx b.slot fun c =>
      { c with halt := c.halt.map fun h => if h.since + 512 ≤ s.clock then { h with expired := (blk, t.barge) :: h.expired } else h })
  | _, _ => .next s

/-- The stop record of a barge instruction. -/
def State.threadStop (s : State) (b : Block) (reason index : Nat) : StopRec :=
  { reason, index, slot := 8, asid := (s.ctx b.slot).asid.toNat, pc := s.cur.pc.toNat, baddr := s.cur.pc.toNat, core := b.core,
    own := b.owner.toNat, tid := if reason = 5 then 0 else s.cur.lanes.headD 0, unit := (b.lc + s.cur.lanes.headD 0 / 16) % 8 }
/-- A watchpoint hit by a performed thread instruction (R389): the barge stops before its next instruction. -/
def State.watch (s : State) (b : Block) (l : List Touch) : State :=
  match (s.ctx b.slot).wpHit l with
  | none => s
  | some (i, a, x) => s.stopHit b.slot { s.threadStop b 3 i with va := a, wr := x.wr, tid := x.who }

/-- `brk` (R147): with DSE = 1 it stops the context, standing at the `brk`; otherwise it traps with KIND 2, resuming at it. A
`brk` whose guard reads false on every lane goes on. -/
def execBrk (o : NumOp) (s : State) : Outcome State Fault Refusal :=
  match s.block s.cur.blk with
  | none => .next s
  | some b =>
    if s.active o.g = [] then .next (s.lanes o.g fun _ t => t)
    else if (s.ctx b.slot).dse then
      .next ((s.onLanes fun _ t => { t with atBrk := true }).stopHit b.slot { s.threadStop b 4 0 with tid := (s.active o.g).headD 0 })
    else
      let s1 := s.onLanes fun _ t => if t.guard o.g then t else t.advance
      let r : Rec := { s.threadRec (s.active o.g) with kind := 2, num := o.n.toNat }
      .next (s1.enterLanes s.cur.blk (s.active o.g) r.bits s.cur.pc)

end Sys2Proof.Machine
end

