-- ==== Sys2Proof/Machine/Walks.lean ====
section
/-! DEFINITION. The reach walker's own state (10_reachability.md R251-R254): headers at their homes, walk slots, marks, the ends of a walk,
and the walk-stack region. -/

namespace Sys2Proof.Machine

/-! ### Headers -/

/-- STATE of a header (R243). -/
def hState (h : Nat) : Nat := h / 2 ^ 62 % 4
/-- SCOPE of a header. -/
def hScope (h : Nat) : Nat := h / 2 ^ 59 % 8
/-- OWN of a header. -/
def hOwn (h : Nat) : Nat := h / 2 ^ 40 % 2 ^ 19
/-- LEN of a header. -/
def hLen (h : Nat) : Nat := h / 2 ^ 20 % 2 ^ 20
/-- A header from its fields. -/
def mkHdr (state scope own len user : Nat) : Nat :=
  state % 4 * 2 ^ 62 + scope % 8 * 2 ^ 59 + own % 2 ^ 19 * 2 ^ 40 + len % 2 ^ 20 * 2 ^ 20 + user % 2 ^ 20
/-- A scope's code (R7). -/
def scopeCode : Scope → Nat
  | .block => 0
  | .core => 1
  | .cluster => 2
  | .die => 3
  | .device => 4
  | .system => 5
  | .fabric => 6
/-- A header written at its home; every L1 that holds the line holds it too (R252, log 26). -/
def State.headerStore (s : State) (loc v : Nat) : State :=
  let bs := leBytes 8 v
  let s1 : State := { s with cores := s.cores.map fun e => (e.1, { e.2 with l1 := e.2.l1.map fun x => x.write loc bs }) }
  s1.store loc bs

/-! ### Walk slots -/

/-- A walk slot (R251). -/
def State.walkAt (s : State) (d n : Nat) : Option Walk := Tbl.get none (s.die d).walks n
/-- A walk slot written. -/
def State.putWalk (s : State) (d n : Nat) (w : Option Walk) : State :=
  s.modDie d fun x => { x with walks := Tbl.put none x.walks n w }
/-- The party of a walk (R221). -/
def Walk.party (w : Walk) : Party := { core := w.core, slot := w.slot, blk := w.blk, sys := w.sys, who := w.tid }
/-- The location of a marked object's header, translated as it stands now (R335); where it was found, if it cannot be. -/
def State.markLoc (s : State) (w : Walk) (m : Nat × Nat × List Nat × Nat) : Nat :=
  match s.place w.party m.2.2.2 8 .read with
  | .ok pl => pl.loc
  | .error _ => m.1
/-- Release(M) of R252: the recorded headers are written back in reverse order of marking. -/
def State.releaseMarks (s : State) (w : Walk) : State := w.marked.foldr (fun m s => s.headerStore (s.markLoc w m) m.2.1) s
/-- A walk holds the object whose header lies at a location busy (R258). -/
def State.busyAt (s : State) (loc : Nat) : Bool :=
  s.dies.any fun e => e.2.walks.any fun x => x.2.any fun w => w.marked.any fun m => s.markLoc w m == loc
/-- A walk at the start of an attempt (R252). -/
def Walk.restart (w : Walk) : Walk := { w with marked := [], stack := [w.ref], spill := 0, wounded := none, ready := false }

/-! ### How a `pub` ends -/

/-- A lane of a `pub` has ended its walk. -/
def State.pubEnd (s : State) (w : Walk) (r : PubRes) : State := s.modThread w.blk w.tid fun t => { t with pub := some r }
/-- The fault of a lane, as its thread holds it. -/
def stopRes : Stop → PubRes
  | .fault c n va pa d => .failed c.num n va pa d
  | .park _ va _ => .failed 0 0 va 0 0
  | .away _ | .busy _ => .failed 0 0 0 0 0
/-- The lanes of a barge whose `pub` is in flight, in order of `$lane`, with what each has come to. -/
def Block.pubLanes (b : Block) (key : Nat) : List (Nat × PubRes) :=
  let l := b.threads.zipIdx.filterMap fun x => if x.1.barge = key then x.1.pub.map fun r => (x.2, r) else none
  (List.range 16).flatMap fun i => l.filter fun x => x.1 % 16 == i

/-- When every lane of a `pub` has ended, the barge goes on, or faults as R417 says. -/
def State.settlePub (s : State) (blk key : Nat) : State :=
  match s.block blk with
  | none => s
  | some b =>
    let lanes := b.pubLanes key
    if lanes = [] || lanes.any fun x => x.2 == .run then s
    else
      let s1 := s.modBlock blk fun b => { b with threads := b.threads.map fun t =>
        if t.barge = key && t.pub.isSome then { t with pub := none, status := if t.status = .stalled .pub then .active else t.status }
        else t }
      match lanes.filter fun x => x.2 matches .failed _ _ _ _ _ with
      | (tid, .failed c n va pa d) :: l =>
        let pc := ((b.threads[tid]?).map (·.pc)).getD 0#56
        let who := lanes.filterMap fun x => if x.2 == .skip then none else some x.1
        let r : Rec := { code := c, slot := 8, num := n, asid := (s.ctx b.slot).asid.toNat, pc := pc.toNat, baddr := pc.toNat, va, pa,
                         detail := d, lmask := laneMask (tid :: l.map Prod.fst), imask := laneMask (lanes.map Prod.fst),
                         own := b.owner.toNat, aux := tid, core := b.core }
        s1.enterLanes blk who r.bits pc
      | _ =>
        let pc := (((lanes.head?).bind fun x => b.threads[x.1]?).map (·.pc)).getD 0#56
        let touch := lanes.filterMap fun x => match x.2 with
          | .ok va loc => some ({ va := some va, pa := loc, n := 8, rd := false, wr := true, eng := false, who := x.1 } : Touch)
          | .skip | .run | .failed _ _ _ _ _ => none
        let s2 := s1.modBlock blk fun b =>
          { b with threads := b.threads.mapIdx fun tid t => if lanes.any fun x => x.1 == tid then t.advance else t }
        { (({ s2 with cur := { Cursor.idle with blk, lanes := lanes.map Prod.fst, pc, slot := 8, baddr := pc } } : State).watch b touch) with cur := s.cur }
/-- The lane of a walk has ended: with the last of its barge, the `pub` ends. -/
def State.pubSettled (s : State) (w : Walk) (r : PubRes) : State :=
  let s1 := s.pubEnd w r
  match s1.thread w.blk w.tid with
  | none => s1
  | some t => s1.settlePub w.blk t.barge

/-! ### The walk-stack region (R254) -/

/-- The part of the walk-stack region of a walk slot (R254). -/
def walkPart (d n : Nat) : Nat := 16 * d + n
/-- Bytes of a walk in its part: stack entries and mark records beyond the first 512 of each (R254). -/
def Walk.inUse (w : Walk) : Nat := 8 * (w.stack.length - 512) + 16 * (w.marked.length - 512)
/-- The bytes of a part of a context's region. -/
def State.walkRoom (s : State) (slot : Nat) : Nat := (s.ctx slot).walkstk.toNat % 256 * 1024
/-- The entries of a walk that lie in its part of the region (R254): stack entries up from the bottom, records, each an object's reference and
its saved header, down from the top. -/
def Walk.spilled (w : Walk) (base size : Nat) : List (Nat × List Byte) :=
  ((w.stack.reverse.drop 512).zipIdx.map fun x => (base + 8 * x.2, leBytes 8 x.1)) ++
  ((w.marked.drop 512).zipIdx.map fun x => (base + size - 16 * (x.2 + 1), leBytes 8 x.1.2.2.2 ++ leBytes 8 x.1.2.1))
/-- The spill of a walk written through its context's translation with system privilege (R254). -/
def State.writeSpill (s : State) (d n : Nat) (w : Walk) : Except Stop State :=
  let size := s.walkRoom w.slot
  let base := (s.ctx w.slot).walkstk.toNat / 2 ^ 16 % 2 ^ 40 * 2 ^ 16 + walkPart d n * size
  (w.spilled base size).foldl (fun acc x =>
    match acc with
    | .error e => .error e
    | .ok s => s.virtWrite { w.party with sys := true } x.1 x.2) (.ok s)

/-- A walk that faults (R252): its marks are released and its `pub` fails. -/
def State.failWalk (s : State) (d n : Nat) (w : Walk) (e : Stop) : State :=
  (((s.found e).releaseMarks w).putWalk d n none).pubSettled w (stopRes e)
/-- A walk that is suspended (R254): it keeps its marks, and its `pub` raises WALK, whose record has `va` as its address: of a suspension for
want of room, for which no rule names an address, the destination of the `pub` (log 86). -/
def State.suspendWalk (s : State) (d n : Nat) (w : Walk) (va : Nat) : State :=
  (s.putWalk d n (some { w with suspended := true })).pubSettled w (.failed Code.walk.num 0 va 0 (walkPart d n + w.inUse * 2 ^ 8))
/-- The lanes of the `pub` that a walk serves (R252). -/
def State.pubIssued (s : State) (w : Walk) : List Nat :=
  match s.block w.blk, s.thread w.blk w.tid with
  | some b, some t => (b.pubLanes t.barge).map Prod.fst
  | _, _ => []
/-- A walk whose access parks (R330): the fields of its record are those of its `pub`. -/
def State.parkWalk (s : State) (d n : Nat) (w : Walk) (ptea va : Nat) (posts : Bool) : State :=
  let pc := ((s.thread w.blk w.tid).map (·.pc.toNat)).getD 0
  let r : Rec := { code := Code.xlat.num, kind := 4, slot := 8, num := 1, va, pa := ptea, aux := w.tid, core := w.core,
                   asid := (s.ctx w.slot).asid.toNat, own := ((s.block w.blk).map (·.owner.toNat)).getD 0, pc, baddr := pc,
                   lmask := laneMask [w.tid], imask := laneMask (s.pubIssued w), prv := w.sys }
  let x := s.parkOn ptea posts w.lastPark r.bits
  x.1.putWalk d n (some (if x.2.armed then { w with parked := some (ptea / 128), lastPark := some ptea } else w))
/-- An access of a walk to its part of the region stops (R254): a fault suspends the walk, and a park pauses it. -/
def State.regionStop (s : State) (d n : Nat) (w : Walk) (e : Stop) : State :=
  match e with
  | .fault c k va pa e => (s.found (.fault c k va pa e)).suspendWalk d n w va
  | .park ptea va posts => s.parkWalk d n w ptea va posts
  | .away a => (s.sendAway w.blk w.tid a).putWalk d n (some w)
  | .busy _ => s.putWalk d n (some w)
/-- What a walk holds beyond its slot is in its part of the region (R254). -/
def State.spillWalk (s : State) (d n : Nat) (w : Walk) : State :=
  match s.writeSpill d n w with
  | .ok s1 => s1.putWalk d n (some { w with lastPark := none })
  | .error e => s.regionStop d n w e

/-- A write of WALKSTK has moved the region: each walk's entries stand in the same part of the new one (R254). A walk that a fault has
suspended already stays so. -/
def State.respill (s : State) (slot : Nat) : State :=
  (List.range 4).foldl (fun s d => (List.range 16).foldl (fun s n =>
    match s.walkAt d n with
    | none => s
    | some w =>
      if w.slot ≠ slot then s
      else if w.suspended then (match s.writeSpill d n w with | .ok s1 => s1 | .error e => s.found e)
      else s.spillWalk d n w) s) s

end Sys2Proof.Machine
end

