-- ==== Sys2Proof/Machine/System.lean ====
section
/-! DEFINITION. System registers and system instructions (15_system_instructions.md R345-R359, 14_isolation.md R335). -/

namespace Sys2Proof.Machine

open Host (Outcome)

/-- The tile context that FFLAGSn of a block's threads reach (R345): the block's own, or the one its correction block serves. -/
def State.flagBlock (s : State) (blk : Nat) (b : Block) : Option Nat :=
  if b.correction then
    match b.serves with
    | none => none
    | some x => (s.block x).bind fun y => if y.cx.isSome then some x else none
  else if b.cx.isSome then some blk else none

/-- PSTAT of a thread (R347). -/
def pstatVal (t : Thread) : W64 :=
  (t.nest ++ 0#2 ++ BitVec.ofBool t.noStop ++ BitVec.ofBool t.sys).setWidth 64
/-- CTXST of a slot (R348). -/
def ctxstVal (c : Ctx) : W64 :=
  (c.part ++ 0#5 ++ BitVec.ofBool c.killing ++ 0#1 ++ BitVec.ofBool c.loaded).setWidth 64
/-- XTRIG of a slot (R349). -/
def xtrigVal (c : Ctx) : W64 := (BitVec.ofBool c.dse ++ BitVec.ofBool c.halted ++ 0#2).setWidth 64

/-- The number n of FFLAGSn. -/
def fflagsNum : SysReg → Option Nat
  | .fflags0 => some 0
  | .fflags1 => some 1
  | .fflags2 => some 2
  | .fflags3 => some 3
  | .fflags4 => some 4
  | .fflags5 => some 5
  | .pstat | .tvec | .frameb | .ctxid | .asid | .ptroot | .ctxst | .dpbound | .age | .detmode | .kvpool | .walkstk | .casttb
  | .xtrig | .cntthr | .nqbase | .fqbase => none

/-- A system register's value (R346): of the thread, of slot n, of the flag block's tile, or of the device. -/
def State.sysVal (s : State) (t : Thread) (n : Nat) (fb : Option Nat) (code : SysReg) : W64 :=
  let c := s.ctx n
  let ff (i : Nat) : W64 := (fb.bind s.block).elim 0#64 fun b => Tbl.get 0#64 b.tile.fflags i
  match code with
  | .pstat => pstatVal t
  | .tvec => c.tvec
  | .frameb => c.frameb
  | .ctxid => BitVec.ofNat 64 n
  | .asid => c.asid.setWidth 64
  | .ptroot => c.ptroot
  | .ctxst => ctxstVal c
  | .dpbound => c.dpbound.setWidth 64
  | .age => c.age.setWidth 64
  | .detmode => (BitVec.ofBool c.det).setWidth 64
  | .kvpool => c.kvpool
  | .walkstk => c.walkstk
  | .casttb => c.casttb
  | .xtrig => xtrigVal c
  | .fflags0 => ff 0
  | .fflags1 => ff 1
  | .fflags2 => ff 2
  | .fflags3 => ff 3
  | .fflags4 => ff 4
  | .fflags5 => ff 5
  | .cntthr => s.cntthr.setWidth 64
  | .nqbase => s.nqbase
  | .fqbase => s.fqbase

/-- What user privilege may read (R346). -/
def userReads : SysReg → Bool
  | .pstat | .ctxid | .asid | .ctxst | .dpbound | .age | .detmode | .cntthr => true
  | .fflags0 | .fflags1 | .fflags2 | .fflags3 | .fflags4 | .fflags5 => true
  | .tvec | .frameb | .ptroot | .kvpool | .walkstk | .casttb | .xtrig | .nqbase | .fqbase => false
/-- The registers some use of which user privilege may write (R346). -/
def userOpens : SysReg → Bool
  | .pstat | .fflags0 | .fflags1 | .fflags2 | .fflags3 | .fflags4 | .fflags5 => true
  | .tvec | .frameb | .ctxid | .asid | .ptroot | .ctxst | .dpbound | .age | .detmode | .kvpool | .walkstk | .casttb | .xtrig
  | .cntthr | .nqbase | .fqbase => false
/-- What user privilege may write (R346, R352): FFLAGSn, and NOSTOP of PSTAT alone. -/
def userWrites (t : Thread) (code : SysReg) (v : W64) : Bool :=
  match code with
  | .pstat => (v &&& ~~~2#64) == (pstatVal t &&& ~~~2#64)
  | .fflags0 | .fflags1 | .fflags2 | .fflags3 | .fflags4 | .fflags5 => true
  | .tvec | .frameb | .ctxid | .asid | .ptroot | .ctxst | .dpbound | .age | .detmode | .kvpool | .walkstk | .casttb | .xtrig
  | .cntthr | .nqbase | .fqbase => false

/-- Registers of scope D (R346). -/
def sysDevice : SysReg → Bool
  | .cntthr | .nqbase | .fqbase => true
  | .pstat | .tvec | .frameb | .ctxid | .asid | .ptroot | .ctxst | .dpbound | .age | .detmode | .kvpool | .walkstk | .casttb
  | .xtrig | .fflags0 | .fflags1 | .fflags2 | .fflags3 | .fflags4 | .fflags5 => false

/-- A block of a context is launched, resident or exited-draining (R348). -/
def State.ctxBusy (s : State) (n : Nat) : Bool :=
  (s.blocks.any fun e => e.2.any fun b => b.slot == n) ||
  (s.launches.any fun e => e.2.any fun l => l.slot == n)

/-- Another loaded context has an ASID (R317). -/
def State.asidTaken (s : State) (n : Nat) (a : BitVec 16) : Bool :=
  (List.range 64).any fun m => m != n && (s.ctx m).loaded && (s.ctx m).asid == a

/-- The largest number of bytes in use in a part of a slot's walk-stack region (R254). -/
def State.walkUse (s : State) (n : Nat) : Nat :=
  (List.range 4).foldl (fun m d =>
    (s.die d).walks.foldl (fun m e => match e.2 with
      | some w => if w.slot = n then Nat.max m w.spill else m
      | none => m) m) 0

/-- The value checks of a write (R348, R351, R254): the fault it raises, if any. -/
def State.sysCheck (s : State) (n : Nat) (code : SysReg) (v : W64) : Option Code :=
  let c := s.ctx n
  match code with
  | .ctxst =>
    if c.loaded && v.extractLsb' 8 3 != c.part then some .bsy
    else if v.getLsbD 0 then (if s.asidTaken n c.asid then some .arg else none)
    else if c.loaded && (s.ctxBusy n || c.killing) then some .bsy else none
  | .asid => if c.loaded then some .bsy else none
  | .ptroot => if c.loaded then some .bsy else if paRegion v.toNat ≠ 0 then some .arg else none
  | .dpbound => if v.setWidth 32 = 0#32 then some .arg else none
  | .casttb => if 64 < (v.extractLsb' 56 7).toNat then some .arg else none
  | .cntthr => if v.setWidth 12 = 0#12 then some .arg else none
  | .walkstk => if (v.setWidth 8).toNat * 1024 < s.walkUse n then some .arg else none
  | .pstat | .tvec | .frameb | .ctxid | .age | .detmode | .kvpool | .xtrig | .nqbase | .fqbase => none
  | .fflags0 | .fflags1 | .fflags2 | .fflags3 | .fflags4 | .fflags5 => none

/-- A write of CTXST (R348): LOADED and PART, and a KILL of 1. -/
def State.writeCtxst (s : State) (n : Nat) (v : W64) : State :=
  let s := s.modCtx n fun c => { c with loaded := v.getLsbD 0, part := v.extractLsb' 8 3 }
  if v.getLsbD 1 then s.kill n else s
/-- A write of AGE (R352): basins of the context whose age already reaches the new value form in that cycle, and so do those that have
reached the old one (R361). -/
def State.writeAge (s : State) (n : Nat) (v : W64) : State :=
  let a : BitVec 16 := v.setWidth 16
  let due := Nat.min a.toNat (s.ctx n).age.toNat
  let s := s.modCtx n fun c => { c with age := a }
  s.blocks.foldl (fun s e =>
    match e.2 with
    | none => s
    | some b =>
      if b.slot = n then
        (b.threads.zipIdx.filterMap fun x => (x.1.basin?).map fun k => (b.clusterOf x.2, k.1)).dedup.foldl (fun s k =>
          match (s.block e.1).bind fun b => b.basinAge k.1 k.2 with
          | none => s
          | some f => if f + due ≤ s.clock then s.modBlock e.1 fun b => b.formBarge k.1 k.2 else s) s
      else s) s
/-- A write of PSTAT (R347): NOSTOP and PRIV; the other fields ignore it. -/
def Thread.writePstat (t : Thread) (v : W64) : Thread := { t with noStop := v.getLsbD 1, sys := v.getLsbD 0 }
/-- A write of XTRIG (R349): DSE, a resumption and a halt request (cause 0). -/
def State.writeXtrig (s : State) (n : Nat) (v : W64) : State :=
  let s := s.modCtx n fun c => { c with dse := v.getLsbD 3 }
  let s := if v.getLsbD 1 then s.resumeHalt n else s
  if v.getLsbD 0 then s.haltRequest n else s

/-- FFLAGSn is written (R101, R103): FLAGS, FEN, FEV, FES and FEA; bits [9:8] ignore it. -/
def State.writeFflags (s : State) (fb : Option Nat) (i : Nat) (v : W64) : State :=
  match fb with
  | none => s
  | some x => s.modBlock x fun b =>
      { b with tile := { b.tile with fflags := Tbl.put 0#64 b.tile.fflags i (v &&& ~~~(0x300#64)) } }

/-- A system register written (R346-R352); reserved bits read zero, so they are dropped here. -/
def State.sysWrite (s : State) (blk tid n : Nat) (fb : Option Nat) (code : SysReg) (v : W64) : State :=
  match code with
  | .pstat => s.modThread blk tid fun t => t.writePstat v
  | .tvec => s.modCtx n fun c => { c with tvec := v &&& 0x00FFFFFFFFFFFFF8#64 }
  | .frameb => s.modCtx n fun c => { c with frameb := v &&& 0x00FFFFFFFFFFF000#64 }
  | .ctxid => s
  | .asid => s.modCtx n fun c => { c with asid := v.setWidth 16 }
  | .ptroot => s.modCtx n fun c => { c with ptroot := v &&& 0x000FFFFFFFFF0000#64 }
  | .ctxst => s.writeCtxst n v
  | .dpbound => s.modCtx n fun c => { c with dpbound := v.setWidth 32 }
  | .age => s.writeAge n v
  | .detmode => s.modCtx n fun c => { c with det := v.getLsbD 0 }
  | .kvpool => s.modCtx n fun c => { c with kvpool := v &&& 0x000FFFFFFFFFFFE0#64 }
  | .walkstk => (s.modCtx n fun c => { c with walkstk := v &&& 0x00FFFFFFFFFF00FF#64 }).respill n
  | .casttb => s.modCtx n fun c => { c with casttb := v &&& 0x7F0FFFFFFFFFFFF0#64 }
  | .xtrig => s.writeXtrig n v
  | .fflags0 => s.writeFflags fb 0 v
  | .fflags1 => s.writeFflags fb 1 v
  | .fflags2 => s.writeFflags fb 2 v
  | .fflags3 => s.writeFflags fb 3 v
  | .fflags4 => s.writeFflags fb 4 v
  | .fflags5 => s.writeFflags fb 5 v
  | .cntthr => { s with cntthr := v.setWidth 12 }
  | .nqbase => { s with nqbase := v &&& 0x000FFFFFFFFFFFC0#64 }
  | .fqbase => { s with fqbase := v &&& 0x000FFFFFFFFFFFC0#64 }

/-- The checks of R353 for one lane, in its order: the fault code, or the slot and the flag block it reaches. -/
def State.sysLane (s : State) (b : Block) (o : SysOp) (write : Bool) (t : Thread) : Except Code (Nat × Option Nat) :=
  let v := t.get64 o.d.toNat
  let fb := s.flagBlock s.cur.blk b
  let n := match o.x with
    | none => b.slot
    | some r => (t.get r.toNat).toNat
  if !t.sys && !(if write then userWrites t o.code v else userReads o.code) then .error .priv
  else if o.x.isSome && b.slot ≠ 0 then .error .priv
  else if write && sysDevice o.code && b.slot ≠ 0 then .error .priv
  else if 63 < n then .error .arg
  else if (fflagsNum o.code).isSome && fb.isNone then .error .arg
  else
    match if write then s.sysCheck n o.code v else none with
    | some c => .error c
    | none => .ok (n, fb)

/-- The lanes of an instruction that a check stops, by lane, lowest first. -/
def State.laneErrors (s : State) (g : Guard) (f : Nat → Thread → Except Stop Unit) : List (Nat × Stop) :=
  (s.active g).filterMap fun tid =>
    match s.thread s.cur.blk tid with
    | none => none
    | some t =>
      match f tid t with
      | .ok _ => none
      | .error e => some (tid, e)

/-- The outcome of an instruction with checks on each lane (R151). -/
def guarded (s : State) (g : Guard) (errs : List (Nat × Stop)) (perform : State → State) : Outcome State Fault Refusal :=
  resolve s (s.active g) errs perform

/-- The fault of a lane check as a stop. -/
def codeStop {α : Type} : Except Code α → Except Stop Unit
  | .ok _ => .ok ()
  | .error c => .error (stopBare c)

/-- `sysr` (R353). -/
def execSysr (o : SysOp) (s : State) : Outcome State Fault Refusal :=
  match s.block s.cur.blk with
  | none => .next s
  | some b =>
    if !userReads o.code && s.lanesAt false ≠ [] then .next (s.faultDecode (stopBare .priv))
    else guarded s o.g (s.laneErrors o.g fun _ t => codeStop (s.sysLane b o false t)) fun s =>
      s.lanes o.g fun _ t =>
        match s.sysLane b o false t with
        | .ok (n, fb) => t.set64 o.d.toNat (s.sysVal t n fb o.code)
        | .error _ => t

/-- `sysw` (R353): the lanes write in ascending order, so the highest lane's value stands (R352). -/
def execSysw (o : SysOp) (s : State) : Outcome State Fault Refusal :=
  match s.block s.cur.blk with
  | none => .next s
  | some b =>
    if !userOpens o.code && s.lanesAt false ≠ [] then .next (s.faultDecode (stopBare .priv))
    else guarded s o.g (s.laneErrors o.g fun _ t => codeStop (s.sysLane b o true t)) fun s0 =>
      let acts := (s0.active o.g).filterMap fun tid =>
        (s0.thread s0.cur.blk tid).bind fun t =>
          match s0.sysLane b o true t with
          | .ok (n, fb) => some (tid, n, fb, t.get64 o.d.toNat)
          | .error _ => none
      let s1 := acts.foldl (fun s x => s.sysWrite s.cur.blk x.1 x.2.1 x.2.2.1 o.code x.2.2.2) s0
      s1.onLanes fun _ t => t.advance

/-- The lanes that return with HOME = 0 are filed as single threads in the basins of their PCs (R375, R38). -/
def State.refile (s : State) (blk : Nat) (l : List (Nat × Frame)) : State :=
  match s.block blk with
  | none => s
  | some b =>
    let out := l.filter fun x => !x.2.home && !x.2.isGate
    (out.foldl (fun s x => s.file blk x.1 (BitVec.ofNat 56 x.2.rpc)) s).settleBasins blk
      (out.map fun x => (b.clusterOf x.1, BitVec.ofNat 56 x.2.rpc))
/-- `eret` (R354, R375): ILL when NEST is 0, then PRIV at user privilege (R79); every frame is checked before any lane returns. -/
def execEret (g : Guard) (s : State) : Outcome State Fault Refusal :=
  match s.block s.cur.blk with
  | none => .next s
  | some b =>
    let check (tid : Nat) (t : Thread) : Except Stop Unit :=
      match s.readFrame b s.cur.blk tid t with
      | .error e => .error e
      | .ok (f, _) => if s.frameOk b f then .ok () else .error (stopBare .arg)
    match s.lanesWhere g fun t => t.nest == 0#4 with
    | e :: l => .next (s.faultLanes g (e :: l) (stopBare .ill))
    | [] => privileged s <| guarded s g (s.laneErrors g check) fun s0 =>
      let l := s0.active g
      let frames := l.filterMap fun tid =>
        (s0.thread s0.cur.blk tid).bind fun t =>
          match s0.readFrame b s0.cur.blk tid t with
          | .ok (f, _) => some (tid, f)
          | .error _ => none
      let s1 := l.foldl (fun s tid =>
        match (s.thread s.cur.blk tid) with
        | none => s
        | some t =>
          match s.readFrame b s.cur.blk tid t with
          | .ok (_, s') => s'
          | .error _ => s) s0
      let s2 := s1.onLanes fun _ t => if t.guard g then t else t.advance
      let s3 := frames.foldl (fun s x => s.restoreLane s.cur.blk x.1 x.2) s2
      (s3.refile s.cur.blk frames).modBlock s.cur.blk Block.resumeCtx

/-! ### `tlbi` -/

/-- Whether a `tlbi` removes a buffer entry (R355). -/
inductive Shoot where
  | all
  | asid (a : BitVec 16)
  | page (a : BitVec 16) (addr : Nat)
  deriving DecidableEq, Repr

/-- A buffer entry matches (R355). -/
def Shoot.hits (k : Shoot) (e : TlbEntry) : Bool :=
  let glob := pteLeaf e.pte && e.pte.getLsbD 6
  match k with
  | .all => true
  | .asid a => e.asid == a && !glob
  | .page a addr => (e.asid == a || glob) && e.vpn == vpnAt addr e.level

/-- A `tlbi` is one of an ASID (R343, R355). -/
def Shoot.names (k : Shoot) (a : BitVec 16) : Bool :=
  match k with
  | .all => true
  | .asid b | .page b _ => a == b
/-- Step 2 of the handshake (R335): the matching entries leave every buffer of the device, with the block translation
buffers; the held access counts are applied before it completes, which SHOOTDOWN_COMPLETE does. The contexts of the ASIDs it names take
their cast tables as they now stand (R343). -/
def State.shoot (s : State) (k : Shoot) : State :=
  let s1 : State := { s with
    cores := s.cores.map fun e => (e.1, { e.2 with tlb := e.2.tlb.filter fun x => !k.hits x, btb := [] })
    dies := s.dies.map fun e => (e.1, { e.2 with tlb := e.2.tlb.filter fun x => !k.hits x }) }
  s1.ctxs.foldl (fun s e => if k.names e.2.asid then s.modCtx e.1 fun c => { c with casts := s.readCasts c } else s) s1

/-- The lanes of a `tlbi` run their handshakes, and the barge waits for their completion (R335, R355). -/
def shootLanes (s : State) (g : Guard) (k : Thread → Shoot) : State :=
  let acts := (s.active g).filterMap fun tid => (s.thread s.cur.blk tid).map k
  if acts = [] then s.lanes g fun _ t => t
  else (acts.foldl State.shoot s).onLanes fun _ t => if t.guard g then { t.advance with status := .stalled .tlbi } else t.advance

/-- The privilege and operand checks of `tlbi` (R355). -/
def tlbiCheck (b : Block) (all : Bool) (a : W32) (va : W64) : Except Stop Unit :=
  if all then (if b.slot = 0 then .ok () else .error (stopBare .priv))
  else if a.extractLsb' 16 16 ≠ 0#16 || va.extractLsb' 56 8 ≠ 0#8 then .error (stopBare .arg)
  else .ok ()
/-- An ASID other than the context's own raises PRIV outside the management context (R355). -/
def tlbiAsidCheck (s : State) (b : Block) (a : W32) (va : W64) : Except Stop Unit :=
  if b.slot ≠ 0 && a.setWidth 16 ≠ (s.ctx b.slot).asid then .error (stopBare .priv) else tlbiCheck b false a va

/-- `tlbi.all` (R355). -/
def execTlbiAll (g : Guard) (s : State) : Outcome State Fault Refusal :=
  match s.block s.cur.blk with
  | none => .next s
  | some b => privileged s <| guarded s g (s.laneErrors g fun _ _ => tlbiCheck b true 0#32 0#64) fun s => shootLanes s g fun _ => .all
/-- `tlbi.asid` (R355). -/
def execTlbiAsid (o : RegOp) (s : State) : Outcome State Fault Refusal :=
  match s.block s.cur.blk with
  | none => .next s
  | some b =>
    privileged s <| guarded s o.g (s.laneErrors o.g fun _ t => tlbiAsidCheck s b (t.get o.a.toNat) 0#64) fun s =>
      shootLanes s o.g fun t => .asid ((t.get o.a.toNat).setWidth 16)
/-- `tlbi.va` (R355). -/
def execTlbiVa (o : R2b) (s : State) : Outcome State Fault Refusal :=
  match s.block s.cur.blk with
  | none => .next s
  | some b =>
    privileged s <| guarded s o.g (s.laneErrors o.g fun _ t => tlbiAsidCheck s b (t.get o.a.toNat) (t.get64 o.b.toNat)) fun s =>
      shootLanes s o.g fun t => .page ((t.get o.a.toNat).setWidth 16) (t.get64 o.b.toNat).toNat

/-! ### Caches -/

/-- Every dirty line of a core written back (R356). -/
def State.flushCore (s : State) (core : Nat) : State :=
  (((s.core core).l1.filter (·.dirty)).map (·.line)).foldl (fun s l => s.writeBack core l) s
/-- Lanes whose guard reads true wait, after their instruction, for what it has begun to be acknowledged, charged to FENCE (R356, R357, R360). -/
def State.awaitAcks (s : State) (g : Guard) : State :=
  s.onLanes fun _ t => if t.guard g then { t.advance with status := .stalled .fence } else t.advance
/-- `cflush` of one line (R356): checked as a load of one byte; a dirty line is written back, and with INV it leaves the L1. -/
def execCflush (o : FlushOp) (s : State) : Outcome State Fault Refusal :=
  match s.block s.cur.blk with
  | none => .next s
  | some b =>
    let place (s : State) (tid : Nat) (t : Thread) : Except Stop Place :=
      s.place (b.party s.cur.blk t.sys tid) (t.get64 o.a.toNat).toNat 1 .read
    guarded s o.g (s.laneErrors o.g fun tid t => (place s tid t).map fun _ => ()) fun s =>
      let ls := (s.active o.g).filterMap fun tid => (s.thread s.cur.blk tid).bind fun t => (place s tid t).toOption
      let s' := ls.foldl (fun s pl =>
        let s := (s.used b.core pl).writeBack b.core (pl.loc / 128)
        if o.inv then s.modCore b.core fun c => { c with l1 := c.l1.filter fun l => l.line != pl.loc / 128 } else s) s
      s'.awaitAcks o.g
/-- `cflush.all` (R356): for system privilege only. -/
def execCflushAll (g : Guard) (s : State) : Outcome State Fault Refusal :=
  match s.block s.cur.blk with
  | none => .next s
  | some b => privileged s (.next ((if s.active g = [] then s else s.flushCore b.core).awaitAcks g))

/-- The caches a `cinval` names lose their lines (R357); a dirty L1 line is kept. -/
def CoreSt.inval (c : CoreSt) (t : CacheTgt) : CoreSt :=
  match t with
  | .thread => { c with ticache := [] }
  | .keeper => { c with kicache := [] }
  | .both => { c with ticache := [], kicache := [] }
  | .data => { c with l1 := c.l1.filter (·.dirty) }
/-- `cinval` (R357): on the issuing core, or on every core on which the context has a resident block. -/
def execCinval (o : CinvalOp) (s : State) : Outcome State Fault Refusal :=
  match s.block s.cur.blk with
  | none => .next s
  | some b =>
    let cores := if o.wide then
        b.core :: (s.blocks.filterMap fun e => e.2.bind fun x => if x.slot = b.slot ∧ x.life ≠ .launched then some x.core else none)
      else [b.core]
    let s' := if s.active o.g = [] then s else cores.dedup.foldl (fun s c => s.modCore c fun k => k.inval o.tgt) s
    .next (s'.awaitAcks o.g)

/-! ### `idle` -/

/-- A queue control block is valid (R339): no reserved bit, RECB aligned and every record slot in this device's DRAM. -/
def State.queueBlock (s : State) (base : W64) (size : Nat) : Option (Nat × Nat × Nat × Nat) :=
  let a := base.toNat
  let w := s.word a 64
  let recb := w % 2 ^ 52
  let lg := w / 2 ^ 64 % 16
  if a = 0 || !paDram a then none
  else if w / 2 ^ 52 % 2 ^ 12 ≠ 0 || w / 2 ^ 68 % 2 ^ 28 ≠ 0 || w / 2 ^ 192 ≠ 0 then none
  else if recb % 64 ≠ 0 || !paDram recb || !paDram (recb + size * 2 ^ lg - 1) || paDie recb ≠ paDie (recb + size * 2 ^ lg - 1) then none
  else some (recb, lg, w / 2 ^ 96 % 2 ^ 32, w / 2 ^ 128 % 2 ^ 32)

/-- A device queue holds a record: TAIL differs from HEAD (R358). -/
def State.queueHas (s : State) (base : W64) : Bool :=
  base ≠ 0#64 && s.word (base.toNat + 12) 4 != s.word (base.toNat + 16) 4

/-- The named queues that hold a record (R358): bit 0 the fault queue, bit 1 the notification queue. -/
def State.idleBits (s : State) (mask : BitVec 2) : W32 :=
  (BitVec.ofBool (mask.getLsbD 1 && s.queueHas s.nqbase) ++ BitVec.ofBool (mask.getLsbD 0 && s.queueHas s.fqbase)).setWidth 32

/-- A deadline for a wait with a timeout operand, kept once set (R265, R358). -/
def Thread.arm (t : Thread) (clock : Nat) (c : W32) : Thread :=
  if c = 0#32 || t.deadline.isSome then t else { t with deadline := some (clock + c.toNat) }
/-- The timeout of a wait has come (R265, R287, R358). -/
def Thread.late (t : Thread) (clock : Nat) : Bool := t.timedOut || t.deadline.any (· ≤ clock)
/-- A wait that ends: the thread goes on with no deadline. -/
def Thread.endWait (t : Thread) : Thread := { t.advance with deadline := none, timedOut := false, status := .active }

/-- `idle` (R358): for system code of the management context; it waits until a named queue holds a record, or the timeout. -/
def execIdle (o : IdleOp) (s : State) : Outcome State Fault Refusal :=
  match s.block s.cur.blk with
  | none => .next s
  | some b =>
    privileged s <| guarded s o.g (s.laneErrors o.g fun _ _ => if b.slot = 0 then .ok () else .error (stopBare .priv)) fun s =>
      let bits := s.idleBits o.mask
      let s' := if bits ≠ 0#32 then s.acquires b.core .system (s.active o.g).length else s
      s'.onLanes fun _ t =>
        if !t.guard o.g then t.advance
        else if bits ≠ 0#32 then ((t.set o.d.toNat bits).set (o.d.toNat + 1) 0#32).endWait
        else if t.late s.clock then ((t.set o.d.toNat 0#32).set (o.d.toNat + 1) 1#32).endWait
        else { t.arm s.clock (t.get o.b.toNat) with status := .waiting (.idle o.mask) }

/-- The wait of a waiting thread. -/
def Thread.wait? (t : Thread) : Option Wait :=
  match t.status with
  | .waiting w => some w
  | .active | .stalled _ | .asleep | .exited => none
/-- A waiting thread wakes when the event of its wait has come (R306), and checks the wait again (log 25). -/
def Thread.wakeIf (t : Thread) (p : Wait → Bool) : Thread := if t.wait?.any p then { t with status := .active } else t
/-- A waiting thread's timeout comes when its deadline has passed. -/
def Thread.expire (t : Thread) (p : Wait → Bool) (clock : Nat) : Thread :=
  if t.wait?.any p && t.deadline.any (· ≤ clock) then { t with status := .active, timedOut := true } else t
/-- The threads that wait at one instruction of a barge: those of the barge and the PC of t0. -/
def Thread.beside (t0 t : Thread) (p : Wait → Bool) : Bool := t.barge == t0.barge && t.pc == t0.pc && t.wait?.any p
/-- The threads that wait at one instruction wake together. -/
def Block.wakeBeside (b : Block) (t0 : Thread) (p : Wait → Bool) : Block :=
  { b with threads := b.threads.map fun t => if t0.beside t p then { t with status := .active } else t }

/-- A wait at `idle`. -/
def Wait.isIdle : Wait → Bool
  | .idle _ => true
  | .bar | .rejoin | .gate | .tileBar _ | .barw _ _ | .mem _ _ _ | .vwait _ _ | .queue _ _ _ | .cwait _ _ | .tba _ | .basin _ _ _ => false
/-- IDLE_WAKE (R358): a named queue holds a record. The lanes of a barge that wait at one `idle` go on together (R360). -/
def execIdleWake (blk tid : Nat) (s : State) : Outcome State Fault Refusal :=
  match s.thread blk tid with
  | none => .next s
  | some t0 =>
    match t0.wait? with
    | some (.idle mask) => if s.idleBits mask ≠ 0#32 then .next (s.modBlock blk fun b => b.wakeBeside t0 Wait.isIdle) else .next s
    | _ => .next s
/-- IDLE_TIMEOUT (R358): the timeout of a lane has come. The lanes of a barge that wait at one `idle` go on together, once the timeout of
each has come (R360). -/
def execIdleTimeout (blk tid : Nat) (s : State) : Outcome State Fault Refusal :=
  match s.block blk, s.thread blk tid with
  | some b, some t0 =>
    if t0.wait?.any Wait.isIdle && t0.deadline.any (· ≤ s.clock) then
      let late (t : Thread) : Bool := t.deadline.any (· ≤ s.clock)
      if b.threads.all fun t => !t0.beside t Wait.isIdle || late t then
        .next (s.modBlock blk fun b =>
          { b with threads := b.threads.map fun t => if t0.beside t Wait.isIdle then { t with status := .active, timedOut := true } else t })
      else .next s
    else .next s
  | _, _ => .next s

/-! ### Register writes as events -/

/-- A register write by the management side, checked as `sysw` checks it; one that fails changes nothing. -/
def sysEvent (n : Nat) (code : SysReg) (v : W64) (s : State) : State :=
  match s.sysCheck n code v with
  | some _ => s
  | none => s.sysWrite 0 0 n none code v
/-- CTXST_LOADED_WRITE (R348). -/
def execCtxstLoadedWrite (n : Nat) (v : W64) (s : State) : Outcome State Fault Refusal :=
  if n < 64 then .next (sysEvent n .ctxst (v &&& ~~~2#64) s) else .next s
/-- CTXST_KILL_WRITE (R380). -/
def execCtxstKillWrite (n : Nat) (s : State) : Outcome State Fault Refusal := if n < 64 then .next (s.kill n) else .next s
/-- WALKSTK_WRITE (R254): the walks are paused, their parts moved, and resumed. -/
def execWalkstkWrite (n : Nat) (v : W64) (s : State) : Outcome State Fault Refusal :=
  if n < 64 then .next (sysEvent n .walkstk v s) else .next s
/-- AGE_WRITE (R352). -/
def execAgeWrite (n : Nat) (v : W64) (s : State) : Outcome State Fault Refusal :=
  if n < 64 then .next (sysEvent n .age v s) else .next s
/-- PSTAT_WRITE (R347). -/
def execPstatWrite (blk tid : Nat) (v : W64) (s : State) : Outcome State Fault Refusal :=
  .next (s.modThread blk tid (·.writePstat v))
/-- XTRIG_HREQ_WRITE (R393). -/
def execXtrigHreqWrite (n : Nat) (s : State) : Outcome State Fault Refusal :=
  if n < 64 then .next (s.haltRequest n) else .next s
/-- XTRIG_RREQ_WRITE (R393). -/
def execXtrigRreqWrite (n : Nat) (s : State) : Outcome State Fault Refusal :=
  if n < 64 then .next (s.resumeHalt n) else .next s

end Sys2Proof.Machine
end

