-- ==== Sys2Proof/Machine/Uses.lean ====
section
/-! DEFINITION. Which registers a thread instruction names (03_encodings.md R64), for the checks of R78 and for the interlock
of 05_thread_instructions.md R109. -/

namespace Sys2Proof.Machine

/-- A run of n registers from dr that an instruction reads, or writes when `w`, aligned to `al`. -/
structure Use where
  r : Nat
  n : Nat
  al : Nat
  w : Bool
  deriving DecidableEq, Repr

/-- A source register. -/
def rd (r : Reg) : Use := { r := r.toNat, n := 1, al := 1, w := false }
/-- A source pair. -/
def rd2 (r : Reg) : Use := { r := r.toNat, n := 2, al := 2, w := false }
/-- A destination register. -/
def wr (r : Reg) : Use := { r := r.toNat, n := 1, al := 1, w := true }
/-- A destination pair. -/
def wr2 (r : Reg) : Use := { r := r.toNat, n := 2, al := 2, w := true }
/-- A source register, or a pair when W = 1. -/
def rdW (w : Bool) (r : Reg) : Use := if w then rd2 r else rd r
/-- A destination register, or a pair when W = 1. -/
def wrW (w : Bool) (r : Reg) : Use := if w then wr2 r else wr r

/-- Registers of an access size (R62). -/
def szWords : Sz → Nat
  | .s8 | .z8 | .s16 | .z16 | .w32 => 1
  | .w64 => 2
  | .w128 => 4
/-- Registers of an accumulator access (R288). -/
def accCount : AccW → Nat
  | .w1 => 1
  | .w2 => 2
  | .w4 => 4
  | .w8 => 8

/-- The registers an instruction names. Of `qpush` and `qpop` this is register D alone, as R267 says of the decode check. -/
def uses (i : Instr) : List Use :=
  match i with
  | .nop _ => []
  | .add o => [wr o.d, rd o.a, rd o.b]
  | .sub o => [wr o.d, rd o.a, rd o.b]
  | .mul o => [wr o.d, rd o.a, rd o.b]
  | .mulh o => [wr o.d, rd o.a, rd o.b]
  | .mulw o => [wr2 o.d, rd o.a, rd o.b]
  | .mad o => [wr o.d, rd o.a, rd o.b, rd o.c]
  | .and o => [wr o.d, rd o.a, rd o.b]
  | .or o => [wr o.d, rd o.a, rd o.b]
  | .xor o => [wr o.d, rd o.a, rd o.b]
  | .andn o => [wr o.d, rd o.a, rd o.b]
  | .shl o => [wr o.d, rd o.a, rd o.b]
  | .shr o => [wr o.d, rd o.a, rd o.b]
  | .rot o => [wr o.d, rd o.a, rd o.b]
  | .min o => [wr o.d, rd o.a, rd o.b]
  | .max o => [wr o.d, rd o.a, rd o.b]
  | .abs o => [wr o.d, rd o.a]
  | .clz o => [wr o.d, rd o.a]
  | .popc o => [wr o.d, rd o.a]
  | .brev o => [wr o.d, rd o.a]
  | .bfx o => [wr o.d, rd o.a, rd o.b]
  | .bfi o => [wr o.d, rd o.a, rd o.b, rd o.c]
  | .addx o => [wr o.d, rd o.a, rd o.b]
  | .subx o => [wr o.d, rd o.a, rd o.b]
  | .add64 o => [wr2 o.d, rd2 o.a, rd2 o.b]
  | .sub64 o => [wr2 o.d, rd2 o.a, rd2 o.b]
  | .shl64 o => [wr2 o.d, rd2 o.a, rd o.b]
  | .shr64 o => [wr2 o.d, rd2 o.a, rd o.b]
  | .mul64 o => [wr2 o.d, rd2 o.a, rd2 o.b]
  | .lea o => [wr2 o.d, rd2 o.a, rd o.b]
  | .idot4 o => [wr o.d, rd o.a, rd o.b, rd o.c]
  | .idot8 o => [wr o.d, rd2 o.a, rd2 o.b, rd o.c]
  | .addi o => [wr o.d, rd o.a]
  | .andi o => [wr o.d, rd o.a]
  | .ori o => [wr o.d, rd o.a]
  | .xori o => [wr o.d, rd o.a]
  | .shli o => [wr o.d, rd o.a]
  | .shri o => [wr o.d, rd o.a]
  | .movi o => [wr o.d]
  | .movih o => [wr o.d, rd o.a]
  | .cmpi o => [rd o.a]
  | .muli o => [wr o.d, rd o.a]
  | .cmp o => [rd o.a, rd o.b]
  | .cmpFloat o => [rd o.a, rd o.b]
  | .plog _ => []
  | .p2d o => [wr o.d]
  | .d2p o => [rd o.a]
  | .sel o => if o.w then [wr2 o.d, rd2 o.a, rd2 o.b] else [wr o.d, rd o.a, rd o.b]
  | .fadd o => [wr o.d, rd o.a, rd o.b]
  | .fsub o => [wr o.d, rd o.a, rd o.b]
  | .fmul o => [wr o.d, rd o.a, rd o.b]
  | .fma o => [wr o.d, rd o.a, rd o.b, rd o.c]
  | .fmin o => [wr o.d, rd o.a, rd o.b]
  | .fmax o => [wr o.d, rd o.a, rd o.b]
  | .fdot2 o => [wr o.d, rd o.a, rd o.b, rd o.c]
  | .fclass o => [wr o.d, rd o.a]
  | .fscale o => [wr o.d, rd o.a, rd o.b]
  | .frnd o => [wr o.d, rd o.a]
  | .cvt o => [wr o.d, rd o.a]
  | .cvtf o => if o.td.isF8 then [wr o.d, { r := o.a.toNat, n := 4, al := 4, w := false }] else [wr o.d, rd o.a, rd o.b]
  | .quant o => if o.ty = .s8 then [wr o.d, rd o.a, rd o.b] else [wr o.d, rd o.a, rd o.b, rd o.c]
  | .deq o => if o.ty = .s8 then [wr o.d, rd o.a, rd o.b] else [wr o.d, rd o.a, rd o.b, rd o.c]
  | .amax o => [wr o.d, rd o.a]
  | .perm o => [wr o.d, rd o.a, rd o.b, rd o.c]
  | .rcp o => [wr o.d, rd o.a]
  | .rsqrt o => [wr o.d, rd o.a]
  | .sqrt o => [wr o.d, rd o.a]
  | .exp2 o => [wr o.d, rd o.a]
  | .log2 o => [wr o.d, rd o.a]
  | .sin o => [wr o.d, rd o.a]
  | .cos o => [wr o.d, rd o.a]
  | .tanh o => [wr o.d, rd o.a]
  | .sigm o => [wr o.d, rd o.a]
  | .erf o => [wr o.d, rd o.a]
  | .mov o => if o.f then [wr2 o.d, rd2 o.a] else [wr o.d, rd o.a]
  | .rds o => if specialWide o.name then [wr2 o.d] else [wr o.d]
  | .shfl o => if o.i then [wr o.d, rd o.a] else [wr o.d, rd o.a, rd o.b]
  | .br _ => []
  | .brx o => [rd2 o.a]
  | .call o => [wr2 o.d]
  | .ret o => [rd2 o.a]
  | .brc o => [wr o.d, rd o.d]
  | .reformDirect _ => []
  | .reformIndirect o => [rd2 o.a]
  | .rejoin _ => []
  | .bar _ => []
  | .gate o => [rd2 o.a, rd2 o.b, rd2 o.c]
  | .exit _ => []
  | .trap _ => []
  | .brk _ => []
  | .ld o => [{ r := o.d.toNat, n := szWords o.size, al := szWords o.size, w := true }, rd2 o.a]
  | .st o => [{ r := o.d.toNat, n := szWords o.size, al := szWords o.size, w := false }, rd2 o.a]
  | .ldr o => [wr2 o.d, rd2 o.a]
  | .str o => [rd2 o.d, rd2 o.a]
  | .pub o => [rd2 o.d, rd2 o.a]
  | .pref o => [rd2 o.a]
  | .tagld o => [wr o.d, rd2 o.a]
  | .objinit o => [rd2 o.d, rd2 o.a]
  | .atom o => (if o.nr then [] else [wrW o.w o.d]) ++ [rd2 o.a, rdW o.w o.b]
  | .cas o => [wrW o.w o.d, rd2 o.a, rdW o.w o.b, rdW o.w o.c]
  | .fence _ => []
  | .wait o => [wr2 o.d, rd2 o.a, rd o.b, rd o.c]
  | .qpush o => [rd o.a, rd o.d]
  | .qpop o => [wr o.d]
  | .qszCnt o => [wr o.d]
  | .qszInit o => [wr o.d, rd2 o.a, rd o.b]
  | .qszFin _ => []
  | .cpy o => [wr o.d, rd2 o.a, rd2 o.b, rd2 o.c]
  | .cpn o => [wr o.d, rd2 o.a]
  | .cwait o => [rd o.a]
  | .cstat o => [wr2 o.d]
  | .cabort _ => []
  | .barr o => match o.x with
    | some a => [rd a]
    | none => []
  | .barw o => [wr o.d, rd o.a]
  | .bari o => [rd o.a, rd o.b]
  | .wopen o => [wr2 o.d, rd2 o.a]
  | .wclose o => [rd2 o.a]
  | .subsc o => [wr o.d, rd o.a, rd2 o.b]
  | .unsubsc o => [rd o.a]
  | .vwait o => [wr2 o.d, rd o.a, rd o.b, rd o.c]
  | .kvref o => [wr2 o.d, rd2 o.a]
  | .kvrefClaim o => [wr2 o.d, rd2 o.a]
  | .kvunref o => [wr2 o.d, rd2 o.a]
  | .launch o => [wr o.d, rd2 o.a, rd o.b]
  | .accld o => [{ r := o.d.toNat, n := accCount o.w, al := 1, w := true }, rd o.a]
  | .accst o => [{ r := o.d.toNat, n := accCount o.w, al := 1, w := false }, rd o.a]
  | .tbw _ => []
  | .tba _ => []
  | .sysr o => wr2 o.d :: (match o.x with
    | some a => [rd a]
    | none => [])
  | .sysw o => rd2 o.d :: (match o.x with
    | some a => [rd a]
    | none => [])
  | .eret _ => []
  | .tlbiAll _ => []
  | .tlbiAsid o => [rd o.a]
  | .tlbiVa o => [rd o.a, rd2 o.b]
  | .cflush o => [rd2 o.a]
  | .cflushAll _ => []
  | .cinval _ => []
  | .idle o => [wr2 o.d, rd o.b]
  | .dbgrRd o => [wr2 o.d]
  | .dbgrWr o => [rd2 o.d]
  | .idleStep _ => []
  | .kadd _ => []
  | .ksub _ => []
  | .kmul _ => []
  | .kand _ => []
  | .kor _ => []
  | .kxor _ => []
  | .kshl _ => []
  | .kshr _ => []
  | .kmin _ => []
  | .kmax _ => []
  | .kaddi _ => []
  | .kmovi _ => []
  | .kcmp _ => []
  | .ksel _ => []
  | .kld _ => []
  | .kst _ => []
  | .scfg _ => []
  | .sbase _ => []
  | .sadv _ => []
  | .sadvB _ => []
  | .sgbt _ => []
  | .sropeAdj _ => []
  | .sropeHalf _ => []
  | .sropeOff _ => []
  | .cbi _ => []
  | .cbw _ => []
  | .cbf _ => []
  | .cbaF _ => []
  | .cbaE _ => []
  | .sscale _ => []
  | .smask _ => []
  | .xpush _ => []
  | .xswap _ => []
  | .xshift _ => []
  | .xacc _ => []
  | .xdrain _ => []
  | .xmask _ => []
  | .xmode _ => []
  | .yadd _ => []
  | .ymul _ => []
  | .yrsc _ => []
  | .yexp _ => []
  | .yrmax _ => []
  | .yrsum _ => []
  | .ymov _ => []
  | .ycvt _ => []
  | .ytr _ => []
  | .smst _ => []
  | .smrg _ => []
  | .ybarArv _ => []
  | .ybarWt _ => []
  | .ccpy _ => []
  | .ccpn _ => []
  | .ccpnRing _ => []
  | .cgath _ => []
  | .cscat _ => []
  | .ccwt _ => []
  | .fbr _ => []
  | .fjmp _ => []
  | .fjmpIndirect _ => []
  | .fcall _ => []
  | .fret _ => []
  | .floop _ => []
  | .gret _ => []
  | .ftrap _ => []
  | .fbrk _ => []
  | .ffence _ => []
  | .fwait _ => []
  | .resultLanding _ _ => []
  | .streamReadReturn _ _ => []
  | .ringWaitSatisfied _ _ => []
  | .copyWaitSatisfied _ _ => []
  | .tileBarrierWaitSatisfied _ _ => []
  | .tileBarrierArrival _ _ => []
  | .tbwWake _ _ => []
  | .commandAcceptAfterBackpressure _ _ => []
  | .drainPoint _ _ => []
  | .basinAgeExpiry _ _ _ => []
  | .memoryResultReturn _ _ => []
  | .memWaitWake _ _ => []
  | .memWaitTimeout _ _ => []
  | .vwaitWake _ _ => []
  | .vwaitTimeout _ _ => []
  | .idleWake _ _ => []
  | .idleTimeout _ _ => []
  | .queueWaitWake _ _ => []
  | .cwaitWake _ _ => []
  | .rootBroadcast _ _ => []
  | .barwWake _ _ => []
  | .gatherBlock _ _ _ => []
  | .copyCommandComplete _ _ _ => []
  | .commandFault _ _ _ => []
  | .blockPreempt _ => []
  | .dpboundExpiry _ => []
  | .launchQueueTailWrite _ _ => []
  | .launchAccept _ => []
  | .launchWaitPoll _ => []
  | .blockResidency _ _ => []
  | .blockRetire _ => []
  | .parkWake _ => []
  | .parkMonitorFreed _ => []
  | .l1EvictionWriteback _ _ => []
  | .shootdownComplete _ _ => []
  | .walkAccept _ => []
  | .walkRestart _ _ => []
  | .walkComplete _ _ => []
  | .accessCountApply => []
  | .faultRecordPost => []
  | .faultQueueRetry => []
  | .ctxstLoadedWrite _ _ => []
  | .ctxstKillWrite _ => []
  | .killComplete _ => []
  | .walkstkWrite _ _ => []
  | .fqbaseWrite _ => []
  | .xtrigHreqWrite _ => []
  | .xtrigRreqWrite _ => []
  | .breakpointHit _ _ _ => []
  | .haltComplete _ => []
  | .nostopTimeout _ _ => []
  | .trctlWrite _ _ => []
  | .traceSample _ _ _ => []
  | .hostRegisterWrite _ _ => []
  | .hostBar2Write _ _ _ => []
  | .hostBar2Read _ _ => []
  | .capabilityApply _ => []
  | .castWriteFlit _ _ _ => []
  | .versionAdvanceFlit _ _ => []
  | .remoteAccessRequestFlit _ _ _ _ => []
  | .responseFlit _ _ => []
  | .heartbeatFlit _ => []
  | .heartbeatTimer => []
  | .portDown _ => []
  | .accessTimeout _ => []
  | .deviceReset => []
  | .bootVerifyComplete => []
  | .doorbell => []
  | .fusedSvnRaise => []
  | .attestationRequest _ => []
  | .thermalThrottle => []
  | .thermalShutdown => []
  | .writeAcknowledgedAtHome _ _ => []
  | .preemptResidencyExpiry _ => []
  | .ageWrite _ _ => []
  | .pstatWrite _ _ _ => []
  | .waitRemoteReread _ _ => []

/-- The register of `qpush` and `qpop` that starts a run of ESZ/4, at most 16, registers (R267). -/
def queueRun (i : Instr) : List Nat :=
  match i with
  | .qpush o => (List.range 16).map (o.d.toNat + ·)
  | .qpop o => (List.range 16).map (o.d.toNat + ·)
  | i => (uses i).flatMap fun u => (List.range u.n).map (u.r + ·)

/-- Every register lies below the registers per thread, and pairs and quads are aligned (R64). -/
def usesOk (nregs : Nat) (i : Instr) : Bool := (uses i).all fun u => u.r % u.al == 0 && u.r + u.n ≤ nregs

end Sys2Proof.Machine
end

