-- ==== Sys2Proof/Machine/LoadStore.lean ====
section
/-! DEFINITION. Loads, stores, prefetches and fences of threads (05_thread_instructions.md R148-R151,
11_memory_instructions.md R264). -/

namespace Sys2Proof.Machine

open Host (Outcome)

/-- The effective address of the S format (R62): the base pair plus the sign-extended offset, modulo 2^64. -/
def Thread.ea (t : Thread) (a : Reg) (ofs : BitVec 25) : Nat := (t.get64 a.toNat + ofs.signExtend 64).toNat

/-- Bytes of an access size (R62). -/
def szBytes : Sz → Nat
  | .s8 | .z8 => 1
  | .s16 | .z16 => 2
  | .w32 => 4
  | .w64 => 8
  | .w128 => 16

/-- The checks of an access before its data (R369): address bits [63:56], alignment, then translation, permission and bounds. -/
def State.checkAt (s : State) (p : Party) (va n al : Nat) (k : Acc) : Except Stop Place :=
  if va / 2 ^ 56 ≠ 0 then .error (xlatAt 3 va)
  else if va % al ≠ 0 then .error (stopAt .align va)
  else s.place p va n k
/-- The checks of a read, the data among them. -/
def State.checkRead (s : State) (p : Party) (va n : Nat) : Except Stop Place :=
  match s.checkAt p va n n .read with
  | .error e => .error e
  | .ok pl => s.readable p va pl n
/-- The checks of a write of bytes. -/
def State.checkWrite (s : State) (p : Party) (va : Nat) (l : List Byte) (adv : Bool) : Except Stop Place :=
  match s.checkAt p va l.length l.length .write with
  | .error e => .error e
  | .ok pl => s.writable p va pl l adv

/-- The issued lanes whose guard reads true, with their threads, in order of `$lane`. -/
def State.actors (s : State) (g : Guard) : List (Nat × Thread) :=
  (s.active g).filterMap fun tid => (s.thread s.cur.blk tid).map fun t => (tid, t)

/-- What the performed accesses of an instruction of a block leave in the translation machinery (R329, R337). -/
def State.settle (s : State) (b : Block) (blk : Nat) (l : List (Nat × Place × Nat)) : State := s.settled (b.party blk false) l

/-- A loaded value as registers (R148). -/
def loadRegs (size : Sz) (v : Nat) : List W32 :=
  match size with
  | .s8 => [(BitVec.ofNat 8 v).signExtend 32]
  | .z8 => [(BitVec.ofNat 8 v).setWidth 32]
  | .s16 => [(BitVec.ofNat 16 v).signExtend 32]
  | .z16 => [(BitVec.ofNat 16 v).setWidth 32]
  | .w32 => [BitVec.ofNat 32 v]
  | .w64 => [BitVec.ofNat 32 v, BitVec.ofNat 32 (v / 2 ^ 32)]
  | .w128 => [BitVec.ofNat 32 v, BitVec.ofNat 32 (v / 2 ^ 32), BitVec.ofNat 32 (v / 2 ^ 64), BitVec.ofNat 32 (v / 2 ^ 96)]

/-- The latency of a read is fixed (R110): it is served by the scratchpad or hits in the L1. -/
def State.fixedLatency (s : State) (core loc : Nat) : Bool := isScr loc || (l1May core loc && ((s.core core).hit loc).isSome)

/-- Registers written from dr, at once when the latency is fixed, else as a pending result (R109). -/
def Thread.deliver (t : Thread) (r : Nat) (l : List W32) (now load : Bool) (fl : BitVec 5) : Thread :=
  if now then (t.setRun r l).raise fl
  else { t with pend := t.pend ++ [{ dst := l.zipIdx.map fun x => (r + x.2, x.1), fl, load }] }

/-- A performed load of lanes (R148): every value is read as memory stood before the instruction, after the acquire of a first access
through an entry (R329). Each lane of an acquiring load is an acquire of its own (R223). -/
def loadLanes (s : State) (b : Block) (g : Guard) (n : Nat) (acts : List (Nat × Nat × Place)) (hint : Hint)
    (regs : Nat → List W32) (d : Nat) (ord : Option Scope) : State :=
  let s1 := s.settle b s.cur.blk (acts.map fun x => (x.2.1, x.2.2, n))
  let s2 := acts.foldl (fun s x => s.afterLoad b.core x.2.2.loc hint) s1
  let s3 := s2.onLanes fun tid t =>
    match acts.find? fun x => x.1 == tid with
    | none => t.advance
    | some x =>
      if t.guard g then
        (t.deliver d (regs (leNat (s1.dataOf b.core x.2.2 n))) (s1.fixedLatency b.core x.2.2.loc) true 0#5).advance
      else t.advance
  let s4 := match ord with
    | some sc => s3.acquires b.core sc acts.length
    | none => s3
  s4.watch b (acts.map fun x => { va := some x.2.1, pa := x.2.2.loc, n, rd := true, wr := false, eng := false, who := x.1 })

/-- `ld` (R148). -/
def execLd (o : LdOp) (s : State) : Outcome State Fault Refusal :=
  match s.block s.cur.blk with
  | none => .next s
  | some b =>
    let n := szBytes o.size
    let place (tid : Nat) (t : Thread) : Except Stop Place := s.checkRead (b.party s.cur.blk t.sys tid) (t.ea o.a o.ofs) n
    guarded s o.g (s.laneErrors o.g fun tid t => (place tid t).map fun _ => ()) fun s =>
      let acts := (s.actors o.g).filterMap fun x => (place x.1 x.2).toOption.map fun pl => (x.1, x.2.ea o.a o.ofs, pl)
      loadLanes s b o.g n acts o.hint (loadRegs o.size) o.d.toNat o.ord

/-- A store that releases at fabric scope with four bytes has the form of a version advance (R286). -/
def advForm (o : LdOp) : Bool := o.ord == some .fabric && o.size == .w32
/-- The bytes that a store writes (R149). -/
def storeData (o : LdOp) (t : Thread) : List Byte :=
  (t.getRun o.d.toNat (szWords o.size)).flatMap (fun v => leBytes 4 v.toNat) |>.take (szBytes o.size)

/-- Performed stores of lanes, in order of `$lane` (R151): lane, address, place and bytes of each. -/
def storeLanes (s : State) (b : Block) (acts : List (Nat × Nat × Place × List Byte)) (hint : Hint) : State :=
  let s1 := s.settle b s.cur.blk (acts.map fun x => (x.2.1, x.2.2.1, x.2.2.2.length))
  let s2 := acts.foldl (fun s x => (s.storeBytes b.core x.2.2.1.loc x.2.2.2).storeHint b.core x.2.2.1.loc hint) s1
  (s2.onLanes fun _ t => t.advance).watch b (acts.map fun x =>
    { va := some x.2.1, pa := x.2.2.1.loc, n := x.2.2.2.length, rd := false, wr := true, eng := false, who := x.1 })

/-- `st` (R149). -/
def execSt (o : LdOp) (s : State) : Outcome State Fault Refusal :=
  match s.block s.cur.blk with
  | none => .next s
  | some b =>
    let place (tid : Nat) (t : Thread) : Except Stop Place :=
      s.checkWrite (b.party s.cur.blk t.sys tid) (t.ea o.a o.ofs) (storeData o t) (advForm o)
    guarded s o.g (s.laneErrors o.g fun tid t => (place tid t).map fun _ => ()) fun s =>
      storeLanes s b ((s.actors o.g).filterMap fun x =>
        (place x.1 x.2).toOption.map fun pl => (x.1, x.2.ea o.a o.ofs, pl, storeData o x.2)) o.hint

/-- `pref` (R150): lines are brought into the L1 with the mark of the hint, an address that would fault, park or leave the caches is dropped, and a line
that is not dropped is counted (R337). -/
def execPref (o : PrefOp) (s : State) : Outcome State Fault Refusal :=
  match s.block s.cur.blk with
  | none => .next s
  | some b =>
    let acts := (s.actors o.g).filterMap fun x =>
      let va := x.2.ea o.a o.ofs
      (s.checkAt (b.party s.cur.blk x.2.sys) va 1 1 .read).toOption.bind fun pl =>
        if isScr pl.loc || paRegion pl.loc ≠ 0 || s.poisoned pl.loc 1 || s.badRange pl.loc 1 then none else some (va, pl, 1)
    let s1 := s.settle b s.cur.blk acts
    let s2 := acts.foldl (fun s x => s.afterLoad b.core x.2.1.loc o.hint) s1
    .next (s2.onLanes fun _ t => t.advance)

/-! ### Fences and results -/

/-- Posted writes of one agent of a block were not acknowledged in time (R366): TIMEOUT, which names the first. -/
def State.lateWrite (s : State) (blk who : Nat) : Except Stop Unit :=
  match s.unanswered blk (· == who) with
  | [] => .ok ()
  | r :: _ => .error (.fault .timeout 0 0 r.ask.pa 0)
/-- The posted writes of agents whose TIMEOUT has been raised are told of no more. -/
def State.dropLate (s : State) (blk : Nat) (p : Nat → Bool) : State :=
  { s with remotes := s.remotes.filter fun r => !(r.posted blk && p r.agent && r.failed) }
/-- `fence` (R264): an acquire fence waits for the earlier loads of its lanes, and bumps VER at cluster scope or wider; a release waits
until the earlier writes of its lanes are acknowledged at their homes, and raises TIMEOUT for one that was not in time (R366). The fence
that waits stays un-issued (log 25). -/
def execFence (o : FenceOp) (s : State) : Outcome State Fault Refusal :=
  match s.block s.cur.blk with
  | none => .next s
  | some b =>
    let l := s.actors o.g
    if o.kind != .rel && l.any fun x => x.2.pend != [] then .next s
    else if o.kind != .acq && s.unacked s.cur.blk (s.active o.g).contains then .next (s.stallLanes .fence)
    else
      guarded (s.dropLate s.cur.blk (s.active o.g).contains) o.g
          (if o.kind = .acq then [] else s.laneErrors o.g fun tid _ => s.lateWrite s.cur.blk tid) fun s =>
        (if o.kind != .rel then s.acquires b.core o.scope l.length else s).onLanes fun _ t => t.advance

/-- The lock ends (R50, R188): views are unbound, loops and holds end, and the threads go on after their gate. -/
def Block.leaveLock (b : Block) : Block :=
  { b with
    inLock := false
    gate := none
    threads := b.threads.map fun t => if t.status = .asleep then { t with status := .active, pc := b.gate.getD t.pc + 8#56 } else t
    tile := { b.tile with views := [], loops := [], lbuf := [], exempt := 0#8, held := [], delay := none } }
/-- The writes of a block's context are acknowledged (R222, R282): it goes on, or its lock ends. -/
def Block.acknowledged (b : Block) : Block :=
  if b.tile.wait = some .leaving then ({ b with tile := { b.tile with wait := none } } : Block).leaveLock
  else if b.tile.wait = some .fence then { b with tile := { b.tile with wait := none } } else b
/-- WRITE_ACKNOWLEDGED_AT_HOME (R264, R282): earlier writes of a block's thread, or of its context, are acknowledged at their homes, and it
goes on if it waits for them. -/
def execWriteAcknowledgedAtHome (blk tid : Nat) (s : State) : Outcome State Fault Refusal :=
  let s1 := if s.unacked blk (· == tid) then s
    else s.modThread blk tid fun t => if t.status = .stalled .fence then { t with status := .active } else t
  .next (if s.unacked blk agentOfTile then s1
    else s1.modBlock blk Block.acknowledged)

/-- MEMORY_RESULT_RETURN (R109, R102): the oldest pending result lands in its registers, and its flags merge. -/
def execMemoryResultReturn (blk tid : Nat) (s : State) : Outcome State Fault Refusal :=
  .next (s.modThread blk tid fun t =>
    match t.pend with
    | [] => t
    | p :: l => { (p.dst.foldl (fun t w => t.set w.1 w.2) t) with flags := t.flags ||| p.fl, pend := l })

end Sys2Proof.Machine
end

