-- ==== Sys2Proof/Machine/Atomics.lean ====
section
/-! DEFINITION. Atomics and the wait on a memory word (11_memory_instructions.md R261-R265). -/

namespace Sys2Proof.Machine

open Host (Outcome)

/-- The order acquires (R62). -/
def acquires : Order → Bool
  | .acq | .ar => true
  | .weak | .rel => false
/-- The order releases (R62). -/
def releases : Order → Bool
  | .rel | .ar => true
  | .weak | .acq => false

/-- The new value of an atomic of a width (R261), but for `.fadd`. -/
def atomInt {w : Nat} (op : AtomOp) (old b : BitVec w) : BitVec w :=
  match op with
  | .add | .fadd => old + b
  | .and => old &&& b
  | .or => old ||| b
  | .xor => old ^^^ b
  | .min => if b.slt old then b else old
  | .max => if old.slt b then b else old
  | .minu => if b.ult old then b else old
  | .maxu => if old.ult b then b else old
  | .xchg => b
  | .inc => if b.ule old then 0#w else old + 1#w
/-- `.fadd` (R261, R262): the sum rounded to nearest even, an exact zero sum giving +0, with its flags. -/
def atomFadd (old b : W32) : W32 × Flags :=
  let r := sumZero fmtF32 [some (fmtF32.decode old.toNat), some (fmtF32.decode b.toNat)]
  (BitVec.ofNat 32 (fmtF32.encode r.1), r.2)
/-- The new value of an atomic and the flags it raises, on numbers of 4 or 8 bytes. -/
def atomNew (op : AtomOp) (w : Bool) (old b : Nat) : Nat × Flags :=
  if w then ((atomInt op (BitVec.ofNat 64 old) (BitVec.ofNat 64 b)).toNat, 0#5)
  else if op = .fadd then
    let r := atomFadd (BitVec.ofNat 32 old) (BitVec.ofNat 32 b)
    (r.1.toNat, r.2)
  else ((atomInt op (BitVec.ofNat 32 old) (BitVec.ofNat 32 b)).toNat, 0#5)

/-- Bytes of an atomic. -/
def atomSize (w : Bool) : Nat := if w then 8 else 4
/-- Operand r of an atomic. -/
def Thread.atomArg (t : Thread) (r : Reg) (w : Bool) : Nat := if w then (t.get64 r.toNat).toNat else (t.get r.toNat).toNat

/-- A read-modify-write as its checks need it: what the home makes of an old value (none: nothing is written), the operation and operands
that a home on another device is sent, whether host memory accepts it, and whether it has the form of a version advance. -/
structure Rmw where
  n : Nat
  new : Nat → Option Nat
  op : HomeOp
  args : List Byte
  host : Bool
  adv : Bool

/-- The data checks of an atomic (R369, R383) at a home of this device, or the acknowledgement of the home that performs it (R216). -/
def State.rmwData (s : State) (p : Party) (va : Nat) (pl : Place) (r : Rmw) : Except Stop Place :=
  if homeHere pl.loc then s.readable p va pl r.n
  else (s.acknowledged p va ⟨pl.loc, r.n, .rmw r.op, r.args⟩).map fun i => { pl with ack := i }
/-- The checks of an atomic (R262, R286, R369). -/
def State.checkRmw (s : State) (p : Party) (va : Nat) (r : Rmw) : Except Stop Place :=
  match s.checkAt p va r.n r.n .rmw with
  | .error e => .error e
  | .ok pl =>
    let region := if isScr pl.loc then 0 else paRegion pl.loc
    let bad := match r.new (leNat (s.homeBytes pl.loc r.n)) with
      | none => false
      | some v => region == 0 && s.winWrite pl.loc (leBytes r.n v) r.adv
    if bad then .error (stopAt .win va)
    else if pl.obj && s.tag pl.loc then .error (stopAt .tag va)
    else if region = 3 || (region = 2 && !r.host) then .error (stopBare .arg)
    else s.rmwData p va pl r

/-- Lanes' atomics at their homes, in order of `$lane`, each reading what the one before it wrote (R262), with the old values: a home of
another device has performed it and answered the old value. -/
def rmwLanes (b : Block) (s : State) : List (Nat × Place × Rmw × Option Nat) → State × List (Nat × Nat)
  | [] => (s, [])
  | (tid, _, _, some old) :: l =>
    let x := rmwLanes b s l
    (x.1, (tid, old) :: x.2)
  | (tid, pl, r, none) :: l =>
    let s1 := s.fetchHome pl.loc
    let old := s1.word pl.loc r.n
    let s2 := match r.new old with
      | none => s1.dropClean b.core pl.loc
      | some v => s1.homeStore b.core pl.loc (leBytes r.n v)
    let x := rmwLanes b s2 l
    (x.1, (tid, old) :: x.2)

/-- Registers that an old value is written to: none with `.nr`, a pair with W = 1. -/
def oldRegs (w nr : Bool) (old : Nat) : List W32 := if nr then [] else loadRegs (if w then .w64 else .w32) old

/-- An atomic of the issuing lanes (R262, R263): checks on all, then the homes, then the results, which return later (R290). -/
def atomic (s : State) (g : Guard) (a d : Reg) (w nr : Bool) (ord : Order) (sc : Scope) (rmw : Thread → Rmw)
    (flags : Thread → Nat → Flags) : Outcome State Fault Refusal :=
  match s.block s.cur.blk with
  | none => .next s
  | some b =>
    let va (t : Thread) : Nat := (t.get64 a.toNat).toNat
    let place (tid : Nat) (t : Thread) : Except Stop Place := s.checkRmw (b.party s.cur.blk t.sys tid) (va t) (rmw t)
    guarded s g (s.laneErrors g fun tid t => (place tid t).map fun _ => ()) fun s =>
      let acts := (s.actors g).filterMap fun x => (place x.1 x.2).toOption.map fun pl => (x.1, x.2, pl)
      let s1 := s.settle b s.cur.blk (acts.map fun x => (va x.2.1, x.2.2, atomSize w))
      let y := rmwLanes b s1 (acts.map fun x => (x.1, x.2.2, rmw x.2.1, x.2.2.ack.map fun i => leNat i.2))
      let s2 := y.1.onLanes fun tid t =>
        match y.2.find? fun e => e.1 == tid with
        | none => t.advance
        | some (_, old) => (t.deliver d.toNat (oldRegs w nr old) false false (flags t old)).advance
      let s3 := if acquires ord then s2.acquires b.core sc acts.length else s2
      s3.watch b (acts.map fun x =>
        { va := some (va x.2.1), pa := x.2.2.loc, n := atomSize w, rd := true, wr := true, eng := false, who := x.1 })

/-- `atom` (R261, R262). -/
def execAtom (o : AtomOpd) (s : State) : Outcome State Fault Refusal :=
  atomic s o.g o.a o.d o.w o.nr o.ord o.scope
    (fun t =>
      { n := atomSize o.w, new := fun old => some (atomNew o.op o.w old (t.atomArg o.b o.w)).1, op := .atom o.op,
        args := leBytes (atomSize o.w) (t.atomArg o.b o.w), host := o.op == .add || o.op == .xchg, adv := !o.w && releases o.ord && o.scope == .fabric })
    (fun t old => (atomNew o.op o.w old (t.atomArg o.b o.w)).2)

/-- `cas` (R263): c is written if the old value is b. -/
def execCas (o : CasOp) (s : State) : Outcome State Fault Refusal :=
  atomic s o.g o.a o.d o.w false o.ord o.scope
    (fun t =>
      { n := atomSize o.w, new := fun old => if old = t.atomArg o.b o.w then some (t.atomArg o.c o.w) else none,
        op := .cas, args := leBytes (atomSize o.w) (t.atomArg o.b o.w) ++ leBytes (atomSize o.w) (t.atomArg o.c o.w), host := true, adv := !o.w && releases o.ord && o.scope == .fabric })
    (fun _ _ => 0#5)

/-! ### `wait` -/

/-- The word that a `wait` compares, read at its home (R265). -/
def State.waitWord (s : State) (loc : Nat) : W32 := BitVec.ofNat 32 (leNat (s.homeBytes loc 4))
/-- The word that a read of a `wait` returns: at the home of this device, or the word of the response (R232). -/
def State.waitedWord (s : State) (pl : Place) : W32 :=
  match pl.ack with
  | some (_, l) => BitVec.ofNat 32 (leNat (l.take 4))
  | none => s.waitWord pl.loc
/-- A lane of a `wait` at a location (R265, log 25): its condition holds, its timeout has passed, or it waits. -/
def waitLane (o : WaitOp) (loc : Nat) (v : W32) (clock : Nat) (t : Thread) : Thread :=
  if condHolds o.cond v (t.get o.b.toNat) then ((t.set o.d.toNat v).set (o.d.toNat + 1) 0#32).endWait
  else if t.late clock then ((t.set o.d.toNat v).set (o.d.toNat + 1) 1#32).endWait
  else { t.arm clock (t.get o.c.toNat) with status := .waiting (.mem loc o.cond (t.get o.b.toNat)) }

/-- `wait` (R265): the word is read at its home, so that the core's L1 keeps no older copy of its line (R225); a lane whose condition does
not hold waits for a write to its line. -/
def execWait (o : WaitOp) (s : State) : Outcome State Fault Refusal :=
  match s.block s.cur.blk with
  | none => .next s
  | some b =>
    let va (t : Thread) : Nat := (t.get64 o.a.toNat).toNat
    let place (tid : Nat) (t : Thread) : Except Stop Place := s.checkRead (b.party s.cur.blk t.sys tid) (va t) 4
    guarded s o.g (s.laneErrors o.g fun tid t => (place tid t).map fun _ => ()) fun s =>
      let acts := (s.actors o.g).filterMap fun x => (place x.1 x.2).toOption.map fun pl => (x.1, x.2, pl, s.waitedWord pl)
      let s1 := s.settle b s.cur.blk (acts.map fun x => (va x.2.1, x.2.2.1, 4))
      let s2 := acts.foldl (fun s x => (s.fetchHome x.2.2.1.loc).dropClean b.core x.2.2.1.loc) s1
      let s3 := s2.onLanes fun tid t =>
        match acts.find? fun x => x.1 == tid with
        | none => t.advance
        | some x => waitLane o x.2.2.1.loc x.2.2.2 s.clock t
      let s4 := if o.acq then
          s3.acquires b.core o.scope (acts.filter fun x => condHolds o.cond x.2.2.2 (x.2.1.get o.b.toNat)).length
        else s3
      s4.watch b (acts.map fun x =>
        { va := some (va x.2.1), pa := x.2.2.1.loc, n := 4, rd := true, wr := false, eng := false, who := x.1 })

/-- A wait for a word. -/
def Wait.isMem : Wait → Bool
  | .mem _ _ _ => true
  | .bar | .rejoin | .gate | .tileBar _ | .barw _ _ | .vwait _ _ | .queue _ _ _ | .cwait _ _ | .idle _ | .tba _ | .basin _ _ _ => false
/-- The word that a wait looks for stands at its home on this device (R265). -/
def State.memOver (s : State) (w : Wait) : Bool :=
  match w with
  | .mem loc cond v => homeHere loc && condHolds cond (s.waitWord loc) v
  | .bar | .rejoin | .gate | .tileBar _ | .barw _ _ | .vwait _ _ | .queue _ _ _ | .cwait _ _ | .idle _ | .tba _ | .basin _ _ _ => false
/-- A wait for a word of a home outside this device (R265). -/
def Wait.isAway : Wait → Bool
  | .mem loc _ _ => !homeHere loc
  | .bar | .rejoin | .gate | .tileBar _ | .barw _ _ | .vwait _ _ | .queue _ _ _ | .cwait _ _ | .idle _ | .tba _ | .basin _ _ _ => false
/-- MEM_WAIT_WAKE (R265): a write to the line has performed that meets the condition, and the waiting lane reads again. A write that does
not meet it leaves the lane waiting, as another round of the wait would. -/
def execMemWaitWake (blk tid : Nat) (s : State) : Outcome State Fault Refusal := .next (s.modThread blk tid (·.wakeIf s.memOver))
/-- MEM_WAIT_TIMEOUT (R265). -/
def execMemWaitTimeout (blk tid : Nat) (s : State) : Outcome State Fault Refusal :=
  .next (s.modThread blk tid (·.expire Wait.isMem s.clock))
/-- WAIT_REMOTE_REREAD (R265): a wait on memory of a home outside this device reads it again. -/
def execWaitRemoteReread (blk tid : Nat) (s : State) : Outcome State Fault Refusal := .next (s.modThread blk tid (·.wakeIf Wait.isAway))

end Sys2Proof.Machine
end

