-- ==== Sys2Proof/Machine/Classes.lean ====
section
/-! DEFINITION. The candidates of a barge and what holds its next instruction (02_execution_model.md R37, 05_thread_instructions.md R109), what
the schedulers charge their cycles to (12_scheduling.md R306, R309-R311; 18_observation.md R398-R400), the owner of a
core's array (01_machine.md R19), and the slot numbers of barges (R303). -/

namespace Sys2Proof.Machine

/-! ### The next instruction of a barge -/

/-- The candidate lanes of a barge (R37), in order of `$lane`. -/
def Block.candidates (b : Block) (key : Nat) : List (Nat × Thread) :=
  let l := b.threads.zipIdx.filterMap fun x => if x.1.barge = key ∧ x.1.status = .active then some (x.2, x.1) else none
  (List.range 16).flatMap fun i => l.filter fun x => x.1 % 16 == i
/-- The smallest PC of candidate lanes, compared unsigned (R37). -/
def minPc (l : List (Nat × Thread)) : Option Addr :=
  l.foldl (fun m x => match m with
    | none => some x.2.pc
    | some p => if x.2.pc.toNat < p.toNat then some x.2.pc else some p) none

/-- The scope at which an instruction other than `fence` releases (R222, R226), if it does. -/
def releaseScope (i : Instr) : Option Scope :=
  match i with
  | .st o => o.ord
  | .str o => o.ord
  | .atom o => if releases o.ord then some o.scope else none
  | .cas o => if releases o.ord then some o.scope else none
  | .pub o => some o.scope
  | .kvref o => if releases o.ord then some o.scope else none
  | .kvrefClaim o => if releases o.ord then some o.scope else none
  | .kvunref o => if releases o.ord then some o.scope else none
  | _ => none
/-- A release that has still to wait before it issues (R222): at any scope for the acknowledgement of posted writes of its lanes, at fabric
scope also until every write into a cast window is in every copy of this device. -/
def State.releaseHeld (s : State) (blk : Nat) (lanes : List Nat) (i : Instr) : Bool :=
  match i with
  | .fence o => o.kind != .acq && o.scope == .fabric && s.casting != []
  | i => (releaseScope i).any fun sc => s.unacked blk lanes.contains || (sc == .fabric && s.casting != [])
/-- A pending result of a thread goes to a register of a list (R109). -/
def Thread.awaits (t : Thread) (l : List Nat) : Bool := t.pend.any fun p => p.dst.any fun w => l.contains w.1
/-- Some issued lane has a pending result in a register that the instruction names, or a `shfl` reads one of a thread that does not issue
(R109, R141). -/
def State.resultHeld (s : State) (blk : Nat) (lanes : List Nat) (i : Instr) : Bool :=
  (lanes.any fun tid => (s.thread blk tid).any (·.awaits (queueRun i))) ||
  (match i with
   | .shfl o => lanes.any fun tid => (s.thread blk tid).any fun t =>
       t.guard o.g && (s.thread blk (shflSrc o tid t)).any (·.awaits [o.a.toNat])
   | _ => false)
/-- The instruction does not issue yet on these lanes. -/
def State.heldFor (s : State) (blk : Nat) (lanes : List Nat) (i : Instr) : Bool := s.resultHeld blk lanes i || s.releaseHeld blk lanes i
/-- The instruction of the issuing lanes does not issue yet. -/
def State.interlocked (s : State) (i : Instr) : Bool := s.heldFor s.cur.blk s.cur.lanes i
/-- The lanes that a barge would issue next, and the instruction they stand at; none where its fetch or decode would stop it. -/
def State.peek (s : State) (b : Block) (blk key : Nat) : Option (List Nat × Instr) :=
  let l := b.candidates key
  (minPc l).bind fun pc =>
    let issued := l.filter fun x => x.2.pc == pc
    let lanes := issued.map Prod.fst
    match s.place (b.party blk (issued.all fun x => x.2.sys) (lanes.headD 0)) pc.toNat 8 .fetch with
    | .error _ => none
    | .ok pl =>
      let w : W64 := (Tbl.get none (s.core b.core).ticache (pl.loc / 8)).getD (BitVec.ofNat 64 (s.word pl.loc 8))
      match decodeThread w with
      | .error _ => none
      | .ok i => if usesOk b.nregs i then some (lanes, i) else none
/-- Something may hold an instruction of a block: a pending result, a posted write or a cast. -/
def State.mayHold (s : State) (b : Block) : Bool := (b.threads.any fun t => t.pend != []) || s.remotes != [] || s.casting != []
/-- The class of what holds the next instruction of a barge (R303, R309), if anything does. -/
def State.heldClass (s : State) (b : Block) (blk key : Nat) : Option Nat :=
  if !s.mayHold b then none
  else (s.peek b blk key).bind fun x =>
    if s.resultHeld blk x.1 x.2 then some 0x03 else if s.releaseHeld blk x.1 x.2 then some 0x08 else none

/-! ### Lane clusters -/

/-- The class of a thread's wait (R306). -/
def Wait.cls : Wait → Nat
  | .bar | .rejoin | .barw _ _ => 0x09
  | .mem _ _ _ | .vwait _ _ | .queue _ _ _ | .cwait _ _ | .idle _ | .tileBar _ | .tba _ => 0x0A
  | .basin _ _ _ => 0x0B
  | .gate => 0x0C
/-- The class of a stall (R309, R335). The table names none for a `pub` whose walk runs, which is charged as a fence, nor for an access to
another device, charged as a result of unfixed latency: the model's choice (log 84). -/
def Stall.cls : Stall → Nat
  | .park _ _ | .parkNoMonitor _ => 0x0F
  | .channel _ => 0x06
  | .fence | .tlbi | .pub => 0x08
  | .remote _ => 0x03
/-- The classes of reasons that only timing gives a barge that could issue (R309, log 5). -/
def timingClasses : List Nat := [0x02, 0x04, 0x05, 0x07, 0x0E, 0x10]
/-- The classes of reasons that only timing gives a context that could step (R310, log 5). -/
def timingStepClasses : List Nat := [0x02, 0x06, 0x09]
/-- The reasons for which a thread of a block does not issue (R309): none when it has exited; its stop, pre-emption or halt, and what it
waits for. One that nothing holds is held by timing alone. -/
def State.threadReasons (s : State) (blk : Nat) (b : Block) (clu : Nat) (t : Thread) : List Nat :=
  let stop := if (s.ctx b.slot).stops b blk t.barge || b.life == .stopped || b.preempt.isSome then [0x0D] else []
  match t.status with
  | .active =>
    match s.heldClass b blk t.barge with
    | some c => c :: stop
    | none => if stop = [] then [timingClasses.getD (Config.timing s.turn clu % 6) 0x02] else stop
  | .waiting w => w.cls :: stop
  | .stalled w => w.cls :: stop
  | .asleep => 0x0C :: stop
  | .exited => []
/-- The reasons of the threads of a lane cluster, with their PCs (R309): of every context, or of one context slot. -/
def State.clusterReasons (s : State) (core clu : Nat) (slot : Option Nat) : List (Nat × Nat) :=
  s.blocks.flatMap fun e => match e.2 with
    | none => []
    | some b =>
      if b.core ≠ core || b.life == .launched || slot.any (· != b.slot) then []
      else b.threads.zipIdx.flatMap fun x =>
        if b.clusterOf x.2 = clu then (s.threadReasons e.1 b clu x.1).map fun c => (c, x.1.pc.toNat) else []
/-- The lowest code (R309). -/
def lowest : List (Nat × Nat) → Option (Nat × Nat)
  | [] => none
  | x :: l =>
    match lowest l with
    | none => some x
    | some y => some (if y.1 < x.1 then y else x)

/-! ### Tile contexts and the array -/

/-- The class of a context's wait (R310), and of the array it owns (R398). The table names none for a context that parks or that waits for
another device: R330 gives MEMRD for a park, and the model charges the rest so too (log 84). -/
def TileWait.cls : TileWait → Nat × Nat
  | .ring => (3, 2)
  | .tileBar => (5, 4)
  | .copy | .channel _ | .granted _ => (4, 4)
  | .drain => (8, 3)
  | .memRead | .park _ | .parkNoMonitor _ | .remote _ => (7, 2)
  | .fence | .leaving => (0xB, 4)
/-- The reasons for which a context in the lock takes no step (R310), but for those that timing gives it. -/
def State.stepReasons (s : State) (b : Block) : List Nat :=
  (match b.tile.wait with | some w => [w.cls.1] | none => []) ++ (if b.life == .frozen then [0x0A] else []) ++
  (if (s.ctx b.slot).stopsTile || b.life == .stopped || b.preempt.isSome then [0x0C] else [])
/-- The class of a context in the lock that takes no step, the lowest-coded of its reasons (R309, R310), and of the array it owns, the first
row that applies (R398). -/
def State.stepClass (s : State) (b : Block) : Nat × Nat :=
  match (s.stepReasons b).min? with
  | some c => (c, ((b.tile.wait.map (·.cls.2)).getD 4))
  | none =>
    match timingStepClasses.getD (Config.timing s.turn (8 + b.cx.getD 0) % 3) 0x02 with
    | 0x06 => (6, if Config.timing s.turn 10 % 2 = 0 then 2 else 3)
    | c => (c, 4)
/-- The block in the lock on a tile context of a core. -/
def State.lockOf (s : State) (core cx : Nat) : Option Block :=
  s.blocks.findSome? fun e => e.2.bind fun b => if b.core == core && b.cx == some cx && b.inLock && b.life != .launched then some b else none
/-- The owner of a core's array in a cycle without an X operation (R19): the context that issued the latest one, while the block that issued it
is resident and reserves it. Whether a context that another resident block has come to reserve still owns the array is left open: in the
model it does not (log 85). -/
def State.arrayOwner (s : State) (core : Nat) : Option (Nat × Block) :=
  (s.core core).lastX.bind fun x => (s.block x.1).bind fun b =>
    if b.core = core && b.cx = some x.2.1 && b.life != .launched then some (x.2.1, b) else none

/-- What a unit that issues nothing is charged (R309, R310): class and address. -/
def State.idleClass (s : State) (core unit : Nat) : Nat × Nat :=
  if unit < 8 then (lowest (s.clusterReasons core unit none)).getD (1, 0)
  else
    match s.lockOf core (unit - 8) with
    | none => (1, 0)
    | some b => ((s.stepClass b).1, b.tile.baddr.toNat)
/-- n cycles of a unit that issues nothing. -/
def State.chargeIdle (s : State) (core unit n : Nat) : State :=
  let x := s.idleClass core unit
  s.charge core unit x.1 x.2 0 n
/-- n cycles of a core's array without an X operation (R398): charged to its owner's wait, or to no owner. -/
def State.chargeArrayIdle (s : State) (core n : Nat) : State :=
  match s.arrayOwner core with
  | none => s.chargeArray none core 0 4 0 n
  | some (cx, b) => s.chargeArray (some b.slot) core cx (if b.inLock then (s.stepClass b).2 else 4) b.tile.baddr.toNat n

/-- The lane clusters and contexts whose cycles have a reason other than emptiness (R309, R310). -/
def State.chargedUnits (s : State) : List (Nat × Nat) :=
  (s.blocks.flatMap fun e => match e.2 with
    | none => []
    | some b =>
      if b.life == .launched then []
      else ((List.range ((b.threads.length + 15) / 16)).map fun k => (b.core, b.clusterOf (16 * k))) ++
        (match b.cx with | some cx => if b.inLock then [(b.core, 8 + cx)] else [] | none => [])).dedup
/-- n cycles pass (R309-R311, R398), and one more for every unit but the one whose turn it is. -/
def State.passTime (s : State) (n : Nat) (moving : Option (Nat × Nat)) : State :=
  let s1 := s.chargedUnits.foldl (fun (s : State) u => s.chargeIdle u.1 u.2 (if moving = some u then n else n + 1)) s
  (s.cores.filter fun e => e.2.lastX.isSome).foldl (fun (s : State) e =>
    s.chargeArrayIdle e.1 (if moving.any fun u => u.1 == e.1 && 8 ≤ u.2 then n else n + 1)) s1

/-- A counter as it reads (R311, R398, R400): the class of the cycles that no unit is charged for, EMPTY, NOLOCK and the array without
command, is the rest of the device's cycles. -/
def State.counter (s : State) (core unit cls : Nat) : W64 :=
  let at_ (c : Nat) : W64 := Tbl.get 0#64 s.counters (counterAt core unit c)
  let rest := if unit < 10 then 1 else 4
  if cls ≠ rest then at_ cls
  else (List.range 32).foldl (fun n c => if c = rest then n else n - at_ c) (BitVec.ofNat 64 s.clock)

/-! ### Slots of barges -/

/-- A barge is formed and has a thread that has not exited. -/
def State.bargeLives (s : State) (x : Nat × Nat) : Bool :=
  (s.block x.1).any fun b => b.life != .launched && b.threads.any fun t => t.barge == x.2 && t.status != .exited
/-- The lane cluster of a barge: that of its thread with the lowest number. -/
def Block.bargeCluster (b : Block) (key : Nat) : Nat := b.clusterOf (b.threads.findIdx fun t => t.barge == key && t.status != .exited)
/-- The barges of a core, with their lane clusters, in order of block and number. -/
def State.bargesOn (s : State) (core : Nat) : List (Nat × Nat × Nat) :=
  s.blocks.flatMap fun e => match e.2 with
    | none => []
    | some b =>
      if b.core ≠ core || b.life == .launched then []
      else (((b.threads.filter fun t => t.status != .exited).map (·.barge)).dedup).map fun k => (b.bargeCluster k, e.1, k)
/-- Every barge of a core has its slot (R303): one that has newly formed takes the lowest free slot of its lane cluster (log 3). -/
def State.slotCore (s : State) (core : Nat) : State :=
  let c := s.core core
  let kept := c.slots.filter fun e => e.2.any s.bargeLives
  let l := (s.bargesOn core).foldl (fun (t : Tbl (Option (Nat × Nat))) x =>
    if t.any fun e => e.2 == some x.2 then t
    else
      match (List.range 128).find? fun i => (Tbl.get none t (128 * x.1 + i)).isNone with
      | none => t
      | some i => Tbl.put none t (128 * x.1 + i) (some x.2)) kept
  if l = c.slots then s else s.modCore core fun c => { c with slots := l }
/-- The slots of every core that holds a block. -/
def State.slotBarges (s : State) : State :=
  ((s.blocks.filterMap fun e => e.2.map (·.core)) ++ (s.cores.filterMap fun e => if e.2.slots = [] then none else some e.1)).dedup.foldl State.slotCore s
/-- The slot that issued last on a lane cluster. -/
def CoreSt.slotBefore (c : CoreSt) (clu : Nat) : Nat := Tbl.get 127 c.lastSlot clu
/-- A barge of a lane cluster has issued (R303). -/
def State.slotIssued (s : State) (core clu blk key : Nat) : State :=
  match (s.core core).slots.find? fun e => e.2 == some (blk, key) with
  | none => s
  | some e => s.modCore core fun c => { c with lastSlot := Tbl.put 127 c.lastSlot clu (e.1 % 128) }
/-- The barge that a lane cluster's scheduler issues (R303): in slot order after the slot that issued last, the first of which p holds. -/
def State.nextBarge (s : State) (core clu : Nat) (p : Nat → Nat → Bool) : Option (Nat × Nat) :=
  let c := s.core core
  (List.range 128).findSome? fun i =>
    match Tbl.get none c.slots (128 * clu + (c.slotBefore clu + 1 + i) % 128) with
    | none => none
    | some x => if p x.1 x.2 then some x else none

end Sys2Proof.Machine
end

