-- ==== Sys2Proof/Machine/Issue.lean ====
section
/-! DEFINITION. The issue of a barge instruction (02_execution_model.md R37, 03_encodings.md R60, R78-R82,
05_thread_instructions.md R109): candidate lanes, fetch, decode checks and interlock, round the meaning that `run` gives. -/

namespace Sys2Proof.Machine

open Host (Outcome)

/-- Why a barge holds an un-issued instruction, if it does. -/
def Block.stallOf (b : Block) (key : Nat) : Option Stall :=
  b.threads.findSome? fun t =>
    match t.status with
    | .stalled w => if t.barge = key then some w else none
    | .active | .waiting _ | .asleep | .exited => none
/-- Words of the thread instruction cache (R16). -/
def tiWords : Nat := 8192
/-- A thread instruction word fetched through the context's translation (R82, R327): a user lane of the barge needs U. A word
held by the thread instruction cache is not read again (log 9); only words of the core's own die are held (R22), and a line is counted
when a word of it is fetched of which none is held (R337). -/
def State.fetchThread (s : State) (b : Block) (blk : Nat) (sys : Bool) (who : Nat) (pc : Addr) : Except Stop (W64 × State) :=
  match s.place (b.party blk sys who) pc.toNat 8 .fetch with
  | .error e => .error e
  | .ok pl =>
    let s1 := s.used b.core pl
    let cache := (s.core b.core).ticache
    match Tbl.get none cache (pl.loc / 8) with
    | some w => .ok (w, s1)
    | none =>
      match s.readable (b.party blk sys who) pc.toNat pl 8 with
      | .error e => .error e
      | .ok p2 =>
        let w : W64 := BitVec.ofNat 64 (match p2.ack with | some (_, l) => leNat (l.take 8) | none => s.word pl.loc 8)
        let s2 := (if cache.any fun e => e.1 / 16 == pl.loc / 128 then s1 else s1.count b.slot pc.toNat pl).consume (p2.ack.map Prod.fst).toList
        .ok (w, if l1May b.core pl.loc then s2.modCore b.core fun c => { c with ticache := holdWord tiWords c.ticache (pl.loc / 8) w } else s2)

/-- The barge is back at an instruction boundary: lanes that no longer park forget their last park, and no unit is issuing. -/
def State.endIssue (s : State) : State :=
  let s1 := s.onLanes fun _ t =>
    match t.status with
    | .stalled (.park _ _) | .stalled (.parkNoMonitor _) => t
    | .active | .waiting _ | .asleep | .exited | .stalled (.channel _) | .stalled .fence | .stalled .tlbi | .stalled .pub
    | .stalled (.remote _) => { t with lastPark := [] }
  { s1 with cur := Cursor.idle }
/-- The same for an outcome. -/
def endIssueOut (o : Outcome State Fault Refusal) : Outcome State Fault Refusal :=
  match o with
  | .next s => .next s.endIssue
  | .fault f => .fault f
  | .refused r => .refused r

/-! ### What orders the threads of a block, for their accumulator accesses -/

/-- How an instruction orders its thread towards others of its block (R226, R227): whether it releases, whether it acquires, and through
which object; none stands for every object, as of a fence. -/
structure Sync where
  g : Guard
  rel : Bool
  acq : Bool
  key : Thread → Option Nat
/-- The number of a word of memory as an object that orders (R226): aligned 16 bytes. -/
def syncMem (va : Nat) : Option Nat := some (8 * (va / 16) + 1)
/-- What orders threads of a block (R226, R227): ordered accesses, fences, leaf barriers, queues, copies and cast windows. `bar`, `rejoin` and
`tba` order by themselves. -/
def syncOf (i : Instr) : Option Sync :=
  match i with
  | .ld o => o.ord.map fun _ => ⟨o.g, false, true, fun t => syncMem (t.ea o.a o.ofs)⟩
  | .st o => o.ord.map fun _ => ⟨o.g, true, false, fun t => syncMem (t.ea o.a o.ofs)⟩
  | .ldr o => o.ord.map fun _ => ⟨o.g, false, true, fun t => syncMem (t.ea o.a o.ofs)⟩
  | .str o => o.ord.map fun _ => ⟨o.g, true, false, fun t => syncMem (t.ea o.a o.ofs)⟩
  | .pub o => some ⟨o.g, true, false, fun t => syncMem (t.ea o.a o.ofs)⟩
  | .atom o => some ⟨o.g, releases o.ord, acquires o.ord, fun t => syncMem (t.get64 o.a.toNat).toNat⟩
  | .cas o => some ⟨o.g, releases o.ord, acquires o.ord, fun t => syncMem (t.get64 o.a.toNat).toNat⟩
  | .wait o => some ⟨o.g, false, o.acq, fun t => syncMem (t.get64 o.a.toNat).toNat⟩
  | .fence o => some ⟨o.g, o.kind != .acq, o.kind != .rel, fun _ => none⟩
  | .kvref o => some ⟨o.g, releases o.ord, acquires o.ord, fun _ => some 2⟩
  | .kvrefClaim o => some ⟨o.g, releases o.ord, acquires o.ord, fun _ => some 2⟩
  | .kvunref o => some ⟨o.g, releases o.ord, acquires o.ord, fun _ => some 2⟩
  | .barr o => some ⟨o.g, true, false, fun _ => some (8 * o.n.toNat + 3)⟩
  | .barw o => some ⟨o.g, false, true, fun _ => some (8 * o.n.toNat + 3)⟩
  | .qpush o => some ⟨o.g, true, false, fun _ => some 4⟩
  | .qpop o => some ⟨o.g, false, true, fun _ => some 4⟩
  | .cpy o => some ⟨o.g, true, false, fun _ => some (8 * o.ch.toNat + 5)⟩
  | .cpn o => some ⟨o.g, true, false, fun _ => some (8 * o.ch.toNat + 5)⟩
  | .cwait o => some ⟨o.g, false, true, fun _ => some (8 * o.ch.toNat + 5)⟩
  | .cstat o => some ⟨o.g, false, o.acq, fun _ => some (8 * o.ch.toNat + 5)⟩
  | .vwait o => some ⟨o.g, false, true, fun _ => none⟩
  | _ => none
/-- What an acquire through an object finds released (R226): at the object and by fences; through every object for a fence. -/
def Block.released (b : Block) (k : Option Nat) : BitVec 64 :=
  match k with
  | some k => Tbl.get 0#64 b.syncs k ||| Tbl.get 0#64 b.syncs 0
  | none => b.syncs.foldl (fun v e => v ||| e.2) 0#64
/-- One lane has performed an ordering instruction: its release carries the tiles of which a `tbw` of the current phase came before it, and
its acquire makes those that it finds precede the lane's later accesses (R211). -/
def Block.syncLane (b : Block) (y : Sync) (tid : Nat) (t : Thread) : Block :=
  let k := y.key t
  let b1 := if y.rel then { b with syncs := Tbl.put 0#64 b.syncs (k.getD 0) (Tbl.get 0#64 b.syncs (k.getD 0) ||| t.tiles) } else b
  if y.acq then { b1 with threads := b1.threads.modify tid fun x => { x with tiles := x.tiles ||| b.released k } } else b1
/-- The order that an instruction made for the issued lanes that it performed on, which have moved past it. `pre` is the block before it. -/
def State.synced (pre : Block) (blk : Nat) (lanes : List Nat) (i : Instr) (s : State) : State :=
  if pre.syncs = [] && pre.threads.all (·.tiles == 0#64) then s
  else
    match syncOf i with
    | none => s
    | some y =>
      s.modBlock blk fun b => lanes.foldl (fun b tid =>
        match pre.threads[tid]?, b.threads[tid]? with
        | some t, some t' => if t.guard y.g && t'.pc == t.pc + 8#56 then b.syncLane y tid t else b
        | _, _ => b) b
/-- The same for an outcome. -/
def syncedOut (pre : Block) (blk : Nat) (lanes : List Nat) (i : Instr) (o : Outcome State Fault Refusal) : Outcome State Fault Refusal :=
  match o with
  | .next s => .next (s.synced pre blk lanes i)
  | .fault f => .fault f
  | .refused r => .refused r

/-! ### The issue -/

/-- A thread breakpoint at the instruction that would issue next (R387): the barge stops before it. -/
def State.threadBreak (s : State) (b : Block) : Option State :=
  ((s.ctx b.slot).bpMatch false s.cur.pc).map fun n => s.stopHit b.slot (s.threadStop b 2 n)

/-- The word fetched: decoded, checked and run (R60, R78, R79, R109). `s` has the issuing lanes, of barge `key`, in its cursor. -/
def issueWord (run : Instr → State → Outcome State Fault Refusal) (b : Block) (unit key : Nat) (w : W64) (s : State) :
    Outcome State Fault Refusal :=
  let issued : State := (s.charge b.core unit 0 s.cur.pc.toNat s.cur.lanes.length 1 (some b.slot)).slotIssued b.core unit s.cur.blk key
  match decodeThread w with
  | .error _ => endIssueOut (.next (issued.faultDecode (stopBare .ill)))
  | .ok i =>
    if !usesOk b.nregs i then endIssueOut (.next (issued.faultDecode (stopBare .ill)))
    else if s.interlocked i then .next { s.chargeIdle b.core unit 1 with cur := Cursor.idle }
    else
      endIssueOut (syncedOut b s.cur.blk s.cur.lanes i
        (run i (issued.modBlock s.cur.blk fun b => if b.life = .resident then { b with life := .running } else b)))

/-- What the fetch of a barge's word comes to when it does not give one (R79, R330, R366): the lanes fault, park, or wait. -/
def State.fetchStop (s : State) (b : Block) (unit : Nat) (e : Stop) : State :=
  let s1 := s.chargeIdle b.core unit 1
  let l := s.cur.lanes
  match e with
  | .fault c n va pa d => s1.faultDecode (.fault c n va pa d)
  | .park a va p => s1.parkLanes (l.map fun t => (t, .park a va p))
  | .away a => s1.awayLanes [(l.headD 0, .away a)]
  | .busy _ => s1
/-- What stops candidate lanes before their instruction: a step-mode stop (R393), or a breakpoint (R387). -/
def State.stopBefore (s : State) (b : Block) (blk key : Nat) : Option State :=
  if (s.ctx b.slot).stepped.any fun l => l.contains (blk, key) then some (s.stopHit b.slot (s.threadStop b 5 0)) else s.threadBreak b
/-- The end of a step of a barge in step mode (R393): the record names the instruction at which it then stands. -/
def State.endStepped (s : State) (b : Block) (lanes : List Nat) (blk : Nat) : State :=
  let pc := ((s.thread blk (lanes.headD 0)).map (·.pc.toNat)).getD 0
  s.stepDone b.slot { ({ s with cur := { Cursor.idle with lanes } } : State).threadStop b 5 0 with pc, baddr := pc }
/-- The same for an outcome. -/
def endSteppedOut (b : Block) (lanes : List Nat) (blk : Nat) (o : Outcome State Fault Refusal) : Outcome State Fault Refusal :=
  match o with
  | .next s => .next (s.endStepped b lanes blk)
  | .fault f => .fault f
  | .refused r => .refused r
/-- The issue of candidate lanes at their smallest PC: what stops before it, the fetch, then the word. -/
def issueLanes (run : Instr → State → Outcome State Fault Refusal) (b : Block) (blk key : Nat) (lanes : List Nat) (pc : Addr)
    (sys : Bool) (s : State) : Outcome State Fault Refusal :=
  let unit := b.clusterOf (lanes.headD 0)
  let s1 : State := { s with cur := { Cursor.idle with blk, lanes, pc, slot := 8, baddr := pc } }
  match s1.stopBefore b blk key with
  | some s2 => .next { (s2.chargeIdle b.core unit 1) with cur := Cursor.idle }
  | none =>
    match s1.fetchThread b blk sys (lanes.headD 0) pc with
    | .error e => endIssueOut (.next (s1.fetchStop b unit e))
    | .ok (w, s2) =>
      if (s.ctx b.slot).stepped.isNone then issueWord run b unit key w s2
      else endSteppedOut b lanes blk (issueWord run b unit key w (s2.modCtx b.slot fun c => { c with stepped := c.stepped.map ((blk, key) :: ·) }))

/-- The first thread of some lanes whose register file holds an uncorrectable error (R383); none of lanes names the block's context. -/
def State.upsetIn (s : State) (blk : Nat) (l : List (Option Nat)) : Bool := s.upsets.any fun e => e.1 == blk && l.contains e.2
/-- An uncorrectable error in a register file, an accumulator tile, keeper state or a weight bank is found (R383): its context is killed with
KIND 6 and CODE ECC. -/
def State.killUpset (s : State) (b : Block) (blk : Nat) (l : List (Option Nat)) (pc : Addr) : State :=
  ({ s with upsets := s.upsets.filter fun e => !(e.1 == blk && l.contains e.2) } : State).killWith b.slot
    ({ code := Code.ecc.num, asid := (s.ctx b.slot).asid.toNat, own := b.owner.toNat, core := b.core, pc := pc.toNat } : Rec).bits

/-- A block's barges may issue: it is resident, and no kill has stopped it (R57). -/
def Block.issues (b : Block) : Bool :=
  !b.killed && (b.life == .resident || b.life == .running || b.life == .frozen)

/-- The wait of a context counts as a ring wait or a wait for copies (R52, R57): `cbw`, `cbf` and `ybar.wt` (R183, R209), `ccwt` and `fwait`,
and the back-pressure of a copy channel (R269). -/
def TileWait.counts : TileWait → Bool
  | .ring | .tileBar | .copy | .channel _ | .granted _ => true
  | .drain | .memRead | .fence | .leaving | .park _ | .parkNoMonitor _ | .remote _ => false
/-- A running block waits (R57): every thread that has not exited is in a scheduler-visible wait, or, in the lock, its context is in a wait
that counts. -/
def Block.waits (b : Block) : Bool :=
  b.life == .running &&
  (if b.inLock then b.tile.wait.any (·.counts)
   else b.threads.all fun t => match t.status with
     | .exited | .waiting _ => true
     | .active | .stalled _ | .asleep => false)

/-- A barge selected by its lane-cluster scheduler (R37). Lanes whose handler entry waited for memory enter first (R370), before a halt stops
them (R394). -/
def issueBarge (run : Instr → State → Outcome State Fault Refusal) (blk key : Nat) (s : State) : Outcome State Fault Refusal :=
  match s.block blk with
  | none => .next s
  | some b =>
    let idle : State := s.chargeIdle b.core (b.bargeCluster key) 1
    let l := b.candidates key
    if !b.issues || (b.stallOf key).isSome then .next idle
    else
      match l.filter fun x => x.2.entry.isSome with
      | e :: es =>
        .next ((e :: es).foldl (fun s x =>
          match x.2.entry with
          | some (r, rpc) => s.enterLane blk x.1 r rpc
          | none => s) idle)
      | [] =>
        if (s.ctx b.slot).stops b blk key then .next idle
        else
          match minPc l with
          | none => .next idle
          | some pc =>
            let issued := l.filter fun x => x.2.pc == pc
            let lanes := issued.map Prod.fst
            if s.upsetIn blk (lanes.map some) then .next (idle.killUpset b blk (lanes.map some) pc)
            else issueLanes run b blk key lanes pc (issued.all fun x => x.2.sys) s

end Sys2Proof.Machine
end

