-- ==== Sys2Proof/Machine/Barriers.lean ====
section
/-! DEFINITION. The barrier tree (11_memory_instructions.md R283, R284), tile barriers and accumulator access of threads
(07_attention_kv.md R208-R211, 11_memory_instructions.md R288). -/

namespace Sys2Proof.Machine

open Host (Outcome)

/-! ### The barrier tree -/

/-- A leaf barrier of a core. -/
def State.leaf (s : State) (core n : Nat) : Leaf := Tbl.get Leaf.empty (s.core core).leaves n
/-- A leaf barrier changed. -/
def State.modLeaf (s : State) (core n : Nat) (f : Leaf → Leaf) : State :=
  s.modCore core fun c => { c with leaves := Tbl.modify Leaf.empty c.leaves n f }
/-- A phase that flips (R284). -/
def Leaf.flip (l : Leaf) : Leaf := { l with ph := !l.ph, cnt := 0, xb := 0, ab := 0, reported := false }
/-- The root's number for barrier n of the cluster of a core. -/
def rootOf (core n : Nat) : Nat := 16 * (core / 8) + n
/-- A leaf whose arrivals and bytes meet their expectations (R284): it flips, or reports to the cluster root. -/
def State.settleLeaf (s : State) (core n : Nat) : State :=
  let l := s.leaf core n
  if l.owner.isNone || l.reported || l.cnt ≠ l.exp || l.ab ≠ l.xb then s
  else if !l.clu then s.modLeaf core n Leaf.flip
  else { (s.modLeaf core n fun l => { l with reported := true }) with roots := Tbl.modify 0 s.roots (rootOf core n) (· + 1) }
/-- Bytes credited to a leaf by a completed copy (R284, R274). -/
def State.creditLeaf (s : State) (core n bytes : Nat) : State :=
  (s.modLeaf core n fun l => { l with ab := l.ab + bytes }).settleLeaf core n

/-- `bari` (R283). -/
def execBari (o : BariOp) (s : State) : Outcome State Fault Refusal :=
  match s.block s.cur.blk with
  | none => .next s
  | some b =>
    match s.actors o.g with
    | [] => .next (s.lanes o.g fun _ t => t)
    | (tid, t) :: l =>
      let a := t.get o.a.toNat
      let v := t.get o.b.toNat
      let other := l.filter fun x => x.2.get o.a.toNat ≠ a || x.2.get o.b.toNat ≠ v
      let x := s.leaf b.core o.n.toNat
      if a.setWidth 16 = 0#16 || a.extractLsb' 16 16 ≠ 0#16 || v &&& 0xFFFFF8FE#32 ≠ 0#32 then
        .next (s.faultLanes o.g (s.active o.g) (stopBare .arg))
      else if other ≠ [] then .next (s.faultLanes o.g (other.map Prod.fst) (stopBare .arg))
      else if (x.owner.isSome && x.owner ≠ some s.cur.blk) || x.cnt ≠ 0 || x.xb ≠ 0 || x.ab ≠ 0 then
        .next (s.faultLanes o.g [tid] (stopBare .bsy))
      else
        .next ((s.modLeaf b.core o.n.toNat fun x =>
          { x with owner := some s.cur.blk, exp := (a.setWidth 16).toNat, clu := v.getLsbD 0, rc := (v.extractLsb' 8 3).toNat + 1 }).lanes
          o.g fun _ t => t)

/-- `barr` (R283): each lane arrives, with its bytes; the leaf then completes if its expectations are met (R284). -/
def execBarr (o : BarrOp) (s : State) : Outcome State Fault Refusal :=
  match s.block s.cur.blk with
  | none => .next s
  | some b =>
    let x := s.leaf b.core o.n.toNat
    let l := s.active o.g
    let bad := if x.owner ≠ some s.cur.blk then l else l.drop (x.exp - x.cnt)
    match bad with
    | _ :: _ => .next (s.faultLanes o.g bad (stopBare .bsy))
    | [] =>
      let bytes := match o.x with
        | none => 0
        | some r => (s.actors o.g).foldl (fun n y => n + (y.2.get r.toNat).toNat) 0
      .next (((s.modLeaf b.core o.n.toNat fun x => { x with cnt := x.cnt + l.length, xb := x.xb + bytes }).settleLeaf b.core
        o.n.toNat).lanes o.g fun _ t => t)

/-- `barw` (R283): waits until the phase differs from the one the lane saw; it acquires at core or cluster scope (R284). -/
def execBarw (o : BarwOp) (s : State) : Outcome State Fault Refusal :=
  match s.block s.cur.blk with
  | none => .next s
  | some b =>
    let x := s.leaf b.core o.n.toNat
    let l := s.active o.g
    if l ≠ [] && x.owner ≠ some s.cur.blk then .next (s.faultLanes o.g l (stopBare .bsy))
    else
      let passes (t : Thread) : Bool := x.ph != (t.get o.a.toNat).getLsbD 0
      let s1 := if x.clu then s.acquires b.core .cluster ((s.actors o.g).filter fun y => passes y.2).length else s
      .next (s1.onLanes fun _ t =>
        if !t.guard o.g then t.advance
        else if passes t then (t.set o.d.toNat ((BitVec.ofBool x.ph).setWidth 32)).endWait
        else { t with status := .waiting (.barw o.n.toNat ((t.get o.a.toNat).getLsbD 0)) })
/-- The phase that a `barw` on a core waits for has come (R283). -/
def State.barwOver (s : State) (core : Nat) (w : Wait) : Bool :=
  match w with
  | .barw n saw => (s.leaf core n).ph != saw
  | .bar | .rejoin | .gate | .tileBar _ | .mem _ _ _ | .vwait _ _ | .queue _ _ _ | .cwait _ _ | .idle _ | .tba _ | .basin _ _ _ => false
/-- BARW_WAKE (R283): the phase has flipped, and the waiting lane looks at it again. -/
def execBarwWake (blk tid : Nat) (s : State) : Outcome State Fault Refusal :=
  match s.block blk with
  | none => .next s
  | some b => .next (s.modThread blk tid (·.wakeIf (s.barwOver b.core)))
/-- ROOT_BROADCAST (R284): once RC leaves of a cluster have reported, every one of them flips. -/
def execRootBroadcast (cluster n : Nat) (s : State) : Outcome State Fault Refusal :=
  let cores := ((List.range 8).map (8 * cluster + ·)).filter fun c => (s.leaf c n).reported
  match cores with
  | [] => .next s
  | c :: _ =>
    if (s.leaf c n).rc ≤ Tbl.get 0 s.roots (16 * cluster + n) then
      .next { (cores.foldl (fun s c => s.modLeaf c n Leaf.flip) s) with roots := Tbl.put 0 s.roots (16 * cluster + n) 0 }
    else .next s

/-! ### Tile barriers -/

/-- The context that a correction block's instruction on tile T reaches (R210, R298): ILL outside the role or the allocation, ARG
once the served block has retired. -/
def State.servedTile (s : State) (b : Block) (t : AReg) : Except Stop (Nat × Block) :=
  if !b.correction then .error (stopBare .ill)
  else
    match s.served b with
    | none => .error (stopBare .arg)
    | some (x, y) => if y.accTiles ≤ t.toNat then .error (stopBare .ill) else .ok (x, y)

/-- `tbw` (R209): passes once the tile is with the correction block; the passing threads are ordered after it (R211). -/
def execTbw (o : TileOp) (s : State) : Outcome State Fault Refusal :=
  match s.block s.cur.blk with
  | none => .next s
  | some b =>
    match s.active o.g with
    | [] => .next (s.lanes o.g fun _ t => t)
    | l =>
      match s.servedTile b o.t with
      | .error e => .next (s.faultLanes o.g l e)
      | .ok (x, y) =>
        if y.tile.withCorrection o.t.toNat then
          .next ((s.modBlock x fun y =>
            { y with tile := y.tile.setAcc (accSide o.t.toNat 3) (y.tile.accWord (accSide o.t.toNat 3) ||| 2#32) }).onLanes fun _ t =>
              if t.guard o.g then { t.endWait with tiles := t.tiles ||| 1#64 <<< o.t.toNat } else t.advance)
        else .next (waitLanes s o.g (.tileBar o.t.toNat))
/-- `tba` (R209): the threads wait, and the last arrival completes the barrier. -/
def execTba (o : TileOp) (s : State) : Outcome State Fault Refusal :=
  match s.block s.cur.blk with
  | none => .next s
  | some b =>
    match s.active o.g with
    | [] => .next (s.lanes o.g fun _ t => t)
    | l =>
      match s.servedTile b o.t with
      | .error e => .next (s.faultLanes o.g l e)
      | .ok _ => .next ((waitLanes s o.g (.tba o.t.toNat)).releaseTba s.cur.blk l)
/-- TBW_WAKE (R209, R306): the threads of a block at a `tbw` of a tile look at it again, once the tile is with the correction block; all of
them once the served block has retired, for the ARG of R298. -/
def execTbwWake (blk tile : Nat) (s : State) : Outcome State Fault Refusal :=
  match (s.block blk).bind fun b => (s.served b) with
  | none =>
    .next (s.modBlock blk fun b => { b with threads := b.threads.map (·.wakeIf fun w => match w with | .tileBar _ => true | _ => false) })
  | some (_, y) =>
    if y.tile.withCorrection tile then .next (s.modBlock blk fun b => { b with threads := b.threads.map (·.wakeIf (· == .tileBar tile)) })
    else .next s

/-! ### Accumulator access -/

/-- Registers W of an accumulator access (R288). -/
def accWidth : AccW → Nat
  | .w1 => 1
  | .w2 => 2
  | .w4 => 4
  | .w8 => 8
/-- The number of the word at column index c of row r of a tile: 34 is the amax word (R288). -/
def accAt (t r c : Nat) : Nat := if c = 34 then accSide t 0 else accIdx t r c
/-- The checks of an accumulator access (R288) on the row and column that a lane gives. -/
def accCheck (o : AccOp) (t : Thread) : Except Stop Unit :=
  let a := t.get o.a.toNat
  let c := (a.extractLsb' 5 6).toNat
  if a.extractLsb' 11 21 ≠ 0#21 || 34 < c || 35 < c + accWidth o.w then .error (stopBare .arg) else .ok ()
/-- The numbers of the words that a lane's access names. -/
def accWords (o : AccOp) (t : Thread) : List Nat :=
  let a := t.get o.a.toNat
  (List.range (accWidth o.w)).map fun i => accAt o.t.toNat (a.setWidth 5).toNat ((a.extractLsb' 5 6).toNat + i)
/-- A thread of the correction block may use the tile (R211): the tile is with the block, and the thread is ordered after a `tbw` of this
phase. -/
def Tile.corrected (x : Tile) (t : Nat) (u : Thread) : Bool := x.withCorrection t && (x.accWord (accSide t 3)).getLsbD 1 && u.tiles.getLsbD t

/-- The decode part of the checks of an accumulator access (R288): ILL. -/
def accDecode (b : Block) (o : AccOp) : Bool := b.nregs < o.d.toNat + accWidth o.w || !b.correction

/-- `accld` (R288): outside the phase of R211 the words read are undefined, free values (log 6). -/
def execAccld (o : AccOp) (s : State) : Outcome State Fault Refusal :=
  match s.block s.cur.blk with
  | none => .next s
  | some b =>
    match s.active o.g with
    | [] => .next (s.lanes o.g fun _ t => t)
    | l =>
      if accDecode b o then .next (s.faultLanes o.g l (stopBare .ill))
      else
        match s.servedTile b o.t with
        | .error e => .next (s.faultLanes o.g l e)
        | .ok (_, y) =>
          guarded s o.g (s.laneErrors o.g fun _ t => accCheck o t) fun s =>
            ({ s with free := s.free + 8192 } : State).lanes o.g fun tid t =>
              t.setRun o.d.toNat ((accWords o t).zipIdx.map fun x =>
                if y.tile.corrected o.t.toNat t then y.tile.accWord x.1 else Config.freeBits (s.free + 8 * tid + x.2) 32)
/-- `accst` (R288): the higher lane's word stands; outside the phase of R211 the words written become undefined (log 6). -/
def execAccst (o : AccOp) (s : State) : Outcome State Fault Refusal :=
  match s.block s.cur.blk with
  | none => .next s
  | some b =>
    match s.active o.g with
    | [] => .next (s.lanes o.g fun _ t => t)
    | l =>
      if accDecode b o then .next (s.faultLanes o.g l (stopBare .ill))
      else
        match s.servedTile b o.t with
        | .error e => .next (s.faultLanes o.g l e)
        | .ok (x, y) =>
          guarded s o.g (s.laneErrors o.g fun _ t => accCheck o t) fun s =>
            let ws := (s.actors o.g).flatMap fun z =>
              (accWords o z.2).zipIdx.map fun w =>
                (w.1, if y.tile.corrected o.t.toNat z.2 then z.2.get (o.d.toNat + w.2) else Config.freeBits (s.free + 8 * z.1 + w.2) 32)
            (({ s with free := s.free + 8192 } : State).modBlock x fun y =>
              { y with tile := ws.foldl (fun t w => t.setAcc w.1 w.2) y.tile }).lanes o.g fun _ t => t

end Sys2Proof.Machine
end

