-- ==== Sys2Proof/Machine/KvPool.lean ====
section
/-! DEFINITION. The KV pool: page descriptors, pins, `kvref`, `kvref.claim` and `kvunref` (07_attention_kv.md R192-R196, R205). -/

namespace Sys2Proof.Machine

open Host (Outcome)

/-- A page descriptor (R193). -/
structure Desc where
  ref : Nat
  pin : Nat
  fp : Bool
  free : Bool
  deriving DecidableEq, Repr

/-- A descriptor from its 16 bytes. -/
def descOf (v : Nat) : Desc :=
  { ref := v % 2 ^ 32, pin := v / 2 ^ 32 % 2 ^ 16, fp := v / 2 ^ 48 % 2 == 1, free := v / 2 ^ 49 % 2 == 1 }
/-- The 16 bytes of a descriptor. -/
def Desc.bytes (d : Desc) : List Byte :=
  leBytes 16 (d.ref % 2 ^ 32 + d.pin % 2 ^ 16 * 2 ^ 32 + d.fp.toNat * 2 ^ 48 + d.free.toNat * 2 ^ 49)

/-- A structure of system software read at its physical address, which a system register or such a structure gives: XLAT with cause 4 for
an address that R321 refuses, then marks and errors (R383); its bytes as its home holds them, and the access to another device that it
takes up. -/
def State.physRead (s : State) (p : Party) (pa n : Nat) : Except Stop (List Byte × List Nat) :=
  if !s.paExists pa then .error (xlatAt 4 0)
  else
    match s.readable p 0 { loc := pa, obj := false, count := none, read := [] } n with
    | .error e => .error e
    | .ok pl =>
      match pl.ack with
      | none => .ok (s.homeBytes pa n, [])
      | some (i, l) => .ok (l.take n, [i])

/-- A pool record (R192). -/
structure Pool where
  pbase : Nat
  psh : Nat
  pcnt : Nat
  dbase : Nat
  deriving DecidableEq, Repr
/-- A pool record from its 32 bytes; none when it breaks its table. -/
def poolOf (v : Nat) : Option Pool :=
  let x : Pool := { pbase := v % 2 ^ 40, psh := v / 2 ^ 40 % 256, pcnt := v / 2 ^ 64 % 2 ^ 40, dbase := v / 2 ^ 128 % 2 ^ 52 }
  if v / 2 ^ 48 % 2 ^ 16 ≠ 0 || v / 2 ^ 104 % 2 ^ 24 ≠ 0 || v / 2 ^ 180 ≠ 0 || x.psh < 12 || 24 < x.psh || x.pcnt = 0 || x.dbase % 16 ≠ 0
  then none else some x
/-- The pool record at an address (R192): ARG for one that breaks its table. -/
def State.poolAt (s : State) (p : Party) (at_ : Nat) : Except Stop (Pool × List Nat) :=
  match s.physRead p at_ 32 with
  | .error e => .error e
  | .ok (l, ids) =>
    match poolOf (leNat l) with
    | none => .error (stopBare .arg)
    | some x => .ok (x, ids)
/-- The location of the descriptor of a page (R192): PROT for no pool page. -/
def Pool.descLoc (x : Pool) (ppn : Nat) : Except Stop Nat :=
  let i := (ppn - x.pbase) / 2 ^ (x.psh - 12)
  if ppn < x.pbase || (ppn - x.pbase) % 2 ^ (x.psh - 12) ≠ 0 || x.pcnt ≤ i then .error (stopBare .prot) else .ok (x.dbase + 16 * i)
/-- The address of a context's pool record (R192). -/
def State.poolAddr (s : State) (slot : Nat) : Nat := (s.ctx slot).kvpool.toNat % 2 ^ 52

/-- A descriptor about to be changed at its home (R193, R216): its location, its value where another device's home has performed the
change, and the accesses to other devices that it takes up. -/
structure DescAt where
  loc : Nat
  old : Option Nat
  ids : List Nat
  deriving DecidableEq, Repr
/-- The descriptor of a page, found through the pool record at `at_`: the checks of both (R192, R321, R383). Its changes are atomics, which
host and expander memory do not accept (R216, R262, R408). -/
def State.descPlace (s : State) (p : Party) (at_ ppn : Nat) : Except Stop DescAt :=
  match s.poolAt p at_ with
  | .error e => .error e
  | .ok (x, ids) =>
    match x.descLoc ppn with
    | .error e => .error e
    | .ok loc =>
      if !s.paExists loc then .error (xlatAt 4 0)
      else if homeHere loc then
        (s.readable p 0 { loc, obj := false, count := none, read := [] } 16).map fun _ => { loc, old := none, ids }
      else if paRegion loc ≠ 1 then .error (stopBare .arg)
      else .ok { loc, old := none, ids }
/-- The operation on a descriptor that a home of another device performs (R216): once it has answered, the descriptor that it found. -/
def State.descAsk (s : State) (p : Party) (x : DescAt) (op : HomeOp) (args : List Byte) : Except Stop DescAt :=
  match s.acknowledged p 0 ⟨x.loc, 16, .rmw op, args⟩ with
  | .error e => .error e
  | .ok none => .ok x
  | .ok (some (i, l)) => .ok { x with old := some (leNat (l.take 16)), ids := x.ids ++ [i] }
/-- The descriptor of a page with the operation of its home. -/
def State.descAt (s : State) (p : Party) (at_ ppn : Nat) (op : HomeOp) (args : List Byte) : Except Stop DescAt :=
  match s.descPlace p at_ ppn with
  | .error e => .error e
  | .ok x => s.descAsk p x op args
/-- The descriptor at a location, as its home reads it. -/
def State.desc (s : State) (loc : Nat) : Desc := descOf (leNat (s.homeBytes loc 16))
/-- A change of a descriptor at its home (R193, R216); another device's home has made it already. -/
def State.setDesc (s : State) (core : Nat) (x : DescAt) (d : Desc) : State :=
  if x.old.isSome then s.consume x.ids else (s.homeStore core x.loc d.bytes).consume x.ids
/-- The descriptor that a change finds. -/
def State.descFound (s : State) (x : DescAt) : Desc :=
  match x.old with
  | some v => descOf v
  | none => s.desc x.loc

/-- A pin of the gather engine (R194, R203): ARG for a free page; none while the count is full. -/
def State.pin (s : State) (core : Nat) (x : DescAt) : Except Stop (Option State) :=
  let d := s.descFound x
  if d.free then .error (stopBare .arg)
  else if 65535 ≤ d.pin then .ok none
  else .ok (some (s.setDesc core x { d with pin := d.pin + 1 }))
/-- A descriptor whose last pin of a free-pending page frees it (R194). -/
def Desc.unpin (d : Desc) : Desc :=
  let p := d.pin - 1
  if d.fp && p == 0 then { d with pin := 0, fp := false, free := true } else { d with pin := p }
/-- A pin released at the descriptor that it was taken on (R194): at another device's home by an operation of the agent, for whose
acknowledgement its command waits. -/
def State.unpin (s : State) (core blk agent loc : Nat) : State :=
  if homeHere loc then s.homeStore core loc (s.desc loc).unpin.bytes
  else s.sendNew blk agent none ⟨loc, 16, .rmw .unpin, []⟩

/-- The state checks and the new descriptor of R196: none is ARG; with the FAIL bit. -/
def kvChange (unref claim : Bool) (n : Nat) (d : Desc) : Option (Desc × Bool) :=
  if unref then
    if d.ref < n then none
    else
      let r := d.ref - n
      if r = 0 then (if d.pin = 0 then some ({ d with ref := 0, free := true }, false) else some ({ d with ref := 0, fp := true }, false))
      else some ({ d with ref := r }, false)
  else if claim then (if d.free then some ({ d with ref := n, free := false }, false) else some (d, true))
  else if d.free || 2 ^ 32 ≤ d.ref + n then none
  else some ({ d with ref := d.ref + n, fp := false }, false)

/-- The result pair of R196. -/
def kvResult (d : Desc) (fail : Bool) : List W32 :=
  [BitVec.ofNat 32 d.ref, BitVec.ofNat 32 (fail.toNat * 2 ^ 31 + d.free.toNat * 2 ^ 17 + d.fp.toNat * 2 ^ 16 + d.pin)]

/-- The operation of R196 that a home on another device is asked for. -/
def kvOp (unref claim : Bool) : HomeOp := if unref then .kvunref else if claim then .kvrefClaim else .kvref
/-- The first part of the checks (R417): the operand, the pool record and the descriptor's existence. -/
def kvFirst (s : State) (b : Block) (o : KvOp) (tid : Nat) (t : Thread) : Except Stop DescAt :=
  let a := (t.get64 o.a.toNat).toNat
  if a / 2 ^ 40 % 2 ^ 24 ≠ 0 then .error (stopBare .arg)
  else s.descPlace (b.party s.cur.blk t.sys tid) (s.poolAddr b.slot) (a % 2 ^ 40)
/-- A lane whose checks have passed, at its descriptor's home: here, or performed and answered by another device. -/
def kvHome (s : State) (b : Block) (o : KvOp) (unref claim : Bool) (tid : Nat) (t : Thread) : Except Stop DescAt :=
  match kvFirst s b o tid t with
  | .error e => .error e
  | .ok x => s.descAsk (b.party s.cur.blk t.sys tid) x (kvOp unref claim) [BitVec.ofNat 8 o.n.toNat]

/-- A reference-count instruction (R196, R417): once every lane has passed the first part of the checks, lanes perform in order of `$lane`, each
an atomic at the descriptor's home, of which the core's L1 keeps no older copy (R225); the results return later. -/
def kvLanes (o : KvOp) (unref claim : Bool) (s : State) : Outcome State Fault Refusal :=
  match s.block s.cur.blk with
  | none => .next s
  | some b =>
    match s.laneErrors o.g (fun tid t => (kvFirst s b o tid t).map fun _ => ()),
        s.laneErrors o.g (fun tid t => (kvHome s b o unref claim tid t).map fun _ => ()) with
    | e :: l, _ => guarded s o.g (e :: l) id
    | [], e :: l => guarded s o.g (e :: l) id
    | [], [] =>
      let found := (s.actors o.g).filterMap fun y => (kvHome s b o unref claim y.1 y.2).toOption.map fun x => (y.1, x)
      let s0 := if acquires o.ord then s.acquires b.core o.scope (s.active o.g).length else s
      laneByLane s0 o.g (fin := fun s => s.watch b (found.map fun x =>
          { va := none, pa := x.2.loc, n := 16, rd := true, wr := true, eng := false, who := x.1 })) fun s tid =>
        match found.find? fun e => e.1 == tid with
        | none => .ok s
        | some (_, x) =>
          match kvChange unref claim o.n.toNat (s.descFound x) with
          | none => .error (stopBare .arg)
          | some (d, fail) =>
            .ok (((if fail then (s.dropClean b.core x.loc).consume x.ids else s.setDesc b.core x d)).modThread s.cur.blk tid fun t =>
              t.deliver o.d.toNat (kvResult d fail) false false 0#5)

/-- `kvref` (R196). -/
def execKvref (o : KvOp) (s : State) : Outcome State Fault Refusal := kvLanes o false false s
/-- `kvref.claim` (R196). -/
def execKvrefClaim (o : KvOp) (s : State) : Outcome State Fault Refusal := kvLanes o false true s
/-- `kvunref` (R196). -/
def execKvunref (o : KvOp) (s : State) : Outcome State Fault Refusal := kvLanes o true false s

end Sys2Proof.Machine
end

