-- ==== Sys2Proof/Machine/Sfu.lean ====
section
/-! DEFINITION. The special functions (05_thread_instructions.md R137, R138): the exact value is enclosed by an interval of
rationals, computed in fixed point with p fraction bits, and rounded when both ends of the interval round alike. -/

namespace Sys2Proof.Machine

/-- The largest integer whose square is at most n, bit by bit from bit k - 1 down. -/
def isqrtBits (n : Nat) : Nat → Nat → Nat
  | 0, r => r
  | k + 1, r => if (r + 2 ^ k) * (r + 2 ^ k) ≤ n then isqrtBits n k (r + 2 ^ k) else isqrtBits n k r
/-- The integer square root. -/
def isqrt (n : Nat) : Nat := isqrtBits n (n.log2 / 2 + 1) 0

/-- Product of two fixed-point numbers with p fraction bits. -/
def fxMul (p : Nat) (a b : Int) : Int := (a * b) >>> p
/-- An exact rational in fixed point, rounded down. -/
def fxOf (p : Nat) (x : Rat) : Int := (x * ((2 ^ p : Nat) : Rat)).floor

/-- atan(1/n) in fixed point: the sum of ±1/((2i+1) n^(2i+1)), `t` being 1/n^(2i+1). -/
def fxAtanInv (n : Nat) : Nat → Nat → Nat → Int → Int
  | 0, _, _, acc => acc
  | k + 1, i, t, acc =>
    if t = 0 then acc
    else fxAtanInv n k (i + 1) (t / (n * n)) (if i % 2 = 0 then acc + (t / (2 * i + 1) : Nat) else acc - (t / (2 * i + 1) : Nat))
/-- π in fixed point, by Machin's formula. -/
def fxPi (p : Nat) : Int :=
  16 * fxAtanInv 5 p 0 (2 ^ p / 5) 0 - 4 * fxAtanInv 239 p 0 (2 ^ p / 239) 0

/-- 2 atanh(z) = ln((1+z)/(1-z)) in fixed point: the sum of 2 z^(2i+1)/(2i+1). -/
def fxAtanh (p : Nat) (z2 : Int) : Nat → Nat → Int → Int → Int
  | 0, _, _, acc => acc
  | k + 1, i, t, acc => if t = 0 then acc else fxAtanh p z2 k (i + 1) (fxMul p t z2) (acc + 2 * t / (2 * i + 1))
/-- ln m in fixed point for a rational m from 1 to 2. -/
def fxLn (p : Nat) (m : Rat) : Int :=
  let z := fxOf p ((m - 1) / (m + 1))
  fxAtanh p (fxMul p z z) p 0 z 0
/-- ln 2 in fixed point. -/
def fxLn2 (p : Nat) : Int := fxLn p 2

/-- The terms of e^x: `t` is x^i / i!. -/
def fxExpSum (p : Nat) (x : Int) : Nat → Nat → Int → Int → Int
  | 0, _, _, acc => acc
  | k + 1, i, t, acc => if t = 0 ∨ t = -1 then acc else fxExpSum p x k (i + 1) (fxMul p t x / (i + 1)) (acc + t)
/-- e^x in fixed point for x from -1 to 1. -/
def fxExp (p : Nat) (x : Int) : Int := fxExpSum p x p 0 (2 ^ p) 0

/-- The terms of sin x (i odd at the start) and cos x (i even): `t` is the i-th term x^i / i!, with its sign. -/
def fxTrigSum (p : Nat) (x2 : Int) : Nat → Nat → Int → Int → Int
  | 0, _, _, acc => acc
  | k + 1, i, t, acc =>
    if t = 0 ∨ t = -1 then acc else fxTrigSum p x2 k (i + 2) (-(fxMul p t x2) / (((i + 1) * (i + 2) : Nat) : Int)) (acc + t)
/-- sin x in fixed point for |x| ≤ 1. -/
def fxSin (p : Nat) (x : Int) : Int := fxTrigSum p (fxMul p x x) p 1 x 0
/-- cos x in fixed point for |x| ≤ 1. -/
def fxCos (p : Nat) (x : Int) : Int := fxTrigSum p (fxMul p x x) p 0 (2 ^ p) 0

/-- The terms of ∫ e^(-t²): `u` is ± x^(2i+1)/i!. -/
def fxErfSum (p : Nat) (x2 : Int) : Nat → Nat → Int → Int → Int
  | 0, _, _, acc => acc
  | k + 1, i, u, acc =>
    if u = 0 ∨ u = -1 then acc
    else fxErfSum p x2 k (i + 1) (-(fxMul p u x2) / ((i + 1 : Nat) : Int)) (acc + u / ((2 * i + 1 : Nat) : Int))
/-- erf x in fixed point for 0 ≤ x ≤ 8. -/
def fxErf (p : Nat) (x : Int) : Int :=
  let s := fxErfSum p (fxMul p x x) (p + 400) 0 x 0
  -- 2/√π = √(4/π)
  let c : Int := (isqrt ((4 * 2 ^ (3 * p) / (fxPi p).toNat)) : Nat)
  fxMul p s c

/-- e^y for a rational y of magnitude below 300, as 2^k times a number from 0.5 to 2 in fixed point: (mantissa, k). -/
def fxExpBig (p : Nat) (y : Rat) : Int × Int :=
  let l := fxLn2 (p + 20)
  let k := (y * ((2 ^ (p + 20) : Nat) : Rat) / (l : Rat)).floor
  let r := fxOf (p + 20) y - k * l
  (fxExp (p + 20) r >>> 20, k)

/-- The exact value of a fixed-point number scaled by 2^k. -/
def fxVal (p : Nat) (v : Int) (k : Int) : Rat := (v : Rat) * pow2 (k - p)

/-- An enclosure of the exact value: the two ends. -/
abbrev Encl := Rat × Rat

/-- The enclosure v ± 2^20 units of a fixed-point number, scaled by 2^k. The series above err by less than that. -/
def encl (p : Nat) (v : Int) (k : Int) : Encl := (fxVal p (v - 2 ^ 20) k, fxVal p (v + 2 ^ 20) k)

/-- sin(2π r) for a rational r with 0 < r ≤ 1/8, and cos(2π r) for 0 ≤ r ≤ 1/8. -/
def enclSin8 (p : Nat) (r : Rat) : Encl :=
  let q := p + (-(floorLog2 r)).toNat
  encl q (fxSin q (fxOf q (r * 2 * fxVal q (fxPi q) 0))) 0
/-- cos(2π r) for 0 ≤ r ≤ 1/8. -/
def enclCos8 (p : Nat) (r : Rat) : Encl := encl p (fxCos p (fxOf p (r * 2 * fxVal p (fxPi p) 0))) 0
/-- The enclosure with its sign flipped. -/
def Encl.neg (e : Encl) : Encl := (-e.2, -e.1)

/-- sin(2π r) for 0 ≤ r < 1, r not a multiple of 1/4, by octants. -/
def enclSin (p : Nat) (r : Rat) : Encl :=
  if 1 / 2 ≤ r then
    let t := r - 1 / 2
    (if t ≤ 1 / 8 then enclSin8 p t else if t ≤ 1 / 4 then enclCos8 p (1 / 4 - t)
      else if t ≤ 3 / 8 then enclCos8 p (t - 1 / 4) else enclSin8 p (1 / 2 - t)).neg
  else
    if r ≤ 1 / 8 then enclSin8 p r else if r ≤ 1 / 4 then enclCos8 p (1 / 4 - r)
    else if r ≤ 3 / 8 then enclCos8 p (r - 1 / 4) else enclSin8 p (1 / 2 - r)

/-- A number strictly between 1 - 2^-40 and 1, which rounds as every number there does. -/
def belowOne : Rat := 1 - pow2 (-50)

/-- The exact function of R137 at a finite operand that R138 does not list, enclosed with p bits; an exact value is the
interval of itself. Where the value lies too near 1, 0 or the operand for p bits, a number that rounds as it does stands for
it (log 15). -/
inductive Sfu where
  | rcp | rsqrt | sqrt | exp2 | log2 | sin | cos | tanh | sigm | erf
  deriving DecidableEq, Repr

/-- √x for a rational x > 0 with a sticky half unit, so that it rounds as √x does. -/
def sqrtSticky (x : Rat) : Rat :=
  let e := floorLog2 x
  let k : Int := 80 - e / 2
  let n := (x * pow2 (2 * k)).floor.toNat
  let r := isqrt n
  if ((r * r : Nat) : Rat) = x * pow2 (2 * k) then (r : Rat) * pow2 (-k) else ((r : Rat) + 1 / 2) * pow2 (-k)

/-- The enclosure of tanh x for x > 0. -/
def enclTanh (p : Nat) (x : Rat) : Encl :=
  if x < pow2 (-20) then (x * (1 - pow2 (-40)), x * (1 - pow2 (-40)))
  else if 30 < x then (belowOne, belowOne)
  else
    let e := fxExpBig p (2 * x)
    let lo := fxVal p (e.1 - 2 ^ 20) e.2
    let hi := fxVal p (e.1 + 2 ^ 20) e.2
    ((lo - 1) / (lo + 1), (hi - 1) / (hi + 1))
/-- The enclosure of 1 / (1 + e^(-x)). -/
def enclSigm (p : Nat) (x : Rat) : Encl :=
  if x < -200 then (pow2 (-200), pow2 (-200))
  else if 60 < x then (belowOne, belowOne)
  else if x < pow2 (-40) ∧ -(pow2 (-40)) < x then
    let v := if x < 0 then 1 / 2 - pow2 (-50) else 1 / 2 + pow2 (-50)
    (v, v)
  else
    let e := fxExpBig p x
    let lo := fxVal p (e.1 - 2 ^ 20) e.2
    let hi := fxVal p (e.1 + 2 ^ 20) e.2
    (lo / (1 + lo), hi / (1 + hi))
/-- The enclosure of erf x for x > 0. -/
def enclErf (p : Nat) (x : Rat) : Encl :=
  if 7 < x then (belowOne, belowOne)
  else
    let q := p + 80 + (-(floorLog2 x)).toNat
    encl q (fxErf q (fxOf q x)) 0
/-- The enclosure of 2^x for a rational x. -/
def enclExp2 (p : Nat) (x : Rat) : Encl :=
  if x = (x.floor : Rat) ∧ -1000 ≤ x ∧ x ≤ 1000 then (pow2 x.floor, pow2 x.floor)
  else if 200 < x then (pow2 200, pow2 200)
  else if x < -200 then (pow2 (-200), pow2 (-200))
  else if x < pow2 (-40) ∧ -(pow2 (-40)) < x then
    let v := if x < 0 then belowOne else 1 + pow2 (-50)
    (v, v)
  else
    let f := x - (x.floor : Rat)
    encl p (fxExp p (fxMul p (fxOf p f) (fxLn2 p))) x.floor
/-- The enclosure of log2 x for a rational x > 0. -/
def enclLog2 (p : Nat) (x : Rat) : Encl :=
  let e := floorLog2 x
  let m := x / pow2 e
  if m = 1 then ((e : Rat), (e : Rat))
  else
    let l := fxLn p m
    let d := fxLn2 p
    ((e : Rat) + (((l - 2 ^ 20 : Int) : Rat) / ((d + 2 ^ 20 : Int) : Rat)), (e : Rat) + (((l + 2 ^ 20 : Int) : Rat) / ((d - 2 ^ 20 : Int) : Rat)))

/-- The enclosure of f(x) for a finite x for which R138 lists no result. -/
def Sfu.encl (f : Sfu) (p : Nat) (x : Rat) : Encl :=
  let dup (v : Rat) : Encl := (v, v)
  let odd (g : Rat → Encl) : Encl := if x < 0 then (g (-x)).neg else g x
  match f with
  | .rcp => dup (1 / x)
  | .rsqrt => dup (sqrtSticky (1 / x))
  | .sqrt => dup (sqrtSticky x)
  | .exp2 => enclExp2 p x
  | .log2 => enclLog2 p x
  | .sin => odd fun y => enclSin p (y - (y.floor : Rat))
  | .cos =>
    let y := if x < 0 then -x else x
    if y < pow2 (-30) then dup belowOne
    else
      let r := y + 1 / 4
      enclSin p (r - (r.floor : Rat))
  | .tanh => odd (enclTanh p)
  | .sigm => enclSigm p x
  | .erf => odd (enclErf p)

/-- Rounding of an enclosed value: with more bits until both ends round alike; with the last of them, as its lower end
rounds (log 15). -/
def roundEncl (m : Rm) (g : Nat → Encl) : List Nat → FVal × Flags
  | [] => (quietNan, fInvalid)
  | [p] => roundTo fmtF32 m .sat (g p).1 false
  | p :: ps =>
    let a := roundTo fmtF32 m .sat (g p).1 false
    let b := roundTo fmtF32 m .sat (g p).2 false
    if a = b then a else roundEncl m g ps

/-- The precisions tried. -/
def sfuBits : List Nat := [100, 200, 400]

/-- `frac` of an angle in turns, in quarters: how many quarter turns when the angle is a multiple of one. -/
def quarters (x : Rat) : Option Nat :=
  if (x * 4) = ((x * 4).floor : Rat) then some ((x * 4).floor % 4).toNat else none

/-- Round(f(a), F32, RM), with the results of R138 for special operands. -/
def Sfu.eval (f : Sfu) (m : Rm) (a : FVal) : FVal × Flags :=
  let one (neg : Bool) : FVal × Flags := (.fin neg 1, 0#5)
  let inv : FVal × Flags := (quietNan, fInvalid)
  match a with
  | .nan s => (quietNan, if s then fInvalid else 0#5)
  | .inf n =>
    match f with
    | .rcp => (.fin n 0, 0#5)
    | .rsqrt => if n then inv else (.fin false 0, 0#5)
    | .sqrt => if n then inv else (.inf false, 0#5)
    | .exp2 => if n then (.fin false 0, 0#5) else (.inf false, 0#5)
    | .log2 => if n then inv else (.inf false, 0#5)
    | .sin => inv
    | .cos => inv
    | .tanh => one n
    | .sigm => if n then (.fin false 0, 0#5) else one false
    | .erf => one n
  | .fin n x =>
    if x = 0 then
      match f with
      | .rcp => (.inf n, fDivZero)
      | .rsqrt => (.inf n, fDivZero)
      | .sqrt => (.fin n 0, 0#5)
      | .exp2 => one false
      | .log2 => (.inf true, fDivZero)
      | .sin => (.fin n 0, 0#5)
      | .cos => one false
      | .tanh => (.fin n 0, 0#5)
      | .sigm => (.fin false (1 / 2), 0#5)
      | .erf => (.fin n 0, 0#5)
    else
      let general := roundEncl m (fun p => f.encl p (sgn n x)) sfuBits
      match f with
      | .rsqrt => if n then inv else general
      | .sqrt => if n then inv else general
      | .log2 => if n then inv else if x = 1 then (.fin false 0, 0#5) else general
      | .sin =>
        match quarters (sgn n x) with
        | none => general
        | some 1 => one false
        | some 3 => one true
        | some _ => (.fin n 0, 0#5)
      | .cos =>
        match quarters (sgn n x) with
        | none => general
        | some 0 => one false
        | some 2 => one true
        | some _ => (.fin false 0, 0#5)
      | .rcp => general
      | .exp2 => general
      | .tanh => general
      | .sigm => general
      | .erf => general

/-- An enclosed value rounded to nearest even in a format. -/
def roundEnclTo (f : Fmt) (g : Nat → Encl) : List Nat → FVal × Flags
  | [] => (quietNan, fInvalid)
  | [p] => roundTo f .rne .sat (g p).1 false
  | p :: ps =>
    let a := roundTo f .rne .sat (g p).1 false
    let b := roundTo f .rne .sat (g p).2 false
    if a = b then a else roundEnclTo f g ps
/-- 2^x of an exact x, rounded once to nearest even in a format (06_tile_set.md R179, R182): any NaN is invalid. -/
def exp2To (f : Fmt) (x : FVal) : FVal × Flags :=
  match x with
  | .nan _ => (quietNan, fInvalid)
  | .inf n => if n then (.fin false 0, 0#5) else (.inf false, 0#5)
  | .fin n a => if a = 0 then (.fin false 1, 0#5) else roundEnclTo f (fun p => enclExp2 p (sgn n a)) sfuBits

end Sys2Proof.Machine
end

