-- ==== Sys2Proof/Machine/Tile.lean ====
section
/-! DEFINITION. What the slot operations of a tile context share (06_tile_set.md R154-R163): operands, stream and ring registers,
rows, the landing of results, and what a slot's fault or park does to its bundle. -/

namespace Sys2Proof.Machine

open Host (Outcome)

/-! ### Scalars and predicates -/

/-- Scalar kn; k0 reads 0 (R166). -/
def Tile.kreg (x : Tile) (r : KReg) : W64 := if r = 0#6 then 0#64 else Tbl.get 0#64 x.k r.toNat
/-- Scalar kn written; a write to k0 is discarded. -/
def Tile.setK (x : Tile) (r : KReg) (v : W64) : Tile := if r = 0#6 then x else { x with k := Tbl.put 0#64 x.k r.toNat v }
/-- Predicate qn; q0 reads true (R74). -/
def Tile.qreg (x : Tile) (q : QReg) : Bool := q == 0#3 || x.q.getLsbD q.toNat
/-- Predicate qn written; a write to q0 is discarded. -/
def Tile.setQ (x : Tile) (q : QReg) (v : Bool) : Tile :=
  if q = 0#3 then x
  else { x with q := (x.q &&& ~~~(1#8 <<< q.toNat)) ||| ((BitVec.ofBool v).setWidth 8 <<< q.toNat) }

/-! ### Stream and ring registers -/

/-- A field of n bits of a number. -/
def bits (v : Nat) (lo n : Nat) : Nat := v / 2 ^ lo % 2 ^ n
/-- A signed field. -/
def sbits (v : Nat) (lo n : Nat) : Int :=
  let x := bits v lo n
  if 2 ^ (n - 1) ≤ x then (x : Int) - (2 ^ n : Nat) else x
/-- A mask of n bits. -/
def maskAt (lo n : Nat) : BitVec 256 := BitVec.ofNat 256 ((2 ^ n - 1) * 2 ^ lo)
/-- A field's value at its place. -/
def valAt (lo n v : Nat) : BitVec 256 := BitVec.ofNat 256 (v % 2 ^ n * 2 ^ lo)

/-- A stream register, read (R159). -/
structure Stream where
  base : Nat
  fmt : Ty
  ovf : Ovf
  wr : Bool
  rg : Bool
  ring : CReg
  vw : Bool
  view : Nat
  rows : Nat
  epr : Nat
  stride : Int
  brow : Nat
  bcol : Nat
  gs : Nat
  scs : SReg
  zps : Int
  gb : Bool
  re : Bool
  fts : SReg
  rpm : Nat
  rpos : Nat
  deriving DecidableEq, Repr

/-- A stream register's fields. -/
def streamOf (w : BitVec 256) : Stream :=
  let v := w.toNat
  { base := bits v 0 56, fmt := (Ty.ofCode (w.extractLsb' 64 4)).getD .s8, ovf := (Ovf.ofCode (w.extractLsb' 68 2)).getD .sat,
    wr := w.getLsbD 70, rg := w.getLsbD 71, ring := w.extractLsb' 72 3, vw := w.getLsbD 75, view := bits v 76 4,
    rows := bits v 80 16, epr := bits v 96 12, stride := sbits v 112 24, brow := bits v 136 16, bcol := bits v 152 12,
    gs := bits v 164 2, scs := w.extractLsb' 166 4, zps := sbits v 172 20, gb := w.getLsbD 192, re := w.getLsbD 193,
    fts := w.extractLsb' 194 4, rpm := bits v 198 2, rpos := bits v 200 16 }
/-- A ring register, read (R168). -/
structure Ring where
  rbase : Nat
  slot : Nat
  nslot : Nat
  f : W32
  e : W32
  bnd : Bool
  fld : Bool
  fptr : W32
  deriving DecidableEq, Repr
/-- A ring register's fields. -/
def ringOf (w : BitVec 256) : Ring :=
  let v := w.toNat
  { rbase := bits v 0 56, slot := bits v 64 24, nslot := bits v 88 8, f := w.extractLsb' 96 32, e := w.extractLsb' 128 32,
    bnd := w.getLsbD 160, fld := w.getLsbD 161, fptr := w.extractLsb' 162 32 }
/-- Filled slots, F - E (R168). -/
def Ring.filled (r : Ring) : Nat := (r.f - r.e).toNat

/-- A stream register's 256 bits; 0 when unconfigured. -/
def Tile.sraw (x : Tile) (r : SReg) : BitVec 256 := Tbl.get 0#256 x.s r.toNat
/-- A ring register's 256 bits; 0 when unbound. -/
def Tile.craw (x : Tile) (r : CReg) : BitVec 256 := Tbl.get 0#256 x.c r.toNat
/-- A ring register written. -/
def Tile.setC (x : Tile) (r : CReg) (v : BitVec 256) : Tile := { x with c := Tbl.put 0#256 x.c r.toNat v }
/-- The bits of a register under a mask replaced. -/
def under (old mask val : BitVec 256) : BitVec 256 := (old &&& ~~~mask) ||| (val &&& mask)
/-- Fill pointer of a ring advanced by n. -/
def Tile.fillRing (x : Tile) (r : CReg) (n : W32) : Tile :=
  x.setC r (under (x.craw r) (maskAt 96 32) (valAt 96 32 ((ringOf (x.craw r)).f + n).toNat))
/-- Empty pointer of a ring advanced by n. -/
def Tile.emptyRing (x : Tile) (r : CReg) (n : W32) : Tile :=
  x.setC r (under (x.craw r) (maskAt 128 32) (valAt 128 32 ((ringOf (x.craw r)).e + n).toNat))
/-- A ring marked failed at a fill-pointer value, unless it is (R171). -/
def Tile.failRing (x : Tile) (r : CReg) (fptr : W32) : Tile :=
  if (ringOf (x.craw r)).fld then x
  else x.setC r (under (x.craw r) (maskAt 161 33) (valAt 161 33 (1 + 2 * fptr.toNat)))
/-- RPOS moved by n rows modulo ROWS (R161). -/
def Tile.advanceStream (x : Tile) (r : SReg) (n : Int) : Tile :=
  let w := x.sraw r
  let st := streamOf w
  if st.rows = 0 then x
  else { x with s := Tbl.put 0#256 x.s r.toNat (under w (maskAt 200 16) (valAt 200 16 (((st.rpos : Int) + n) % st.rows).toNat)) }

/-- A stream that an operation may name (R49, R169): configured, and not based on an unbound view. -/
def Tile.stream? (x : Tile) (r : SReg) : Except Stop Stream :=
  let st := streamOf (x.sraw r)
  if x.sraw r = 0#256 || (st.vw && (Tbl.get none x.views st.view).isNone) then .error (stopBare .arg) else .ok st
/-- A stream that a row use may name (R200): configured, not bound to a block table and without rotation. -/
def Tile.rowStream (x : Tile) (r : SReg) : Except Stop Stream :=
  match x.stream? r with
  | .error e => .error e
  | .ok st => if st.gb || st.re then .error (stopBare .arg) else .ok st
/-- A bound ring (R169). -/
def Tile.ring? (x : Tile) (r : CReg) : Except Stop Ring :=
  let y := ringOf (x.craw r)
  if y.bnd then .ok y else .error (stopBare .arg)

/-! ### Views -/

/-- Where element (r, c) of a view lies (R46): thread within the view, register offset, half. -/
def viewLoc (map : BitVec 2) (r c : Nat) : Nat × Nat × Nat :=
  match map with
  | 0#2 => (4 * r + c / 8, c % 8 / 2, c % 2)
  | 1#2 => (4 * r + c / 8, c % 8, 0)
  | 2#2 => (4 * c + r / 8, r % 8 / 2, r % 2)
  | _ => (4 * c + r / 8, r % 8, 0)
/-- A view holds 32-bit elements (R46). -/
def View.wide (v : View) : Bool := v.map.getLsbD 0
/-- An element's pattern (R46). -/
def Block.viewElem (b : Block) (v : View) (r c : Nat) : Nat :=
  let l := viewLoc v.map r c
  let w := match b.threads[v.tid0 + l.1]? with
    | none => 0#32
    | some t => t.get (v.dreg + l.2.1)
  if v.wide then w.toNat else w.toNat / 2 ^ (16 * l.2.2) % 2 ^ 16
/-- A write of an element: thread, register, mask and value. -/
def viewWrite (v : View) (r c p : Nat) : Nat × Nat × W32 × W32 :=
  let l := viewLoc v.map r c
  if v.wide then (v.tid0 + l.1, v.dreg + l.2.1, 0xFFFFFFFF#32, BitVec.ofNat 32 p)
  else (v.tid0 + l.1, v.dreg + l.2.1, BitVec.ofNat 32 (0xFFFF * 2 ^ (16 * l.2.2)), BitVec.ofNat 32 (p % 2 ^ 16 * 2 ^ (16 * l.2.2)))
/-- A bound view (R49). -/
def Tile.view? (x : Tile) (n : Nat) : Except Stop View :=
  match Tbl.get none x.views n with
  | none => .error (stopBare .arg)
  | some v => .ok v
/-- The view of a stream with VW = 1, when its format and width fit (R162). -/
def Tile.streamView (x : Tile) (st : Stream) : Except Stop View :=
  match x.view? st.view with
  | .error e => .error e
  | .ok v =>
    if 32 < st.epr || !(if v.wide then st.fmt == .f32 else st.fmt == .bf16 || st.fmt == .f16) then .error (stopBare .arg) else .ok v

/-! ### Rows -/

/-- The elements of row i inside a stream (R161): those below the result. -/
def Stream.inside (st : Stream) (i : Nat) : Nat := if i < st.brow then Nat.min st.epr st.bcol else 0
/-- The address of row i (R161), modulo 2^64; ARG for an unbound ring. -/
def Tile.rowAddr (x : Tile) (st : Stream) (i : Nat) : Except Stop Nat :=
  let at_ (a : Nat) : Nat := (((a : Int) + i * st.stride) % (2 ^ 64 : Nat)).toNat
  if st.rg then
    match x.ring? st.ring with
    | .error e => .error e
    | .ok c => .ok (at_ (c.rbase + (if st.wr then c.f else c.e).toNat % c.nslot * c.slot))
  else .ok (at_ st.base)
/-- Bytes that n elements of a type take. -/
def elemBytes (t : Ty) (n : Nat) : Nat := (t.bits * n + 7) / 8
/-- The alignment of a row (R161). -/
def rowAlign (t : Ty) : Nat := elemBytes t 1
/-- Element e of a row of bytes (R95, R161). -/
def elemOf (t : Ty) (l : List Byte) (e : Nat) : Nat :=
  if t = .q4 then (l.getD (e / 2) 0#8).toNat / 16 ^ (e % 2) % 16
  else leNat ((l.drop (e * elemBytes t 1)).take (elemBytes t 1))

/-- The party of a slot of a block's context: it acts with user privilege, as its threads do at the gate (R320). -/
def Block.engine (b : Block) (blk slot : Nat) : Party := b.party blk false (1024 + slot)

/-- The stop record of a tile access (R391). -/
def State.tileStopRec (s : State) (b : Block) (reason index slot : Nat) (baddr : Addr) : StopRec :=
  { reason, index, slot, asid := (s.ctx b.slot).asid.toNat, pc := (b.gate.getD 0#56).toNat, baddr := baddr.toNat, core := b.core,
    own := b.owner.toNat }
/-- A watchpoint hit by an access of a bundle (R389): the context stops before its next step. -/
def State.watchTile (s : State) (b : Block) (slot : Nat) (baddr : Addr) (l : List Touch) : State :=
  match (s.ctx b.slot).wpHit l with
  | none => s
  | some (i, a, x) => s.stopHit b.slot { s.tileStopRec b 3 i slot baddr with va := a, wr := x.wr }

/-- Bytes read at a row address (R148, R158): bits [63:56], alignment, then the access, which a watchpoint may hit (R389). -/
def State.rowRead (s : State) (p : Party) (va al n : Nat) : Except Stop (List Byte × State) :=
  if n = 0 then .ok ([], s)
  else if va / 2 ^ 56 ≠ 0 then .error (xlatAt 3 va)
  else if va % al ≠ 0 then .error (stopAt .align va)
  else
    match s.virtRead p va n with
    | .error e => .error e
    | .ok (l, s1) =>
      match s.block p.blk, s.places p .read (chunks va (n / 64 + 2) n) with
      | some b, .ok ps => .ok (l, s1.watchTile b s.cur.slot s.cur.baddr (ps.map fun x =>
          { va := some x.1, pa := x.2.2.loc, n := x.2.1, rd := true, wr := false, eng := false }))
      | _, _ => .ok (l, s1)

/-- The first n elements of row i that are inside a stream, as patterns (R161, R162); the others read as +0. -/
def State.readRow (s : State) (b : Block) (blk : Nat) (st : Stream) (i n : Nat) : Except Stop (List Nat × State) :=
  let m := Nat.min n (st.inside i)
  if st.vw then
    match b.tile.streamView st with
    | .error e => .error e
    | .ok v => .ok ((List.range m).map fun e => b.viewElem v (i % 32) e, s)
  else
    match b.tile.rowAddr st i with
    | .error e => .error e
    | .ok a =>
      match s.rowRead (b.engine blk s.cur.slot) a (rowAlign st.fmt) (elemBytes st.fmt m) with
      | .error e => .error e
      | .ok (l, s1) => .ok ((List.range m).map (elemOf st.fmt l), s1)
/-- One element of a row (R161, R162); outside the stream it is +0, once the stream's view or ring is found to be bound. -/
def State.readElem (s : State) (b : Block) (blk : Nat) (st : Stream) (i e : Nat) : Except Stop (Nat × State) :=
  if st.vw then
    match b.tile.streamView st with
    | .error x => .error x
    | .ok v => .ok (if st.inside i ≤ e then 0 else b.viewElem v (i % 32) e, s)
  else
    match b.tile.rowAddr st i with
    | .error x => .error x
    | .ok a =>
      let k := elemBytes st.fmt 1
      if st.inside i ≤ e then .ok (0, s)
      else
        match if a / 2 ^ 56 ≠ 0 then .error (xlatAt 3 a)
              else if a % rowAlign st.fmt ≠ 0 then .error (stopAt .align a)
              else s.rowRead (b.engine blk s.cur.slot) ((a + e * k) % 2 ^ 64) 1 k with
        | .error x => .error x
        | .ok (l, s1) => .ok (leNat l, s1)

/-- The checks of a posted write (R158, R239): it is translated and checked at issue, and no unit holds for its acknowledgement. -/
def State.postPlace (s : State) (p : Party) (va : Nat) (bs : List Byte) : Except Stop (Nat × Place × List Byte) :=
  match s.place p va bs.length .write with
  | .error e => .error e
  | .ok pl => (s.writeOk va pl bs false).map fun _ => (va, pl, bs)
/-- The bytes of a posted write: virtual address, location and byte of each. -/
def postBytes (x : Nat × Place × List Byte) : List (Nat × Nat × Byte) := x.2.2.zipIdx.map fun y => (x.1 + y.2, x.2.1.loc + y.2, y.1)

/-- The checks of a write of elements of row i (R161), given as (element, pattern): the effect that lands, and the state its
translation leaves. Every access is checked at issue (R177). -/
def State.writeRow (s : State) (b : Block) (blk : Nat) (st : Stream) (i : Nat) (out : List (Nat × Nat)) :
    Except Stop (Effect × State) :=
  let l := out.filter fun x => x.1 < st.inside i
  if st.vw then
    match b.tile.streamView st with
    | .error e => .error e
    | .ok _ => .ok (.view st.view (l.map fun x => (i % 32, x.1, x.2)), s)
  else
    match b.tile.rowAddr st i with
    | .error e => .error e
    | .ok a =>
      if l = [] then .ok (.mem [], s)
      else if a % rowAlign st.fmt ≠ 0 then .error (if a / 2 ^ 56 ≠ 0 then xlatAt 3 a else stopAt .align a)
      else
        let k := elemBytes st.fmt 1
        let p := b.engine blk s.cur.slot
        match mapStop (fun x => s.postPlace p ((a + x.1 * k) % 2 ^ 64) (leBytes k x.2)) l with
        | .error e => .error e
        | .ok ps => .ok (.mem (ps.flatMap postBytes), s.settled p (pieceUses ps))

/-! ### Landings -/

/-- One landing comes before another (R155): by landing step, then issue step, then slot. -/
def Landing.before (a b : Landing) : Bool :=
  a.at_ < b.at_ || (a.at_ == b.at_ && (a.issued < b.issued || (a.issued == b.issued && a.slot < b.slot)))
/-- A landing at its place among those in flight. -/
def insertLanding (x : Landing) : List Landing → List Landing
  | [] => [x]
  | y :: l => if x.before y then x :: y :: l else y :: insertLanding x l
/-- An operation of the issuing slot that lands `lat` steps on (R155, R156). -/
def State.emit (s : State) (lat : Nat) (eff : Effect) (fl : Flags) : State :=
  s.modBlock s.cur.blk fun b =>
    let x : Landing := { at_ := b.tile.step + lat, issued := b.tile.step, slot := s.cur.slot, baddr := s.cur.baddr, eff, fl }
    { b with tile := { b.tile with fly := insertLanding x b.tile.fly } }

/-- An effect is a push into a bank that a later `xmode` discards (R176). -/
def Landing.stalePush (x : Landing) (issued : Nat) : Bool :=
  match x.eff with
  | .push _ _ _ => x.issued < issued
  | _ => false
/-- The tile that a landing writes, if it writes one (R183). -/
def Effect.tile? : Effect → Option Nat
  | .beat _ t _ _ | .tile t _ | .amax t _ => some t
  | .k _ _ | .q _ _ | .stream _ _ _ | .advance _ _ | .baseAdd _ _ | .ring _ _ | .ringFill _ _ | .ringEmpty _ _ | .push _ _ _
  | .swap | .mask _ _ _ | .mode _ _ | .xState _ | .view _ _ | .mem _ => none

/-- A word of tile t as the keeper reads it: undefined from an arrival of `ybar.arv` to the `ybar.wt` that observes its `tba`
(R211), a free value numbered from `free` (log 6). -/
def Tile.keeperWord (x : Tile) (free t i : Nat) : W32 :=
  if (x.accWord (accSide t 3)).getLsbD 0 then Config.freeBits (free + i) 32 else x.accWord i
/-- A word of tile t written by a keeper operation (R211). -/
def Tile.keeperPut (x : Tile) (free t i : Nat) (v : W32) : Tile :=
  x.setAcc i (if (x.accWord (accSide t 3)).getLsbD 0 then Config.freeBits (free + i) 32 else v)

/-- A context with the X state of an image (R377). -/
def Tile.xRestore (x : Tile) (v : Nat) : Tile :=
  { x with
    af := BitVec.ofNat 4 v, wf := BitVec.ofNat 4 (v / 2 ^ 4), pi := BitVec.ofNat 5 (v / 2 ^ 8), dc := BitVec.ofNat 11 (v / 2 ^ 16)
    cm := BitVec.ofNat 32 (v / 2 ^ 32), rm := BitVec.ofNat 32 (v / 2 ^ 64), bankSel := v / 2 ^ 96 % 2 == 0 }
/-- What a landing does to the tile context (R155, R174, R176), with the flags that it raises as it lands. -/
def Tile.apply (x : Tile) (free : Nat) (l : Landing) : Tile × Flags :=
  match l.eff with
  | .k r v => (x.setK r v, 0#5)
  | .q r v => (x.setQ r v, 0#5)
  | .stream r m v => ({ x with s := Tbl.put 0#256 x.s r.toNat (under (x.sraw r) m v) }, 0#5)
  | .advance r n => (x.advanceStream r n, 0#5)
  | .baseAdd r v =>
    let w := x.sraw r
    ({ x with s := Tbl.put 0#256 x.s r.toNat (under w (maskAt 0 56) (valAt 0 56 ((streamOf w).base + v.toNat))) }, 0#5)
  | .ring r v => (x.setC r v, 0#5)
  | .ringFill r n => (x.fillRing r n, 0#5)
  | .ringEmpty r n => (x.emptyRing r n, 0#5)
  | .push b j col =>
    (if b then { x with bank1 := Tbl.put 0#5120 x.bank1 j col } else { x with bank0 := Tbl.put 0#5120 x.bank0 j col }, 0#5)
  | .swap => ({ x with bankSel := !x.bankSel, pi := 0#5 }, 0#5)
  | .mask rm cm dc => ({ x with rm := rm, cm := cm, dc := dc }, 0#5)
  | .mode af wf =>
    ({ x with af := af, wf := wf, bank0 := [], bank1 := [], pi := 0#5, fly := x.fly.filter fun y => !y.stalePush l.issued }, 0#5)
  | .beat add t r out =>
    out.foldl (fun acc o =>
      let i := accIdx t r o.1
      if add then
        let y := sumZero fmtF32 [some (fmtF32.decode (acc.1.accWord i).toNat), some (fmtF32.decode o.2.toNat)]
        (acc.1.keeperPut free t i (BitVec.ofNat 32 (fmtF32.encode y.1)), acc.2 ||| y.2)
      else (acc.1.keeperPut free t i o.2, acc.2)) (x, 0#5)
  | .tile t out => (out.foldl (fun y o => y.keeperPut free t o.1 o.2) x, 0#5)
  | .amax t v =>
    let i := accSide t 0
    (if (x.accWord (accSide t 3)).getLsbD 0 || x.accWord i < v then x.keeperPut free t i v else x, 0#5)
  | .xState v => (x.xRestore v, 0#5)
  | .view _ _ => (x, 0#5)
  | .mem _ => (x, 0#5)

/-- Element writes of view n (R46): each changes the bits of a register under a mask. -/
def Block.writeView (b : Block) (n : Nat) (out : List (Nat × Nat × Nat)) : Block :=
  match Tbl.get none b.tile.views n with
  | none => b
  | some v =>
    { b with threads := out.foldl (fun ts o =>
        let w := viewWrite v o.1 o.2.1 o.2.2
        ts.modify w.1 fun t => t.set w.2.1 ((t.get w.2.1 &&& ~~~w.2.2.1) ||| w.2.2.2)) b.threads }

/-- Bytes of a posted write as runs of one aligned 64 bytes: the location of the first, and the bytes. -/
def byteRuns : List (Nat × Nat × Byte) → List (Nat × List Byte)
  | [] => []
  | o :: l =>
    match byteRuns l with
    | (a, bs) :: rest => if a = o.2.1 + 1 && a % 64 ≠ 0 then (o.2.1, o.2.2 :: bs) :: rest else (o.2.1, [o.2.2]) :: (a, bs) :: rest
    | [] => [(o.2.1, [o.2.2])]

/-- One landing applied (R155), its flags merged (R102, R104). A write to memory of another device, the host or an expander is posted
(R158, R239). -/
def State.landOne (s : State) (blk : Nat) (l : Landing) : State :=
  let s1 := match l.eff with
    | .mem out =>
      match s.block blk with
      | none => s
      | some b =>
        ((byteRuns out).foldl (fun (s : State) (o : Nat × List Byte) => (s.storeBytes b.core o.1 o.2).postAway blk (1024 + l.slot) o.1 o.2) s).watchTile b l.slot l.baddr
          (out.map fun (o : Nat × Nat × Byte) => { va := some o.1, pa := o.2.1, n := 1, rd := false, wr := true, eng := false })
    | _ => s
  ({ s1 with free := s1.free + 262144 } : State).modBlock blk fun b =>
    let b1 := match l.eff with
      | .view n out => b.writeView n out
      | _ => b
    let y := b1.tile.apply s1.free l
    { b1 with tile := y.1.raise l.slot l.baddr (l.fl ||| y.2) }
/-- Every operation in flight lands, oldest first; `n` bounds their number. -/
def State.landAll (s : State) (blk : Nat) : Nat → State
  | 0 => s
  | n + 1 =>
    match (s.block blk).map (·.tile.fly) with
    | none | some [] => s
    | some (l :: rest) => State.landAll ((s.modBlock blk fun b => { b with tile := { b.tile with fly := rest } }).landOne blk l) blk n
/-- The landings that are due, oldest first; `fuel` bounds their number. -/
def State.landDue (s : State) (blk : Nat) : Nat → State
  | 0 => s
  | n + 1 =>
    match (s.block blk).map (·.tile) with
    | none => s
    | some x =>
      match x.fly with
      | [] => s
      | l :: rest =>
        if x.step < l.at_ then s
        else State.landDue ((s.modBlock blk fun b => { b with tile := { b.tile with fly := rest } }).landOne blk l) blk n

/-! ### Slots -/

/-- The record of the issuing slot (R367): a gate frame's. -/
def State.slotRec (s : State) (b : Block) : Rec :=
  { slot := s.cur.slot, gate := true, asid := (s.ctx b.slot).asid.toNat, pc := (b.gate.getD 0#56).toNat, baddr := s.cur.baddr.toNat,
    own := b.owner.toNat, core := b.core }
/-- What stops a slot at issue (R372, R330): a fault is noted for the bundle, a park or an access to another device keeps the bundle
from issuing. -/
def State.slotStop (s : State) (b : Block) (e : Stop) : State :=
  let wait (s : State) (w : TileWait) : State := s.modBlock s.cur.blk fun b => { b with tile := { b.tile with wait := some w } }
  match e with
  | .fault c cause va pa d =>
    { (s.found e).abandon s.cur.blk (· == 1024 + s.cur.slot) with cur := { s.cur with tileFault := some (s.cur.slot, ({ s.slotRec b with code := c.num, num := cause, va, pa, detail := d } : Rec).bits) } }
  | .park ptea va posts =>
    let r : Rec := { s.slotRec b with code := Code.xlat.num, kind := 4, num := 1, va, pa := ptea }
    let x := s.parkOn ptea posts b.tile.lastPark r.bits
    let s1 := x.1.modBlock s.cur.blk fun b =>
      { b with tile := { b.tile with lastPark := if x.2.armed then some ptea else b.tile.lastPark } }
    wait s1 (match x.2 with | .park (l :: _) _ => .park l | _ => .parkNoMonitor (paDie ptea))
  | .away a =>
    let s1 := s.sendAway s.cur.blk (1024 + s.cur.slot) a
    wait s1 (.remote (s1.awayId s.cur.blk (1024 + s.cur.slot) a))
  | .busy _ => s
/-- A wait that keeps the bundle from issuing (R52). -/
def State.slotWait (s : State) (w : TileWait) : State :=
  s.modBlock s.cur.blk fun b => { b with tile := { b.tile with wait := some w } }

/-- A release of the context has still to wait (R222, R239, R282): for the acknowledgement of a posted write of its slots, or, at fabric
scope, for a write into a cast window. -/
def State.unreleased (s : State) (blk : Nat) : Bool := s.unacked blk agentOfTile || (s.cur.scope == .fabric && s.casting != [])

/-- A slot operation (R72): with a false guard it issues nothing; else f says what it does or what stops it. -/
def slotOp (q : QReg) (f : Block → State → Except Stop State) (s : State) : Outcome State Fault Refusal :=
  match s.block s.cur.blk with
  | none => .next s
  | some b =>
    if !b.tile.qreg q then .next s
    else
      match f b s with
      | .ok s1 => .next s1
      | .error e => .next (s.slotStop b e)

end Sys2Proof.Machine
end

