-- ==== Sys2Proof/Machine/TileM.lean ====
section
/-! DEFINITION. The M slots: stream and ring control (06_tile_set.md R168-R171). -/

namespace Sys2Proof.Machine

open Host (Outcome)

/-- A ring is the destination of a command of the context that has not completed (R169), or of one whose advance is held (R171). -/
def State.ringBusy (s : State) (b : Block) (blk : Nat) (c : CReg) : Bool :=
  ((s.core b.core).chans.any fun e => e.2.cmds.any fun m => m.blk == blk && m.ctx && m.ring.any fun r => r.1 == c) ||
  b.ringHold.any fun h => h.2.1 == c

/-- A preset that `scfg` accepts (R159, R160). -/
def presetOk (w : BitVec 256) : Bool :=
  let v := w.toNat
  let st := streamOf w
  let fmt := Ty.ofCode (w.extractLsb' 64 4)
  let ovf := Ovf.ofCode (w.extractLsb' 68 2)
  let isQ := st.fmt == .q8 || st.fmt == .q4
  bits v 56 8 == 0 && bits v 108 4 == 0 && bits v 170 2 == 0 && bits v 192 64 == 0 &&
  st.rows != 0 && st.epr != 0 && st.epr ≤ 256 && fmt.isSome && (ovf.any fun o => ovfOk st.fmt o) &&
  !(isQ && st.gs == 0) && (isQ || st.fmt == .s8 || (bits v 164 6 == 0 && bits v 172 20 == 0)) &&
  !(st.vw && (st.base != 0 || st.stride != 0 || st.rg)) && (st.vw || st.view == 0) && (st.rg || st.ring == 0#3)

/-- An operation on a configured stream (R169). -/
def onStream (w : Slot) (r : SReg) (f : Block → Stream → State → Except Stop State) (s : State) : Outcome State Fault Refusal :=
  slotOp w.q (fun b s =>
    match b.tile.stream? r with
    | .error e => .error e
    | .ok st => f b st s) s
/-- An operation on a bound ring (R169). -/
def onRing (w : Slot) (r : CReg) (f : Block → Ring → State → Except Stop State) (s : State) : Outcome State Fault Refusal :=
  slotOp w.q (fun b s =>
    match b.tile.ring? r with
    | .error e => .error e
    | .ok c => f b c s) s

/-- `scfg` (R169): the preset is checked and lands at s + 2. -/
def execScfg (o : StreamImm) (s : State) : Outcome State Fault Refusal :=
  slotOp o.w.q (fun b s =>
    let va := (b.tile.kreg o.a + (o.imm.signExtend 64 <<< 5)).toNat
    match s.rowRead (b.engine s.cur.blk s.cur.slot) va 32 32 with
    | .error e => .error e
    | .ok (l, s1) =>
      let w : BitVec 256 := BitVec.ofNat 256 (leNat l)
      if presetOk w then .ok (s1.emit 2 (.stream o.s (BitVec.allOnes 256) w) 0#5) else .error (stopBare .arg)) s
/-- `sbase` (R169). -/
def execSbase (o : StreamImm) (s : State) : Outcome State Fault Refusal :=
  onStream o.w o.s (fun b st s =>
    let k := b.tile.kreg o.a
    if k.extractLsb' 56 8 ≠ 0#8 then .error (xlatAt 3 k.toNat)
    else if st.vw || st.rg then .error (stopBare .arg)
    else .ok (s.emit 2 (.stream o.s (maskAt 0 56 ||| maskAt 200 16) (valAt 0 56 (k + o.imm.signExtend 64).toNat)) 0#5)) s
/-- `sadv` (R169). -/
def execSadv (o : SadvOp) (s : State) : Outcome State Fault Refusal :=
  onStream o.w o.s (fun _ _ s => .ok (s.emit 2 (.advance o.s o.n.toInt) 0#5)) s
/-- `sadv.b` (R169). -/
def execSadvB (o : StreamK) (s : State) : Outcome State Fault Refusal :=
  onStream o.w o.s (fun b _ s => .ok (s.emit 2 (.baseAdd o.s (b.tile.kreg o.a)) 0#5)) s
/-- `sgbt` (R169): binds the stream to a block table, or unbinds it when kA is 0. Of a kA with bits [63:56] set R169 names no fault: BASE takes
kA[55:0], which is the model's choice (log 88). -/
def execSgbt (o : StreamK) (s : State) : Outcome State Fault Refusal :=
  onStream o.w o.s (fun b _ s =>
    let k := b.tile.kreg o.a
    if k = 0#64 then .ok (s.emit 2 (.stream o.s (maskAt 192 1) 0#256) 0#5)
    else if k.extractLsb' 0 4 ≠ 0#4 then .error (stopAt .align k.toNat)
    else .ok (s.emit 2 (.stream o.s (maskAt 0 56 ||| maskAt 192 1 ||| maskAt 200 16) (valAt 0 56 k.toNat ||| valAt 192 1 1)) 0#5)) s
/-- RE, FTS and RPM of a stream (R169): it and its frequency stream are configured. -/
def ropeOp (o : RopeOp) (mode : Nat) (s : State) : Outcome State Fault Refusal :=
  onStream o.w o.s (fun b _ s =>
    match b.tile.stream? o.f with
    | .error e => .error e
    | .ok _ => .ok (s.emit 2 (.stream o.s (maskAt 193 7) (valAt 193 7 (1 + 2 * o.f.toNat + 32 * mode))) 0#5)) s
/-- `srope.adj` (R169). -/
def execSropeAdj (o : RopeOp) (s : State) : Outcome State Fault Refusal := ropeOp o 0 s
/-- `srope.half` (R169). -/
def execSropeHalf (o : RopeOp) (s : State) : Outcome State Fault Refusal := ropeOp o 1 s
/-- `srope.off` (R169). -/
def execSropeOff (o : StreamOp) (s : State) : Outcome State Fault Refusal :=
  onStream o.w o.s (fun _ _ s => .ok (s.emit 2 (.stream o.s (maskAt 193 7) 0#256) 0#5)) s
/-- `sscale` (R169): GS fits the format (R160). -/
def execSscale (o : SscaleOp) (s : State) : Outcome State Fault Refusal :=
  onStream o.w o.s (fun b st s =>
    match b.tile.stream? o.ss with
    | .error e => .error e
    | .ok _ =>
      let isQ := st.fmt == .q8 || st.fmt == .q4
      if (isQ && o.gs == 0#2) || (!isQ && st.fmt != .s8 && o.gs != 0#2) then .error (stopBare .arg)
      else
        .ok (s.emit 2 (.stream o.s (maskAt 164 6 ||| maskAt 172 20)
          (valAt 164 2 o.gs.toNat ||| valAt 166 4 o.ss.toNat ||| valAt 172 20 (b.tile.kreg o.a).toNat)) 0#5)) s
/-- `smask` (R169). -/
def execSmask (o : StreamK) (s : State) : Outcome State Fault Refusal :=
  onStream o.w o.s (fun b _ s => .ok (s.emit 2 (.stream o.s (maskAt 136 28) (valAt 136 28 (b.tile.kreg o.a).toNat)) 0#5)) s

/-- `cbi` (R169): its checks, and the ring as it lands at s + 2. -/
def execCbi (o : CbiOp) (s : State) : Outcome State Fault Refusal :=
  slotOp o.w.q (fun b s =>
    let a := (b.tile.kreg o.a).toNat
    let v := (b.tile.kreg o.b).toNat
    let slot := bits v 0 24
    let n := bits v 24 8
    if a / 2 ^ 56 ≠ 0 then .error (xlatAt 3 a)
    else if a % 16 ≠ 0 then .error (stopAt .align a)
    else if v / 2 ^ 32 ≠ 0 || slot = 0 || slot % 16 ≠ 0 || n = 0 || s.ringBusy b s.cur.blk o.c then .error (stopBare .arg)
    else if a / 2 ^ 20 ≠ 0x00FF000000000000 / 2 ^ 20 || b.scrLen = 0 || a % 2 ^ 20 < b.scrOff ||
        b.scrOff + b.scrLen < a % 2 ^ 20 + slot * n then .error (stopAt .scr a)
    else .ok (s.emit 2 (.ring o.c (valAt 0 56 a ||| valAt 64 24 slot ||| valAt 88 8 n ||| valAt 160 1 1)) 0#5)) s
/-- `cbw` (R169-R171): waits for filled slots; RING when the failed slot is among them. -/
def execCbw (o : RingOp) (s : State) : Outcome State Fault Refusal :=
  onRing o.w o.c (fun b c s =>
    if c.nslot < o.n.toNat then .error (stopBare .arg)
    else if c.fld && (c.fptr - c.e).toNat < o.n.toNat then .error (stopBare .ring)
    else if o.n.toNat ≤ c.filled then .ok (s.acquire b.core s.cur.scope)
    else .ok (s.slotWait .ring)) s
/-- `cbf` (R169, R170): waits for free slots. -/
def execCbf (o : RingOp) (s : State) : Outcome State Fault Refusal :=
  onRing o.w o.c (fun b c s =>
    if c.nslot < o.n.toNat then .error (stopBare .arg)
    else if o.n.toNat + c.filled ≤ c.nslot then .ok (s.acquire b.core s.cur.scope)
    else .ok (s.slotWait .ring)) s
/-- A ring's advance by `cba` (R169, R170, R222): a release at the bundle's scope, which keeps its bundle from issuing until it may perform. -/
def State.advanceBy (s : State) (e : Effect) : State := if s.unreleased s.cur.blk then s.slotWait .fence else s.emit 1 e 0#5
/-- `cba.f` (R169): F advances at s + 1; RING past NSLOT. -/
def execCbaF (o : RingOp) (s : State) : Outcome State Fault Refusal :=
  onRing o.w o.c (fun _ c s =>
    if c.nslot < c.filled + o.n.toNat then .error (stopBare .ring) else .ok (s.advanceBy (.ringFill o.c (o.n.setWidth 32)))) s
/-- `cba.e` (R169): E advances at s + 1; RING past F. -/
def execCbaE (o : RingOp) (s : State) : Outcome State Fault Refusal :=
  onRing o.w o.c (fun _ c s =>
    if c.filled < o.n.toNat then .error (stopBare .ring) else .ok (s.advanceBy (.ringEmpty o.c (o.n.setWidth 32)))) s

/-- A context's wait ends: its bundle comes to issue again, and the wait's condition is looked at again (log 25). -/
def State.endTileWait (s : State) (core cx : Nat) (p : TileWait → Bool) : State :=
  { s with blocks := s.blocks.map fun e => (e.1, e.2.map fun b =>
      if b.core = core && b.cx = some cx && b.inLock && b.tile.wait.any p then { b with tile := { b.tile with wait := none } } else b) }
/-- RING_WAIT_SATISFIED (R170): a ring of a waiting context has advanced. -/
def execRingWaitSatisfied (core cx : Nat) (s : State) : Outcome State Fault Refusal := .next (s.endTileWait core cx (· == .ring))
/-- COPY_WAIT_SATISFIED (R281). -/
def execCopyWaitSatisfied (core cx : Nat) (s : State) : Outcome State Fault Refusal := .next (s.endTileWait core cx (· == .copy))
/-- TILE_BARRIER_WAIT_SATISFIED (R183). -/
def execTileBarrierWaitSatisfied (core cx : Nat) (s : State) : Outcome State Fault Refusal :=
  .next (s.endTileWait core cx (· == .tileBar))
/-- DRAIN_POINT (R54): the commands of a context held at a drain point are looked at again. -/
def execDrainPoint (core cx : Nat) (s : State) : Outcome State Fault Refusal := .next (s.endTileWait core cx (· == .drain))

end Sys2Proof.Machine
end

