-- ==== Sys2Proof/Machine/Engine.lean ====
section
/-! DEFINITION. The copy engine (11_memory_instructions.md R268-R272): what a command is asked to do and the checks of its
acceptance, channels, and the movement of bytes, elements, rows and blocks (R274-R280, 07_attention_kv.md R190, R191, R197-R204). -/

namespace Sys2Proof.Machine

open Host (Outcome)

/-- A fold that stops at the first stop. -/
def foldStop {α β : Type} (f : α → β → Except Stop α) : α → List β → Except Stop α
  | a, [] => .ok a
  | a, x :: l =>
    match f a x with
    | .error e => .error e
    | .ok a' => foldStop f a' l

/-! ### Channels -/

/-- A copy channel of a core. -/
def State.chan (s : State) (core ch : Nat) : Chan := Tbl.get Chan.reset (s.core core).chans ch
/-- A copy channel changed. -/
def State.modChan (s : State) (core ch : Nat) (f : Chan → Chan) : State :=
  s.modCore core fun c => { c with chans := Tbl.modify Chan.reset c.chans ch f }
/-- The record of a channel for the threads of a block, or for its context (R268). -/
def recKey (blk : Nat) (ctx : Bool) : Nat := 2 * blk + ctx.toNat
/-- What a channel keeps for an issuer. -/
def Chan.rec_ (c : Chan) (blk : Nat) (ctx : Bool) : ChanRec := Tbl.get ChanRec.empty c.recs (recKey blk ctx)
/-- What a channel keeps for an issuer, changed. -/
def Chan.modRec (c : Chan) (blk : Nat) (ctx : Bool) (f : ChanRec → ChanRec) : Chan :=
  { c with recs := Tbl.modify ChanRec.empty c.recs (recKey blk ctx) f }
/-- a lies at or below b, as 32-bit numbers in order of issue: (b - a) mod 2^32 < 2^31 (R268, R277). -/
def idLe (a b : W32) : Bool := !(b - a).getLsbD 31
/-- Transfer ID n is complete (R268). -/
def Chan.complete (c : Chan) (n : W32) : Bool := idLe n c.cb
/-- A command that is neither finished by a fault nor by an abort; its ring advance is to come (R171). -/
def Cmd.pending (m : Cmd) : Bool := !(m.finished && m.faulted)

/-- The commands of a block's context on all channels of its core. -/
def State.ctxCmds (s : State) (b : Block) (blk : Nat) : List Cmd :=
  (s.core b.core).chans.flatMap fun e => e.2.cmds.filter fun m => m.blk == blk && m.ctx

/-! ### Rings -/

/-- W of R202: slots of the context's accepted commands on a ring whose advance has not been applied. -/
def State.ringPending (s : State) (b : Block) (blk : Nat) (c : CReg) : Nat :=
  ((s.ctxCmds b blk).foldl (fun n m => match m.ring with
    | some (r, k, _) => if r = c && m.pending then n + k else n
    | none => n) 0) + b.ringHold.foldl (fun n h => if h.2.1 = c then n + h.2.2.1 else n) 0
/-- The address of the slot k after the slot at an address of a ring. -/
def Ring.slotAddr (c : Ring) (slot0 k : Nat) : Nat := c.rbase + ((slot0 - c.rbase) / c.slot + k) % c.nslot * c.slot

/-- Ring advances held back are applied once no earlier command of the context on the ring is pending (R171); those of a pre-empted block
once it is resident again (R381). -/
def State.settleRings (s : State) (blk : Nat) : Nat → State
  | 0 => s
  | n + 1 =>
    match s.block blk with
    | none => s
    | some b =>
      if b.life = .launched then s else
      let ready := b.ringHold.find? fun h =>
        !((s.ctxCmds b blk).any fun m => m.pending && m.seq < h.1 && m.ring.any fun r => r.1 == h.2.1) &&
        !(b.ringHold.any fun g => g.2.1 == h.2.1 && g.1 < h.1)
      match ready with
      | none => s
      | some h =>
        State.settleRings (s.modBlock blk fun b =>
          { b with
            ringHold := b.ringHold.filter fun g => g.1 != h.1
            tile := (match h.2.2.2 with | some f => b.tile.failRing h.2.1 f | none => b.tile).fillRing h.2.1 (BitVec.ofNat 32 h.2.2.1) })
          blk n
/-- The ring advance of a command (R170, R171), marked failed at a fill-pointer value. -/
def State.advanceRing (s : State) (m : Cmd) (failed : Option W32) : State :=
  match m.ring with
  | none => s
  | some (c, n, _) =>
    let s1 := s.modBlock m.blk fun b => { b with ringHold := b.ringHold ++ [(m.seq, c, n, failed)] }
    s1.settleRings m.blk (((s1.block m.blk).map (·.ringHold.length)).getD 0)
/-- The fill-pointer value at which a command that ends early fails its ring (R171). -/
def Cmd.failAt (m : Cmd) : Option W32 :=
  m.ring.map fun r =>
    match m.kind with
    | .gather _ _ _ nb _ => r.2.2 + BitVec.ofNat 32 (Nat.min m.next (nb - 1))
    | .nest _ _ _ _ _ | .rows _ _ _ | .scatter _ _ _ _ => r.2.2

/-! ### What a command is asked to do -/

/-- A command before its acceptance: what it does, the extents it reads and writes (first and last byte), the first byte of each,
the ring and slots it is assigned, and the barrier it credits. -/
structure Ask where
  kind : CmdKind
  src : List (Int × Int)
  dst : List (Int × Int)
  first : Option Nat × Option Nat
  ring : Option (CReg × Nat)
  bar : Option (BitVec 4)
  /-- The reads that its acceptance makes, as watchpoints see them (R388). -/
  reads : List Touch := []

/-- The bytes of an extent inside a range that begins at `base`: first and last offset. -/
def extentIn (x : Int × Int) (base size : Nat) : Option (Nat × Nat) :=
  if x.2 < base || (base + size : Nat) ≤ x.1 then none
  else some ((x.1 - base).toNat, Nat.min (size - 1) (x.2 - base).toNat)
/-- An extent meets the core's scratchpad outside the block's allocation (R270, SCR). -/
def scrOutside (b : Block) (x : Int × Int) : Bool :=
  match extentIn x 0x00FF000000000000 (2 ^ 20) with
  | none => false
  | some (lo, hi) => b.scrLen = 0 || lo < b.scrOff || b.scrOff + b.scrLen ≤ hi
/-- A destination extent meets the peer aperture outside an open window, or in another block's with its single-writer bit set (R233, R270,
WIN). -/
def State.winOutside (s : State) (b : Block) (blk : Nat) (x : Int × Int) : Bool :=
  match extentIn x 0x00FF010000000000 (2 ^ 23) with
  | none => false
  | some (lo, hi) =>
    (List.range (hi / 128 + 1 - lo / 128)).any fun i =>
      let a := (lo / 128 + i) * 128
      match s.windowAt b.slot (b.core / 8 * 8 + a / 2 ^ 20) (a % 2 ^ 20) with
      | none => true
      | some (o, w) => w.sw && o != blk

/-- The checks of R270 that follow the entry's own, in order. -/
def State.askCheck (s : State) (b : Block) (p : Party) (k : Ask) : Except Stop Unit :=
  let l := k.src ++ k.dst
  if l.any fun x => x.1 < 0 || (2 ^ 56 : Nat) ≤ x.2 then .error (stopBare .arg)
  else
    match l.find? (scrOutside b), k.dst.find? fun x => s.winOutside b p.blk x with
    | some x, _ => .error (stopAt .scr x.1.toNat)
    | none, some x => .error (stopAt .win x.1.toNat)
    | none, none =>
      match k.first.1.bind fun a => stopOf (s.place p a 1 .read), k.first.2.bind fun a => stopOf (s.place p a 1 .write) with
      | some e, _ => .error e
      | none, some e => .error e
      | none, none =>
        match k.ring with
        | none => .ok ()
        | some (c, n) =>
          let r := ringOf (b.tile.craw c)
          if r.nslot < r.filled + s.ringPending b p.blk c + n then .error (stopBare .ring) else .ok ()

/-- A command accepted on a channel (R268, R269). -/
def State.accept (s : State) (b : Block) (ch : Nat) (blk : Nat) (ctx : Bool) (tid : Nat) (scope : Scope) (sys : Bool) (baddr : Addr)
    (k : Ask) : State :=
  let id := (s.chan b.core ch).next
  let ring := k.ring.map fun r =>
    let c := ringOf (b.tile.craw r.1)
    (r.1, r.2, c.f + BitVec.ofNat 32 (s.ringPending b blk r.1))
  let slot0 := match k.ring with
    | none => 0
    | some r =>
      let c := ringOf (b.tile.craw r.1)
      c.rbase + (c.f.toNat + s.ringPending b blk r.1) % c.nslot * c.slot
  let m : Cmd :=
    { id, seq := ((s.block blk).map Block.nextCmd).getD 0, blk, ctx, tid, scope, kind := k.kind, sys, baddr, ring, bar := k.bar, next := 0, past := 0, step := b.tile.step,
      pool := s.poolAddr b.slot, pins := [], rd := [], wr := [], finished := false,
      faulted := false, paused := false, slot0, fl := 0#5, parked := none, lastPark := none }
  (s.modChan b.core ch fun c => { (c.modRec blk ctx fun r => { r with last := some id }) with next := c.next + 1#32, cmds := c.cmds ++ [m] }).modBlock
    blk fun b => { b with nextCmd := b.nextCmd + 1 }
/-- A channel that holds six incomplete commands (R268). -/
def State.chanFull (s : State) (core ch : Nat) : Bool := 6 ≤ (s.chan core ch).cmds.length
/-- The units of a block may issue: it is resident, and its context is not stopped or stopping (R307, R393). -/
def State.mayIssue (s : State) (b : Block) : Bool := b.life != .launched && !(s.ctx b.slot).stopsTile
/-- A tile context of a core that may issue waits for a channel, or an entry that came free is its (R269). -/
def State.channelCtx (s : State) (core ch cx : Nat) : Bool :=
  s.blocks.any fun e => e.2.any fun b => b.core == core && b.cx == some cx && s.mayIssue b &&
    (b.tile.wait == some (.channel ch) || b.tile.wait == some (.granted ch))
/-- The first barge of a lane cluster that waits for a channel. -/
def State.channelBarge (s : State) (core ch clu : Nat) : Option (Nat × Nat) :=
  s.blocks.findSome? fun e => e.2.bind fun b =>
    if b.core != core || !s.mayIssue b then none
    else b.threads.zipIdx.findSome? fun x =>
      if x.1.status == .stalled (.channel ch) && b.clusterOf x.2 == clu then some (e.1, x.1.barge) else none
/-- A channel accepts no further command of a lane cluster (R269, R291, R307): it is full, or an issuer that comes before waits for it: a
tile context, or a barge of a lower-numbered lane cluster. -/
def State.chanShut (s : State) (core ch clu : Nat) : Bool :=
  s.chanFull core ch || s.channelCtx core ch 0 || s.channelCtx core ch 1 || (List.range clu).any fun c => (s.channelBarge core ch c).isSome
/-- The agent number of a command (R366). -/
def Cmd.agent (m : Cmd) : Nat := 2 ^ 16 + m.seq
/-- The party of a command of a block. -/
def Cmd.party (m : Cmd) (b : Block) : Party := b.party m.blk m.sys m.agent

/-! ### Movement -/

/-- A command's movement so far: the state, the ranges read and written (location and bytes), and its flags. -/
structure Move where
  st : State
  rd : List (Nat × Nat)
  wr : List (Nat × Nat)
  fl : Flags
  /-- Which of the bytes of the latest read are poisoned (R383). -/
  pz : List Bool
  /-- Accesses come to so far, each of one aligned 16-byte word, and those performed before a hit interrupted the command (R389). -/
  seen : Nat
  past : Nat
  /-- The hit at which the command pauses (R389), after which it makes no access: watchpoint, address and access. -/
  hit : Option (Nat × Nat × Touch)

/-- A read by virtual address as watchpoints see it (R388). -/
def State.readTouches (s : State) (p : Party) (va n : Nat) (eng : Bool) : List Touch :=
  match s.places p .read (chunks va (n / 64 + 2) n) with
  | .error _ => []
  | .ok l => l.map fun x => { va := some x.1, pa := x.2.2.loc, n := x.2.1, rd := true, wr := false, eng, who := p.who }
/-- A movement that has made no access. -/
def Move.start (s : State) : Move := { st := s, rd := [], wr := [], fl := 0#5, pz := [], seen := 0, past := 0, hit := none }
/-- A movement of a command that goes on after the blocks that it has processed, or where a hit interrupted it. -/
def Move.resume (s : State) (m : Cmd) : Move := { Move.start s with rd := m.rd, wr := m.wr, past := m.past }
/-- An engine's access as a watchpoint sees it. -/
def engTouch (va : Option Nat) (pa n : Nat) (wr : Bool) : Touch := { va, pa, n, rd := !wr, wr, eng := true }
/-- An access is come to: one not performed before may hit a watchpoint of the command's context. -/
def Move.touch (m : Move) (p : Party) (t : Touch) : Move :=
  if m.hit.isSome then m
  else { m with seen := m.seen + 1, hit := if m.seen < m.past then none else (m.st.ctx p.slot).wpHit [t] }
/-- Accesses are come to in order. -/
def Move.touches (m : Move) (p : Party) (l : List Touch) : Move := l.foldl (fun m t => m.touch p t) m
/-- A range joined to a list of ranges. -/
def addRange (l : List (Nat × Nat)) (loc n : Nat) : List (Nat × Nat) :=
  match l with
  | [] => [(loc, n)]
  | (a, k) :: l => if a + k = loc then (a, k + n) :: l else (loc, n) :: (a, k) :: l
/-- The aligned 16-byte words of a range: address, where it has one, location and bytes. -/
def wordParts (va : Option Nat) (loc n : Nat) : List (Option Nat × Nat × Nat) :=
  (words16 loc n).map fun w =>
    let a := Nat.max loc (16 * w)
    (va.map fun v => v + (a - loc), a, Nat.min (loc + n) (16 * w + 16) - a)

/-- The poisoned bytes of a range, byte by byte (R383). -/
def State.marks (s : State) (loc n : Nat) : List Bool := (List.range n).map fun i => s.poisonedWord ((loc + i) / 16)
/-- The data read of an engine (R383): it does not fault on poison, whose marks it carries; an uncorrectable error and the
acknowledgement as for any read. -/
def State.engReadable (s : State) (p : Party) (va : Nat) (pl : Place) (n : Nat) : Except Stop Place :=
  if s.badRange pl.loc n then .error (s.eccAt va pl.loc n)
  else (s.acknowledged p va ⟨pl.loc, n, .read, []⟩).map fun r => { pl with ack := r }
/-- What an engine's read finds at a home, or in the response of another device's (R220, R232). -/
def State.homeData (s : State) (pl : Place) (n : Nat) : List Byte :=
  match pl.ack with
  | some (_, l) => l.take n
  | none => s.bytes pl.loc n
/-- Bytes read at their homes by an engine (R220), as (address, place, bytes); physical accesses have no virtual address. -/
def Move.get (m : Move) (p : Party) (phys : Bool) (l : List (Nat × Place × Nat)) : Except Stop (List Byte × Move) :=
  match mapStop (fun x => (m.st.engReadable p x.1 x.2.1 x.2.2).map fun pl => (x.1, pl, x.2.2)) l with
  | .error e => .error e
  | .ok l =>
    let s1 := l.foldl (fun (s : State) x => s.fetchRange x.2.1.loc x.2.2) (m.st.settledNew p l m.rd)
    let m1 : Move := { m with
      st := s1, pz := l.flatMap fun x => s1.marks x.2.1.loc x.2.2, rd := l.foldl (fun r x => addRange r x.2.1.loc x.2.2) m.rd }
    .ok (l.flatMap fun x => s1.homeData x.2.1 x.2.2,
      m1.touches p (l.flatMap fun x => (wordParts (if phys then none else some x.1) x.2.1.loc x.2.2).map fun w => engTouch w.1 w.2.1 w.2.2 false))
/-- Bytes at a virtual address read by an engine; none once the command has paused. -/
def Move.read (m : Move) (p : Party) (va n : Nat) : Except Stop (List Byte × Move) :=
  if m.hit.isSome then .ok (List.replicate n 0#8, m)
  else
    match m.st.places p .read (chunks va (n / 64 + 2) n) with
    | .error e => .error e
    | .ok l => m.get p false (l.map fun x => (x.1, x.2.2, x.2.1))
/-- Bytes written at the home by an engine, of which those marked come of poisoned bytes (R383): a 16-byte word that a marked byte
reaches takes the mark and no byte of the write. -/
def State.markStore (s : State) (core loc : Nat) (bs : List Byte) (mk : List Bool) : State :=
  if !mk.contains true then s.homeStore core loc bs
  else
    (words16 loc bs.length).foldl (fun (s : State) w =>
      let a := Nat.max loc (16 * w)
      let e := Nat.min (loc + bs.length) (16 * w + 16)
      if ((mk.drop (a - loc)).take (e - a)).contains true then s.setPoison w 0
      else s.homeStore core a ((bs.drop (a - loc)).take (e - a))) s
/-- One access of a write: address, place, bytes and their marks. -/
structure PutPart where
  va : Option Nat
  pl : Place
  bs : List Byte
  marks : List Bool
/-- The accesses of a piece of a write: aligned 16-byte words, or all of it at another device's home. -/
def putParts (va : Option Nat) (pl : Place) (bs : List Byte) (mk : List Bool) : List PutPart :=
  if homeHere pl.loc then
    (wordParts va pl.loc bs.length).map fun w =>
      { va := w.1, pl := { pl with loc := w.2.1 }, bs := (bs.drop (w.2.1 - pl.loc)).take w.2.2, marks := (mk.drop (w.2.1 - pl.loc)).take w.2.2 }
  else [{ va, pl, bs, marks := mk }]
/-- One access of a write performed (R220, R250), with the marks of R383, unless the command has paused or had performed it. -/
def Move.put (m : Move) (p : Party) (x : PutPart) : Except Stop Move :=
  let t := engTouch x.va x.pl.loc x.bs.length true
  if m.hit.isSome then .ok m
  else if m.seen < m.past then .ok (m.touch p t)
  else
    match m.st.writable p (x.va.getD 0) x.pl x.bs false with
    | .error e => .error e
    | .ok pl =>
      let s1 := (m.st.settledNew p [(x.va.getD 0, pl, x.bs.length)] m.wr).markStore p.core pl.loc x.bs x.marks
      .ok (({ m with st := s1, wr := addRange m.wr pl.loc x.bs.length } : Move).touch p t)
/-- The marks of a list of pieces. -/
def pieceMarks (l : List (Nat × Place × List Byte)) (mk : List Bool) : List (Nat × Place × List Byte × List Bool) :=
  match l with
  | [] => []
  | (va, pl, bs) :: l => (va, pl, bs, mk.take bs.length) :: pieceMarks l (mk.drop bs.length)
/-- Bytes written at a virtual address by an engine. -/
def Move.write (m : Move) (p : Party) (va : Nat) (bs : List Byte) (mk : List Bool) : Except Stop Move :=
  if m.hit.isSome then .ok m
  else
    match m.st.places p .write (chunks va (bs.length / 64 + 2) bs.length) with
    | .error e => .error e
    | .ok l => foldStop (fun (m : Move) x => m.put p x) m ((pieceMarks (pieces l bs) mk).flatMap fun x => putParts (some x.1) x.2.1 x.2.2.1 x.2.2.2)

/-- Bytes at a physical address read or written as part of a KV page (R203, R280): the page is software's to place. -/
def pagePlace (pa : Nat) : Place := { loc := pa, obj := false, count := none, read := [] }
/-- Every byte of a row of a page exists (R24, R321): a row is shorter than any hole of the map. -/
def State.rowExists (s : State) (pa n : Nat) : Bool := s.paExists pa && s.paExists (pa + n - 1)
/-- Bytes of a KV page read. -/
def Move.readPage (m : Move) (p : Party) (pa n : Nat) : Except Stop (List Byte × Move) :=
  if m.hit.isSome then .ok (List.replicate n 0#8, m)
  else if !m.st.rowExists pa n then .error (xlatAt 4 0)
  else m.get p true ((chunks pa (n / 64 + 2) n).map fun x => (0, pagePlace x.1, x.2))
/-- Bytes of a KV page written: a tagged word raises TAG (R250). -/
def Move.writePage (m : Move) (p : Party) (pa : Nat) (bs : List Byte) (mk : List Bool) : Except Stop Move :=
  if m.hit.isSome then .ok m
  else if !m.st.rowExists pa bs.length then .error (xlatAt 4 0)
  else
    foldStop (fun (m : Move) x => m.put p x) m
      ((pieceMarks (pieces ((chunks pa (bs.length / 64 + 2) bs.length).map fun x => (0, x.2, { pagePlace x.1 with obj := true })) bs) mk).flatMap
        fun x => putParts none x.2.1 x.2.2.1 x.2.2.2)

/-- Undefined bytes (R271, R272): free values (log 6). -/
def freeBytes (free n : Nat) : List Byte := (List.range n).map fun i => Config.freeBits (free + i) 8
/-- Bytes of a location made undefined. -/
def State.scramble (s : State) (core loc n : Nat) : State :=
  ({ s with free := s.free + n } : State).homeStore core loc (freeBytes s.free n)
/-- Destination bytes of a command that are source bytes too become undefined (R272). -/
def State.scrambleBoth (s : State) (core : Nat) (rd wr : List (Nat × Nat)) : State :=
  wr.foldl (fun (s : State) w => rd.foldl (fun (s : State) r =>
    let a := Nat.max w.1 r.1
    let e := Nat.min (w.1 + w.2) (r.1 + r.2)
    if a < e then s.scramble core a (e - a) else s) s) s
/-- The movement of a whole command ends (R272). -/
def Move.finish (m : Move) (p : Party) : State := m.st.scrambleBoth p.core m.rd m.wr

/-- Round(x, TD, RNE, OVF) of a pattern (R274); into f8a and f8b R100 governs an infinity, from the same format too. -/
def convPat (ts td : Ty) (ovf : Ovf) (x : Nat) : Nat × Flags :=
  let r := convFloat (fmtOf td) .rne ovf (exactConv ts td && !td.isF8) ((fmtOf ts).decode x)
  ((fmtOf td).encode r.1, r.2)
/-- The elements of a format that marked bytes reach (R383). -/
def elemMarks (t : Ty) (pz : List Bool) (n : Nat) : List Bool :=
  (List.range n).map fun e => if t = .q4 then pz.getD (e / 2) false else ((pz.drop (e * elemBytes t 1)).take (elemBytes t 1)).contains true
/-- The bytes of a row of a format that marked elements reach (R383). -/
def rowMarks (t : Ty) (l : List Bool) : List Bool :=
  if t = .q4 then (List.range ((l.length + 1) / 2)).map fun i => l.getD (2 * i) false || l.getD (2 * i + 1) false
  else l.flatMap fun x => List.replicate (elemBytes t 1) x
/-- A run of bytes or elements copied (R274). -/
def Move.run (m : Move) (p : Party) (cv : Option CopyCv) (src dst n : Nat) : Except Stop Move :=
  match cv with
  | none =>
    match m.read p src n with
    | .error e => .error e
    | .ok (l, m1) => m1.write p dst l m1.pz
  | some c =>
    let k := elemBytes c.ts 1
    match m.read p src (n * k) with
    | .error e => .error e
    | .ok (l, m1) =>
      let out := (List.range n).map fun i => convPat c.ts c.td c.ovf (leNat ((l.drop (i * k)).take k))
      ({ m1 with fl := out.foldl (fun f x => f ||| x.2) m1.fl } : Move).write p dst (out.flatMap fun x => leBytes (elemBytes c.td 1) x.1)
        (rowMarks c.td (elemMarks c.ts m1.pz n))

/-- The offsets of a nest's copies, in the order of R276: level 0 varies fastest. -/
def nestOffsets : List (Nat × Int × Int) → List (Int × Int)
  | [] => [(0, 0)]
  | (n, ss, ds) :: l => (nestOffsets l).flatMap fun o => (List.range n).map fun i => (o.1 + i * ss, o.2 + i * ds)
/-- The copies of a nest: source and destination addresses, modulo 2^56 (R276). -/
def nestRuns (sb db : Nat) (levels : List (Nat × Int × Int)) : List (Nat × Nat) :=
  (nestOffsets levels).map fun o => ((((sb : Int) + o.1) % (2 ^ 56 : Nat)).toNat, (((db : Int) + o.2) % (2 ^ 56 : Nat)).toNat)

/-! ### Rows -/

/-- The patterns of the first n elements of a row read by an engine (R161, R162), with the marks of its bytes. -/
def Move.row (m : Move) (p : Party) (b : Block) (st : Stream) (i n : Nat) : Except Stop (List Nat × Move) :=
  let k := Nat.min n (st.inside i)
  if st.vw then
    match b.tile.streamView st with
    | .error e => .error e
    | .ok v => .ok ((List.range k).map fun e => b.viewElem v (i % 32) e, { m with pz := [] })
  else
    match b.tile.rowAddr st i with
    | .error e => .error e
    | .ok a =>
      if k = 0 then .ok ([], { m with pz := [] })
      else if a / 2 ^ 56 ≠ 0 then .error (xlatAt 3 a)
      else if a % rowAlign st.fmt ≠ 0 then .error (stopAt .align a)
      else
        match m.read p a (elemBytes st.fmt k) with
        | .error e => .error e
        | .ok (l, m1) => .ok ((List.range k).map (elemOf st.fmt l), m1)
/-- Patterns as the bytes of a row (R95, R161); the last nibble of an odd row of q4 keeps the half byte `old`. -/
def packRow (t : Ty) (l : List Nat) (old : Nat) : List Byte :=
  if t = .q4 then (List.range ((l.length + 1) / 2)).map fun i => BitVec.ofNat 8 (l.getD (2 * i) 0 % 16 + l.getD (2 * i + 1) old % 16 * 16)
  else l.flatMap fun x => leBytes (elemBytes t 1) x
/-- Patterns written to a row at an address. -/
def Move.putRow (m : Move) (p : Party) (t : Ty) (a : Nat) (l : List Nat) (mk : List Bool) : Except Stop Move :=
  if l = [] then .ok m
  else if a / 2 ^ 56 ≠ 0 then .error (xlatAt 3 a)
  else if a % rowAlign t ≠ 0 then .error (stopAt .align a)
  else
    let old := match m.st.place p (a + l.length / 2) 1 .write with
      | .ok pl => leNat (m.st.homeBytes pl.loc 1) / 16
      | .error _ => 0
    m.write p a (packRow t l old) (rowMarks t mk)
/-- The values of a row as the destination holds them (R278, R280): converted, but where `same` copies the bits of one format (log 45);
elements past those read are +0. -/
def convRow (same : Bool) (ts td : Ty) (ovf : Ovf) (l : List Nat) (n : Nat) : List Nat × Flags :=
  let out := (List.range n).map fun e =>
    if e < l.length then (if same && ts = td then (l.getD e 0, 0#5) else convPat ts td ovf (l.getD e 0)) else (0, 0#5)
  (out.map Prod.fst, out.foldl (fun f x => f ||| x.2) 0#5)
/-- The address of row i of the destination of `ccpy` (R278): of a ring, in slot i div ROWS of the assigned slots. -/
def destRow (b : Block) (m : Cmd) (d : Stream) (i : Nat) : Except Stop (Nat × Nat) :=
  match m.ring with
  | some (c, _, _) =>
    let r := ringOf (b.tile.craw c)
    let row := i % d.rows
    .ok (row, ((((r.slotAddr m.slot0 (i / d.rows) : Nat) : Int) + row * d.stride) % (2 ^ 64 : Nat)).toNat)
  | none =>
    let row := (d.rpos + i) % d.rows
    (b.tile.rowAddr d row).map fun a => (row, a)
/-- One row of a `ccpy` (R278). -/
def Move.copyRow (m : Move) (p : Party) (b : Block) (c : Cmd) (src dst : Stream) (i : Nat) : Except Stop Move :=
  match destRow b c dst i with
  | .error e => .error e
  | .ok (row, a) =>
    let n := dst.inside row
    match m.row p b src ((src.rpos + i) % src.rows) n with
    | .error e => .error e
    | .ok (l, m1) =>
      let y := convRow true src.fmt dst.fmt dst.ovf l n
      ({ m1 with fl := m1.fl ||| y.2 } : Move).putRow p dst.fmt a y.1 (elemMarks src.fmt m1.pz n)

/-! ### Block tables -/

/-- A block-table entry (R189). -/
structure BtEntry where
  ppn : Nat
  posb : Nat
  tier : Nat
  v : Bool
  rsvd : Nat
  deriving DecidableEq, Repr
/-- An entry from its 16 bytes. -/
def btEntry (v : Nat) : BtEntry :=
  { ppn := v % 2 ^ 40, posb := v / 2 ^ 40 % 2 ^ 32, tier := v / 2 ^ 72 % 4, v := v / 2 ^ 74 % 2 == 1, rsvd := v / 2 ^ 76 }
/-- The core's block translation buffer holds an entry (R191). -/
def CoreSt.btbHit (c : CoreSt) (asid : BitVec 16) (loc : Nat) : Option Nat :=
  (c.btb.find? fun e => e.asid == asid && e.loc == loc && e.tag == c.ver).map (·.data.toNat)
/-- Entry blk of a stream with GB = 1, read as a weak load of 16 bytes through the block translation buffer (R190, R191): XLAT for V = 0,
ARG for a reserved bit. -/
def Move.entry (m : Move) (p : Party) (st : Stream) (blk : Nat) : Except Stop (Nat × Move) :=
  let va := st.base + 16 * blk
  if va / 2 ^ 56 ≠ 0 then .error (xlatAt 3 va)
  else if va % 16 ≠ 0 then .error (stopAt .align va)
  else
    match m.st.place p va 16 .read with
    | .error e => .error e
    | .ok pl =>
      match m.st.readable p va pl 16 with
      | .error e => .error e
      | .ok pl =>
        let s1 := (m.st.settledNew p [(va, pl, 16)] m.rd).fetchHome pl.loc
        let asid := (s1.ctx p.slot).asid
        let c := s1.core p.core
        let x := (c.btbHit asid pl.loc).getD (leNat (s1.homeData pl 16))
        let s2 := if !l1May p.core pl.loc then s1 else s1.modCore p.core fun c =>
          { c with btb := ({ asid, loc := pl.loc, tag := c.ver, data := BitVec.ofNat 128 x } ::
              c.btb.filter fun e => !(e.asid == asid && e.loc == pl.loc)).take 64 }
        let e := btEntry x
        if !e.v then .error (xlatAt 0 va)
        else if e.rsvd ≠ 0 then .error (stopBare .arg)
        else .ok (x, ({ m with st := s2, rd := addRange m.rd pl.loc 16 } : Move).touch p (engTouch (some va) pl.loc 16 false))
/-- Token rows of a logical block that hold data (R203). -/
def tokens (st : Stream) (blk : Nat) : Nat := Nat.min 16 (st.brow - 16 * blk)
/-- The physical address of row o of a page (R203). -/
def pageRow (e : BtEntry) (st : Stream) (o : Nat) : Nat := ((((e.ppn * 4096 : Nat) : Int) + o * st.stride) % (2 ^ 64 : Nat)).toNat

/-! ### Rotary arithmetic -/

/-- CosT and SinT of an angle (R197): correctly rounded, +0 for zero, no flag. -/
def trigT (f : Sfu) (θ : Nat) : FVal :=
  match (f.eval .rne (.fin false ((θ : Rat) / ((2 ^ 32 : Nat) : Rat)))).1 with
  | .fin n a => if a = 0 then .fin false 0 else .fin n a
  | v => v
/-- Round(x, Fo, RNE, OVF) of an exact value, an exact zero being +0 (R198). -/
def rotRound (fo : Ty) (ovf : Ovf) (v : FVal) : FVal × Flags :=
  let r := convFloat (fmtOf fo) .rne ovf false v
  (match r.1 with | .fin n a => if v.isZero then .fin false 0 else .fin n a | y => y, r.2)
/-- The exact sum of an exact product and a value (R198): ∞ × 0 and ∞ - ∞ are NaN. -/
def exactMulAdd (a b c : FVal) : FVal :=
  match mulVal a b with
  | none => quietNan
  | some y =>
    if y.isNan || c.isNan then quietNan
    else match infSign [y, c] with
      | none => quietNan
      | some (some n) => .inf n
      | some none =>
        let x := y.real + c.real
        .fin (decide (x < 0)) (if x < 0 then -x else x)
/-- RoundNE of a product in F32 (R198). -/
def rotMul (a b : FVal) : FVal × Flags :=
  let r := fMul fmtF32 .rne a b
  (r.1, r.2 ||| nanFlag [a, b])
/-- A pair rotated (R198). -/
def rotate (fo : Ty) (ovf : Ovf) (pos freq : Nat) (x y : FVal) : (Nat × Nat) × Flags :=
  let θ := pos * freq % 2 ^ 32
  let F := fmtOf fo
  if θ = 0 then
    let a := rotRound fo ovf x
    let b := rotRound fo ovf y
    ((F.encode a.1, F.encode b.1), a.2 ||| b.2)
  else
    let c := trigT .cos θ
    let sn := trigT .sin θ
    let u := rotMul y sn
    let a := rotRound fo ovf (exactMulAdd x c u.1.negate)
    let w := rotMul y c
    let b := rotRound fo ovf (exactMulAdd x sn w.1)
    ((F.encode a.1, F.encode b.1), u.2 ||| a.2 ||| w.2 ||| b.2)
/-- A row of a gather: rotated (R199), or rounded (R203). -/
def gatherRow (src dst : Stream) (freq : List Nat) (pos : Nat) (x : List Nat) : List Nat × Flags :=
  let val (k : Nat) : FVal := if k < x.length then (fmtOf src.fmt).decode (x.getD k 0) else .fin false 0
  if src.re then
    let h := src.epr / 2
    let prs := (List.range h).map fun j =>
      let a := if src.rpm = 0 then 2 * j else j
      let b := if src.rpm = 0 then 2 * j + 1 else j + h
      (a, b, rotate dst.fmt dst.ovf pos (freq.getD j 0) (val a) (val b))
    let at_ (k : Nat) : Nat := (prs.findSome? fun q => if q.1 = k then some q.2.2.1.1 else if q.2.1 = k then some q.2.2.1.2 else none).getD 0
    ((List.range src.epr).map at_, prs.foldl (fun f q => f ||| q.2.2.2) 0#5)
  else
    let out := (List.range src.epr).map fun k => if k < x.length then convPat src.fmt dst.fmt dst.ovf (x.getD k 0) else (0, 0#5)
    (out.map Prod.fst, out.foldl (fun f q => f ||| q.2) 0#5)

/-- The elements of a gathered row that marked elements reach (R383): with rotation, both of a pair. -/
def gatherMarks (src : Stream) (l : List Bool) : List Bool :=
  let h := src.epr / 2
  (List.range src.epr).map fun k =>
    if !src.re then l.getD k false
    else if src.rpm = 0 then l.getD (k / 2 * 2) false || l.getD (k / 2 * 2 + 1) false
    else l.getD (k % h) false || l.getD (k % h + h) false

/-! ### Gather and scatter, block by block -/

/-- The slot tag of R202. -/
def slotTag (blk ntok st tier ppn : Nat) : List Byte :=
  leBytes 16 (blk % 2 ^ 32 + ntok * 2 ^ 32 + st * 2 ^ 40 + tier * 2 ^ 42 + ppn % 2 ^ 40 * 2 ^ 64)

/-- Whether a block of a command has been processed, or its page has been pinned. -/
inductive BlockStep where
  /-- The block is processed, unless a hit has interrupted it. -/
  | done (m : Move)
  /-- The page of this entry is pinned; its rows are read in a further step. -/
  | pinned (entry desc : Nat) (m : Move)
  /-- The pin count is full, and the pin waits (R194). -/
  | wait (st : State)

/-- A descriptor's change by an engine as a watchpoint sees it: a physical read-modify-write (R388). -/
def pinTouch (loc : Nat) : Touch := { va := none, pa := loc, n := 16, rd := true, wr := true, eng := true }
/-- The page of an entry pinned (R194, R203), in the pool that KVPOOL named when the command was accepted (R352). -/
def Move.pinPage (m : Move) (p : Party) (pool x : Nat) : Except Stop BlockStep :=
  if m.hit.isSome then .ok (.done m)
  else
    match m.st.descAt p pool (btEntry x).ppn .pin [] with
    | .error e => .error e
    | .ok d =>
      match m.st.pin p.core d with
      | .error e => .error e
      | .ok none => .ok (.wait (m.st.consume d.ids))
      | .ok (some s1) => .ok (.pinned x d.loc (({ m with st := s1 } : Move).touch p (pinTouch d.loc)))
/-- The pin of a page released at its descriptor, the last access of its block (R194). -/
def Move.unpinPage (m : Move) (p : Party) (d : Nat) : Move :=
  if m.hit.isSome then m
  else (if m.seen < m.past then m else { m with st := m.st.unpin p.core p.blk p.who d }).touch p (pinTouch d)

/-- Block j of a gather (R203): its first step, then with its page pinned the second. -/
def gatherBlock (p : Party) (b : Block) (c : Cmd) (src dst : Stream) (freq : List Nat) (blk j : Nat) (s : State) : Except Stop BlockStep :=
  let m := Move.resume s c
  let ring := match c.ring with | some r => ringOf (b.tile.craw r.1) | none => ringOf 0#256
  let sa : Nat := ring.slotAddr c.slot0 j
  let rowAt (o : Nat) : Nat := ((sa : Int) + o * dst.stride).toNat
  let tag (m : Move) (ntok st tier ppn : Nat) : Except Stop Move := m.write p (sa + ring.slot - 16) (slotTag blk ntok st tier ppn) []
  let nt := tokens src blk
  match c.pins with
  | (x, d) :: _ =>
    let e := btEntry x
    match foldStop (fun (m : Move) o =>
        let k := if o < nt then Nat.min src.epr src.bcol else 0
        match if k = 0 then .ok ([], { m with pz := [] }) else m.readPage p (pageRow e src o) (elemBytes src.fmt k) with
        | .error e => .error e
        | .ok (l, m1) =>
          let y := gatherRow src dst freq ((e.posb + o) % 2 ^ 32) ((List.range k).map (elemOf src.fmt l))
          ({ m1 with fl := m1.fl ||| y.2 } : Move).write p (rowAt o) (packRow dst.fmt y.1 0)
            (rowMarks dst.fmt (gatherMarks src (elemMarks src.fmt m1.pz k)))) m (List.range 16) with
    | .error e => .error e
    | .ok m1 => (tag m1 nt 1 e.tier e.ppn).map fun m2 => .done (m2.unpinPage p d)
  | [] =>
    if nt = 0 then
      match foldStop (fun (m : Move) o => m.write p (rowAt o) (packRow dst.fmt (List.replicate src.epr 0) 0) []) m (List.range 16) with
      | .error e => .error e
      | .ok m1 => (tag m1 0 1 0 0).map .done
    else
      match m.entry p src blk with
      | .error e => .error e
      | .ok (x, m1) => if (btEntry x).tier = 3 then (tag m1 0 2 3 (btEntry x).ppn).map .done else m1.pinPage p c.pool x

/-- Block j of a scatter (R280). -/
def scatterBlock (p : Party) (b : Block) (c : Cmd) (src dst : Stream) (blk j : Nat) (s : State) : Except Stop BlockStep :=
  let m := Move.resume s c
  match c.pins with
  | (x, d) :: _ =>
    let e := btEntry x
    match foldStop (fun (m : Move) o =>
        let n := Nat.min dst.epr dst.bcol
        match m.row p b src ((src.rpos + 16 * j + o) % src.rows) n with
        | .error e => .error e
        | .ok (l, m1) =>
          let y := convRow false src.fmt dst.fmt dst.ovf l n
          if n = 0 then .ok m1 else ({ m1 with fl := m1.fl ||| y.2 } : Move).writePage p (pageRow e dst o) (packRow dst.fmt y.1 0)
            (rowMarks dst.fmt (elemMarks src.fmt m1.pz n))) m
        (List.range (tokens dst blk)) with
    | .error e => .error e
    | .ok m1 => .ok (.done (m1.unpinPage p d))
  | [] =>
    match m.entry p dst blk with
    | .error e => .error e
    | .ok (x, m1) => m1.pinPage p c.pool x

end Sys2Proof.Machine
end

