-- ==== Sys2Proof/Machine/Copies.lean ====
section
/-! DEFINITION. Copy instructions of threads and of the C slots, their waits, and the events of the copy channels
(11_memory_instructions.md R268-R281, 07_attention_kv.md R201-R204). -/

namespace Sys2Proof.Machine

open Host (Outcome)

/-! ### What each instruction asks for -/

/-- First and last byte of n bytes at an address. -/
def extentOf (a n : Nat) : Int × Int := (a, (a : Int) + n - 1)

/-- `cpy` for a lane (R274). -/
def cpyAsk (o : CpyOp) (t : Thread) : Except Stop Ask :=
  let a := (t.get64 o.a.toNat).toNat
  let b := (t.get64 o.b.toNat).toNat
  let n := (t.get o.c.toNat).toNat
  let x := t.get (o.c.toNat + 1)
  let ks := match o.cv with | some c => elemBytes c.ts 1 | none => 1
  let kd := match o.cv with | some c => elemBytes c.td 1 | none => 1
  if a / 2 ^ 56 ≠ 0 then .error (xlatAt 3 a)
  else if b / 2 ^ 56 ≠ 0 then .error (xlatAt 3 b)
  else if a % ks ≠ 0 then .error (stopAt .align a)
  else if b % kd ≠ 0 then .error (stopAt .align b)
  else if n = 0 || x.extractLsb' 5 27 ≠ 0#27 then .error (stopBare .arg)
  else .ok { kind := .nest a b n [] o.cv, src := [extentOf a (n * ks)], dst := [extentOf b (n * kd)], first := (some a, some b), ring := none,
             bar := if x.getLsbD 4 then some (x.setWidth 4) else none }

/-- A nest descriptor (R275). -/
structure NestDesc where
  sb : Nat
  db : Nat
  len : Nat
  levels : List (Nat × Int × Int)
  cv : Option CopyCv
  /-- The bytes of an element of the source and of the destination, as CV, TS and TD give them. -/
  ks : Nat
  kd : Nat
  bar : Option (BitVec 4)
  ok : Bool
/-- The conversion fields of a descriptor; none when they break the rules of `cpy`. -/
def nestCv (cv : Bool) (ts td ovf : Nat) : Option (Option CopyCv) :=
  if !cv then (if ts = 0 && td = 0 && ovf = 0 then some none else none)
  else
    match Ty.ofCode (BitVec.ofNat 4 ts), Ty.ofCode (BitVec.ofNat 4 td), Ovf.ofCode (BitVec.ofNat 2 ovf) with
    | some a, some b, some o => if a.isFloat && b.isFloat && ovfOk b o then some (some { ts := a, td := b, ovf := o }) else none
    | _, _, _ => none
/-- The bytes of an element of a type code under CV, where the code is one of R76's. -/
def codeBytes (cv : Bool) (ty : Nat) : Nat := if cv then ((Ty.ofCode (BitVec.ofNat 4 ty)).map fun t => elemBytes t 1).getD 1 else 1
/-- A descriptor from its 128 bytes. -/
def nestDesc (l : List Byte) : NestDesc :=
  let v := leNat l
  let nl := bits v 160 8
  let level (i : Nat) : Nat × Int × Int := (bits v (256 + 128 * i) 32, sbits v (288 + 128 * i) 48, sbits v (336 + 128 * i) 48)
  let cv := nestCv (bits v 176 1 == 1) (bits v 168 4) (bits v 172 4) (bits v 177 2)
  let used := (List.range 6).filter (· < nl)
  { sb := bits v 0 64, db := bits v 64 64, len := bits v 128 32, levels := used.map level, cv := cv.getD none,
    ks := codeBytes (bits v 176 1 == 1) (bits v 168 4), kd := codeBytes (bits v 176 1 == 1) (bits v 172 4),
    bar := if bits v 188 1 = 1 then some (BitVec.ofNat 4 (bits v 184 4)) else none
    ok := bits v 56 8 == 0 && bits v 120 8 == 0 && 1 ≤ bits v 128 32 && bits v 128 32 ≤ 2 ^ 20 && 1 ≤ nl && nl ≤ 6 && cv.isSome &&
      bits v 179 5 == 0 && bits v 189 67 == 0 && (used.all fun i => (level i).1 != 0) &&
      ((List.range 6).all fun i => i < nl || bits v (256 + 128 * i) 128 == 0) &&
      (used.foldl (fun n i => n * (level i).1) 1) ≤ 2 ^ 32 }
/-- An extent of a nest (R275): from the base and the strides of its levels, for innermost copies of n bytes. -/
def nestExtent (base : Nat) (l : List (Nat × Int)) (n : Nat) : Int × Int :=
  ((base : Int) + l.foldl (fun s x => s + min 0 (((x.1 : Int) - 1) * x.2)) 0,
   (base : Int) + l.foldl (fun s x => s + max 0 (((x.1 : Int) - 1) * x.2)) 0 + n - 1)
/-- The checks of a descriptor's bases that come before its limits (R270, R275): bits [63:56] of an address, which DB with RB = 1 is not, then
alignment. -/
def nestFirst (d : NestDesc) (ring : Bool) : Option Stop :=
  if d.sb / 2 ^ 56 ≠ 0 then some (xlatAt 3 d.sb)
  else if !ring && d.db / 2 ^ 56 ≠ 0 then some (xlatAt 3 d.db)
  else if d.sb % d.ks ≠ 0 || (d.levels.any fun x => x.2.1 % d.ks ≠ 0) then some (stopAt .align d.sb)
  else if d.db % d.kd ≠ 0 || (d.levels.any fun x => x.2.2 % d.kd ≠ 0) then some (stopAt .align d.db)
  else none
/-- A nest copy (R275, R279) whose destinations begin at `off` more than DB. -/
def nestAsk (d : NestDesc) (off : Nat) (ring : Option (CReg × Nat)) : Except Stop Ask :=
  match nestFirst d ring.isSome with
  | some e => .error e
  | none =>
  if !d.ok then .error (stopBare .arg)
  else
    let db := d.db + off
    .ok { kind := .nest d.sb db d.len d.levels d.cv,
          src := [nestExtent d.sb (d.levels.map fun x => (x.1, x.2.1)) (d.len * d.ks)],
          dst := [nestExtent db (d.levels.map fun x => (x.1, x.2.2)) (d.len * d.kd)],
          first := (some d.sb, some db), ring, bar := d.bar }
/-- The bytes of a nest descriptor (R275). -/
def nestBytes : Nat := 128
/-- The descriptor of a nest copy, read as a load (R270, R275). -/
def readNest (s : State) (p : Party) (va : Nat) : Except Stop (NestDesc × State) :=
  if va / 2 ^ 56 ≠ 0 then .error (xlatAt 3 va)
  else if va % 128 ≠ 0 then .error (stopAt .align va)
  else (s.virtRead p va nestBytes).map fun x => (nestDesc x.1, x.2)

/-- The extents of rows: those that hold elements, as their addresses stand. -/
def rowExtents (l : List (Nat × Nat)) : List (Int × Int) := (l.filter fun x => x.2 ≠ 0).map fun x => extentOf x.1 x.2
/-- The address of the first byte of extents. -/
def firstOf (l : List (Int × Int)) : Option Nat := l.head?.map fun x => x.1.toNat
/-- Rows of a stream: address and bytes inside, for a list of row numbers; none for a view, for a ring that is not bound and for a stream
that is not configured. -/
def streamRows (x : Tile) (st : Stream) (l : List Nat) : List (Nat × Nat) :=
  if st.vw || st.rows = 0 then []
  else l.filterMap fun i => (x.rowAddr st i).toOption.map fun a => (a, elemBytes st.fmt (st.inside i))
/-- An address of rows, slots or entries has bits [63:56] set (R270). -/
def badFirst (l : List (Int × Int)) : Option Stop := (l.find? fun x => decide (((2 ^ 56 : Nat) : Int) ≤ x.1)).map fun x => xlatAt 3 x.1.toNat
/-- The ring of a stream, where it has one that is bound. -/
def Tile.ringOf? (x : Tile) (st : Stream) : Except Stop Ring := if st.rg then x.ring? st.ring else .error (stopBare .arg)

/-- The first slot that a command on a ring would be assigned (R202). -/
def State.nextSlot (s : State) (b : Block) (blk : Nat) (c : CReg) : Nat :=
  let r := ringOf (b.tile.craw c)
  r.rbase + (r.f.toNat + s.ringPending b blk c) % r.nslot * r.slot
/-- Extents of n ring slots from the next one on. -/
def State.slotExtents (s : State) (b : Block) (blk : Nat) (c : CReg) (n : Nat) : List (Int × Int) :=
  let r := ringOf (b.tile.craw c)
  (List.range n).map fun j => extentOf (r.slotAddr (s.nextSlot b blk c) j) r.slot

/-- `ccpy` (R278): addresses first, then the limits (R270). -/
def ccpyAsk (o : CcpyOp) (b : Block) (p : Party) (s : State) : Except Stop (Ask × State) :=
  let x := b.tile
  let k := (x.kreg o.a).toNat
  let n := bits k 0 16
  let ns := bits k 16 8
  let st := streamOf (x.sraw o.s)
  let d := streamOf (x.sraw o.d)
  let src := rowExtents (streamRows x st ((List.range n).map fun i => (st.rpos + i) % st.rows))
  let dst :=
    if d.rg then (match x.ring? d.ring with | .ok _ => s.slotExtents b p.blk d.ring ns | .error _ => [])
    else rowExtents (streamRows x d ((List.range n).map fun i => (d.rpos + i) % d.rows))
  match badFirst (src ++ dst) with
  | some e => .error e
  | none =>
    match x.rowStream o.s, x.rowStream o.d with
    | .error e, _ => .error e
    | _, .error e => .error e
    | .ok _, .ok _ =>
      if bits k 29 35 ≠ 0 || n = 0 || st.wr || !d.wr || st.vw || d.vw || st.epr ≠ d.epr ||
          (st.fmt ≠ d.fmt && !(st.fmt.isFloat && d.fmt.isFloat)) || (!d.rg && ns ≠ 0) || (d.rg && (n ≠ ns * d.rows || ns = 0)) ||
          (st.rg && stopOf (x.ring? st.ring) != none) || (d.rg && stopOf (x.ring? d.ring) != none) then .error (stopBare .arg)
      else .ok ({ kind := .rows (x.sraw o.s) (x.sraw o.d) n, src, dst, first := (firstOf src, firstOf dst),
                  ring := if d.rg then some (d.ring, ns) else none,
                  bar := if bits k 28 1 = 1 then some (BitVec.ofNat 4 (bits k 24 4)) else none }, s)
/-- `ccpn` with RB = 0 (R279). -/
def ccpnAsk (a : KReg) (b : Block) (p : Party) (s : State) : Except Stop (Ask × State) :=
  match readNest s p (b.tile.kreg a).toNat with
  | .error e => .error e
  | .ok (d, s1) => (nestAsk d 0 none).map fun k => ({ k with reads := s.readTouches p (b.tile.kreg a).toNat nestBytes false }, s1)
/-- `ccpn` with RB = 1 (R279): the slots do not wrap, and the destination stays in them. -/
def ccpnRingAsk (a : KReg) (c : CReg) (n : Nat) (b : Block) (p : Party) (s : State) : Except Stop (Ask × State) :=
  match readNest s p (b.tile.kreg a).toNat with
  | .error e => .error e
  | .ok (d, s1) =>
    match nestFirst d true, b.tile.ring? c with
    | some e, _ => .error e
    | none, .error e => .error e
    | none, .ok r =>
      let sl := s.nextSlot b p.blk c
      match nestAsk d sl (some (c, n)) with
      | .error e => .error e
      | .ok k =>
        if r.rbase + r.nslot * r.slot < sl + n * r.slot || (k.dst.any fun x => x.1 < sl || (sl + n * r.slot : Nat) ≤ x.2) then
          .error (stopBare .arg)
        else .ok ({ k with reads := s.readTouches p (b.tile.kreg a).toNat nestBytes false }, s1)

/-- The limits that `cgath` and `cscat` share (R201, R280), with `page` the stream whose rows lie in the pages: operand, formats, strides and
block numbers, then the page size of the pool record (R192). The state has taken up the accesses to other devices. -/
def blockLimits (s : State) (b : Block) (p : Party) (k : Nat) (st d page : Stream) : Except Stop State :=
  let b0 := bits k 0 32
  let nb := bits k 32 8
  if !(bits k 40 24 == 0 && nb != 0 && st.fmt.isFloat && d.fmt.isFloat && st.epr == d.epr && 0 < page.stride &&
      page.stride % elemBytes page.fmt 1 == 0 && (elemBytes d.fmt d.epr : Nat) ≤ d.stride && b0 + nb ≤ 2 ^ 32) then .error (stopBare .arg)
  else
    match s.poolAt p (s.poolAddr b.slot) with
    | .error e => .error e
    | .ok (x, ids) => if 16 * page.stride ≤ (2 ^ x.psh : Nat) then .ok (s.consume ids) else .error (stopBare .arg)
/-- The extent of the entries of n blocks from block b0 of a block table. -/
def entryExtents (st : Stream) (b0 n : Nat) : List (Int × Int) := if n = 0 then [] else [extentOf (st.base + 16 * b0) (16 * n)]
/-- How many of n blocks from block b0 hold tokens: the entries that a gather reads (R203). -/
def liveBlocks (st : Stream) (b0 n : Nat) : Nat := Nat.min n ((st.brow + 15) / 16 - b0)
/-- The frequency stream of a gather and the address of its row (R199), where they can be told. -/
def freqRow (x : Tile) (st : Stream) : Option (Stream × Nat) :=
  if !st.re then none
  else (x.rowStream st.fts).toOption.bind fun f => if f.vw then none else (x.rowAddr f 0).toOption.map fun a => (f, a)
/-- The frequencies of a gather (R199), read at its acceptance. -/
def readFreqs (b : Block) (p : Party) (st : Stream) (s : State) : Except Stop (List Nat × State) :=
  if !st.re then .ok ([], s)
  else
    match b.tile.rowStream st.fts with
    | .error e => .error e
    | .ok f =>
      if st.epr % 2 ≠ 0 || f.fmt ≠ .z32 || f.epr < st.epr / 2 then .error (stopBare .arg)
      else
        match (Move.start s).row p b f 0 (st.epr / 2) with
        | .error e => .error e
        | .ok (l, m) => .ok (l, m.st)
/-- `cgath` (R201): addresses, alignment, then the limits (R270). -/
def cgathAsk (o : CcpyOp) (b : Block) (p : Party) (s : State) : Except Stop (Ask × State) :=
  let x := b.tile
  let k := (x.kreg o.a).toNat
  let nb := bits k 32 8
  let st := streamOf (x.sraw o.s)
  let d := streamOf (x.sraw o.d)
  let src := if st.gb then entryExtents st (bits k 0 32) (liveBlocks st (bits k 0 32) nb) else []
  let dst := match x.ringOf? d with | .ok _ => s.slotExtents b p.blk d.ring nb | .error _ => []
  match badFirst (src ++ dst), (freqRow x st).filter fun f => f.2 / 2 ^ 56 ≠ 0 with
  | some e, _ => .error e
  | none, some f => .error (xlatAt 3 f.2)
  | none, none =>
    if st.gb && st.base % 16 ≠ 0 then .error (stopAt .align st.base)
    else
      match (freqRow x st).filter fun f => f.2 % rowAlign f.1.fmt ≠ 0 with
      | some f => .error (stopAt .align f.2)
      | none =>
        match x.stream? o.s, x.rowStream o.d, x.ringOf? d with
        | .error e, _, _ => .error e
        | _, .error e, _ => .error e
        | _, _, .error e => .error e
        | .ok _, .ok _, .ok r =>
          if !st.gb || !d.wr || r.slot < 16 * d.stride + 16 then .error (stopBare .arg)
          else
            match (blockLimits s b p k st d st).bind (readFreqs b p st) with
            | .error e => .error e
            | .ok (fr, s1) =>
              .ok ({ kind := .gather (x.sraw o.s) (x.sraw o.d) (bits k 0 32) nb fr, src, dst, first := (firstOf src, firstOf dst),
                     ring := some (d.ring, nb), bar := none,
                     reads := ((freqRow x st).map fun f => s.readTouches p f.2 (elemBytes .z32 (st.epr / 2)) true).getD [] }, s1)
/-- `cscat` (R280): addresses, alignment, then the limits (R270). -/
def cscatAsk (o : CcpyOp) (b : Block) (p : Party) (s : State) : Except Stop (Ask × State) :=
  let x := b.tile
  let k := (x.kreg o.a).toNat
  let st := streamOf (x.sraw o.s)
  let d := streamOf (x.sraw o.d)
  let nb := bits k 32 8
  let rows := rowExtents (streamRows x st ((List.range nb).flatMap fun j =>
    (List.range (tokens d (bits k 0 32 + j))).map fun o => (st.rpos + 16 * j + o) % st.rows))
  let src := rows ++ (if d.gb then entryExtents d (bits k 0 32) nb else [])
  match badFirst src with
  | some e => .error e
  | none =>
    if d.gb && d.base % 16 ≠ 0 then .error (stopAt .align d.base)
    else
      match x.rowStream o.s, x.stream? o.d with
      | .error e, _ => .error e
      | _, .error e => .error e
      | .ok _, .ok _ =>
        if st.wr || !d.wr || !d.gb || d.re || (st.rg && stopOf (x.ring? st.ring) != none) then .error (stopBare .arg)
        else
          match blockLimits s b p k st d d with
          | .error e => .error e
          | .ok s =>
            .ok ({ kind := .scatter (x.sraw o.s) (x.sraw o.d) (bits k 0 32) nb, src, dst := [], first := (firstOf src, none), ring := none,
                   bar := none }, s)

/-! ### Issue -/

/-- The lanes of a copy instruction whose commands are accepted, in order of `$lane`, until the channel is shut to them (R269); the reads
of their acceptance may hit a watchpoint. -/
def acceptLanes (b : Block) (d : Reg) (ch : Nat) (scope : Scope) (ask : Party → Thread → State → Except Stop (Ask × State)) :
    State → List Touch → List (Nat × Thread) → State
  | s, ts, [] => s.watch b ts
  | s, ts, (tid, t) :: l =>
    if s.chanShut b.core ch (b.clusterOf tid) then
      acceptLanes b d ch scope ask (s.modThread s.cur.blk tid fun t => { t with status := .stalled (.channel ch) }) ts l
    else
      match ask (b.party s.cur.blk t.sys tid) t s with
      | .error _ => s
      | .ok (k, s1) =>
        let id := (s1.chan b.core ch).next
        acceptLanes b d ch scope ask ((s1.accept b ch s1.cur.blk false tid scope t.sys s1.cur.pc k).modThread s1.cur.blk tid fun t =>
          (t.set d.toNat id).advance) (ts ++ k.reads) l
/-- A copy instruction of threads (R269, R270): every lane is checked before any lane's command is accepted. -/
def threadCopy (g : Guard) (d : Reg) (ch : Nat) (scope : Scope) (ask : Party → Thread → State → Except Stop (Ask × State)) (s : State) :
    Outcome State Fault Refusal :=
  match s.block s.cur.blk with
  | none => .next s
  | some b =>
    if (s.active g).any fun tid => s.chanShut b.core ch (b.clusterOf tid) then .next (s.stallLanes (.channel ch))
    else
      guarded s g (s.laneErrors g fun tid t =>
        let p := b.party s.cur.blk t.sys tid
        match ask p t s with
        | .error e => .error e
        | .ok (k, _) => s.askCheck b p k) fun s =>
          passFalse' (acceptLanes b d ch scope ask s [] (s.actors g)) g
where
  /-- Lanes whose guard reads false go on. -/
  passFalse' (s : State) (g : Guard) : State := s.onLanes fun _ t => if t.guard g then t else t.advance
/-- A copy of a C slot (R269, R270): it waits while its channel is full, and the secondary context while the primary waits for it; the RPOS
of the streams it names advance at s + 1. -/
def slotCopy (w : Slot) (ch : Nat) (adv : Tile → List (SReg × Int)) (ask : Block → Party → State → Except Stop (Ask × State)) (s : State) :
    Outcome State Fault Refusal :=
  slotOp w.q (fun b s =>
    if s.chanFull b.core ch || (b.cx = some 1 && s.channelCtx b.core ch 0) then .ok (s.slotWait (.channel ch))
    else
      let p := b.engine s.cur.blk s.cur.slot
      match ask b p s with
      | .error e => .error e
      | .ok (k, s1) =>
        match s1.askCheck b p k with
        | .error e => .error e
        | .ok _ =>
          let s2 := (s1.accept b ch s.cur.blk true 0 s.cur.scope false s.cur.baddr k).watchTile b s.cur.slot s.cur.baddr k.reads
          .ok ((adv b.tile).foldl (fun (s : State) x => s.emit 1 (.advance x.1 x.2) 0#5) s2)) s

/-- `cpy` (R274). -/
def execCpy (o : CpyOp) (s : State) : Outcome State Fault Refusal :=
  threadCopy o.g o.d o.ch.toNat o.scope (fun _ t s => (cpyAsk o t).map fun k => (k, s)) s
/-- `cpn` (R275). -/
def execCpn (o : CpnOp) (s : State) : Outcome State Fault Refusal :=
  threadCopy o.g o.d o.ch.toNat o.scope (fun p t s =>
    match readNest s p (t.get64 o.a.toNat).toNat with
    | .error e => .error e
    | .ok (d, s1) => (nestAsk d 0 none).map fun k => ({ k with reads := s.readTouches p (t.get64 o.a.toNat).toNat nestBytes false }, s1)) s
/-- `ccpy` (R278). -/
def execCcpy (o : CcpyOp) (s : State) : Outcome State Fault Refusal :=
  slotCopy o.w o.ch.toNat (fun x =>
    let n : Int := bits (x.kreg o.a).toNat 0 16
    (o.s, n) :: if (streamOf (x.sraw o.d)).rg then [] else [(o.d, n)]) (ccpyAsk o) s
/-- `ccpn` with RB = 0 (R279). -/
def execCcpn (o : CcpnOp) (s : State) : Outcome State Fault Refusal := slotCopy o.w o.ch.toNat (fun _ => []) (ccpnAsk o.a) s
/-- `ccpn` with RB = 1 (R279). -/
def execCcpnRing (o : CcpnRingOp) (s : State) : Outcome State Fault Refusal :=
  slotCopy o.w o.ch.toNat (fun _ => []) (ccpnRingAsk o.a o.c (o.n.toNat + 1)) s
/-- `cgath` (R201). -/
def execCgath (o : CcpyOp) (s : State) : Outcome State Fault Refusal := slotCopy o.w o.ch.toNat (fun _ => []) (cgathAsk o) s
/-- `cscat` (R280). -/
def execCscat (o : CcpyOp) (s : State) : Outcome State Fault Refusal :=
  slotCopy o.w o.ch.toNat (fun x => [(o.s, (16 * bits (x.kreg o.a).toNat 32 8 : Nat))]) (cscatAsk o) s

/-! ### The end of a command -/

/-- The commands of a channel that have finished at its head complete in order (R268): CB advances, flags wait for an observation
(R102), and of a command without a fault the ring advance and the barrier credit apply (R272). None of an exited block that is stopped
completes (R390). -/
def Block.stoppedExited (b : Block) : Bool := b.life == .stopped && b.stoppedFrom == some .draining
/-- Finished commands of a channel complete, n at most. -/
def State.advanceCb (s : State) (core ch : Nat) (bytes : State → Cmd → Nat) : Nat → State
  | 0 => s
  | n + 1 =>
    match (s.chan core ch).cmds with
    | [] => s
    | m :: l =>
      if !m.finished || (s.block m.blk).any Block.stoppedExited then s
      else
        let s0 := match s.block m.blk with
          | none => s
          | some b => s.trace b.slot core
              { typ := 6, slot := 15, info := ch, unit := 0, addr := m.id.toNat + m.ctx.toNat * 2 ^ 32, info2 := 0 }
        let s1 := s0.modChan core ch fun c =>
          let c1 := { c with cb := m.id, cmds := l }
          if m.faulted || m.fl = 0#5 then c1
          else c1.modRec m.blk m.ctx fun r => { r with flags := r.flags ++ [(m.id, if m.ctx then m.seq else m.tid, m.baddr, m.fl)] }
        let s2 :=
          if m.faulted then s1
          else
            let s2 := s1.advanceRing m none
            match m.bar with
            | none => s2
            | some k => s2.creditLeaf core k.toNat (bytes s2 m)
        State.advanceCb s2 core ch bytes n
/-- Bytes that a complete command has written, for its barrier (R274, R278). -/
def State.cmdBytes (_s : State) (m : Cmd) : Nat :=
  match m.kind with
  | .nest _ _ len levels cv =>
    levels.foldl (fun n x => n * x.1) 1 * len * (match cv with | some c => elemBytes c.td 1 | none => 1)
  | .rows _ dst n =>
    let d := streamOf dst
    (List.range n).foldl (fun k i => k + elemBytes d.fmt (d.inside (if d.rg then i % d.rows else (d.rpos + i) % d.rows))) 0
  | .gather _ _ _ _ _ | .scatter _ _ _ _ => 0
/-- Finished commands of a channel complete. -/
def State.completeCmds (s : State) (core ch : Nat) : State := s.advanceCb core ch State.cmdBytes (s.chan core ch).cmds.length
/-- A command of a channel changed. -/
def State.modCmd (s : State) (core ch : Nat) (id : W32) (f : Cmd → Cmd) : State :=
  s.modChan core ch fun c => { c with cmds := c.cmds.map fun m => if m.id = id then f m else m }

/-- Bytes of a virtual range that a command would have written become undefined (R271); a byte it could not write keeps its value. -/
def State.scrambleAt (s : State) (p : Party) (va n : Nat) : State :=
  (List.range (n / 8 + 2)).foldl (fun (s : State) i =>
    let w := (va / 8 + i) * 8
    let a := Nat.max va w
    let e := Nat.min (va + n) (w + 8)
    if a < e then
      match s.place p a (e - a) .write with
      | .error _ => s
      | .ok pl =>
        match s.writeOk a pl (List.replicate (e - a) 0#8) false with
        | .error _ => s
        | .ok _ => s.scramble p.core pl.loc (e - a)
    else s) s
/-- The destination bytes that a command which ends early leaves undefined (R271, R204, R280). -/
def State.scrambleCmd (s : State) (b : Block) (m : Cmd) : State :=
  let p := m.party b
  match m.kind with
  | .nest sb db len levels cv =>
    let n := len * (match cv with | some c => elemBytes c.td 1 | none => 1)
    (nestRuns sb db levels).foldl (fun s x => s.scrambleAt p x.2 n) s
  | .rows _ dst n =>
    let d := streamOf dst
    (List.range n).foldl (fun s i =>
      match destRow b m d i with
      | .error _ => s
      | .ok (row, a) => s.scrambleAt p a (elemBytes d.fmt (d.inside row))) s
  | .gather _ _ _ nb _ =>
    let r := match m.ring with | some r => ringOf (b.tile.craw r.1) | none => ringOf 0#256
    (List.range nb).foldl (fun s j => if m.next ≤ j then s.scrambleAt p (r.slotAddr m.slot0 j) r.slot else s) s
  | .scatter _ dst b0 nb =>
    let d := streamOf dst
    (List.range nb).foldl (fun s j =>
      if j < m.next then s
      else
        match (Move.start s).entry p d (b0 + j) with
        | .error _ => s
        | .ok (x, _) =>
          (List.range (tokens d (b0 + j))).foldl (fun s o =>
            let pa := pageRow (btEntry x) d o
            let n := elemBytes d.fmt (Nat.min d.epr d.bcol)
            if s.rowExists pa n && !s.anyTag pa n then s.scramble p.core pa n else s) s) s

/-- A command ends early (R271, R277): its destination is undefined, its pin is released, its ring advances and fails, and it counts
as finished. -/
def State.endCmd (s : State) (core ch : Nat) (m : Cmd) : State :=
  match s.block m.blk with
  | none => s.modCmd core ch m.id fun m => { m with finished := true, faulted := true }
  | some b =>
    if !m.pending then s
    else
      let s1 := ((s.scrambleCmd b m).scrambleBoth b.core m.rd m.wr).abandon m.blk (· == m.agent)
      let s2 := m.pins.foldl (fun s x => s.unpin b.core m.blk m.agent x.2) s1
      let s3 := s2.modCmd core ch m.id fun m => { m with finished := true, faulted := true, pins := [], parked := none, fl := 0#5 }
      s3.advanceRing m m.failAt
/-- The fields of a command fault's record that its observer keeps (R271, R367, R368). -/
def cmdFault (ch : Nat) (m : Cmd) (c : Code) (cause va pa : Nat) : BitVec 512 :=
  let blk := match m.kind with
    | .gather _ _ b0 _ _ => b0 + m.next
    | .scatter _ _ b0 _ => b0 + m.next
    | .nest _ _ _ _ _ | .rows _ _ _ => 0
  ({ slot := 0, code := c.num, num := cause, prv := m.sys, va, pa, aux := blk, detail := ch + 8 * m.ctx.toNat + m.id.toNat * 2 ^ 32 } : Rec).bits
/-- A command fault (R271): recorded in FLT unless that holds a lower ID. -/
def State.faultCmd (s : State) (core ch : Nat) (m : Cmd) (r : BitVec 512) : State :=
  ((s.modChan core ch fun c => c.modRec m.blk m.ctx fun x =>
    { x with flt := match x.flt with
        | none => some (m.id, r)
        | some (i, r0) => if idLe i m.id then some (i, r0) else some (m.id, r) }).endCmd core ch m).completeCmds core ch
/-- A running command parks (R330): it pauses, and the record names its channel, issuer and transfer ID. -/
def State.parkCmd (s : State) (core ch : Nat) (m : Cmd) (ptea va : Nat) (posts : Bool) : State :=
  match s.block m.blk with
  | none => s
  | some b =>
    let r : Rec := { code := Code.xlat.num, kind := 4, num := 1, prv := m.sys, va, pa := ptea, asid := (s.ctx b.slot).asid.toNat, own := b.owner.toNat, core,
                     detail := ch + 8 * m.ctx.toNat + m.id.toNat * 2 ^ 32 }
    let x := s.parkOn ptea posts m.lastPark r.bits
    x.1.modCmd core ch m.id fun m =>
      match x.2 with
      | .park (l :: _) _ => { m with parked := some l, lastPark := some ptea }
      | .park [] _ | .parkNoMonitor _ | .channel _ | .fence | .tlbi | .pub | .remote _ => m

/-- A command of a channel by its ID. -/
def State.cmd (s : State) (core ch : Nat) (id : W32) : Option Cmd := (s.chan core ch).cmds.find? fun m => m.id == id
/-- The end of a gather or scatter whose blocks are processed (R194, R272): it waits until its pins are released at their homes, and meets
TIMEOUT where one was not in time (R366). -/
def State.blocksDone (s : State) (m : Cmd) : Except Stop (Option Move) :=
  if s.unacked m.blk (· == m.agent) then .ok none
  else (s.lateWrite m.blk m.agent).map fun _ => some { Move.resume s m with fl := m.fl }
/-- The whole movement of a command (R274-R278); of a gather or scatter, once every block is processed. -/
def State.moveCmd (s : State) (b : Block) (m : Cmd) : Except Stop (Option Move) :=
  let p := m.party b
  let m0 := Move.resume s m
  match m.kind with
  | .nest sb db len levels cv => (foldStop (fun (mv : Move) (x : Nat × Nat) => mv.run p cv x.1 x.2 len) m0 (nestRuns sb db levels)).map some
  | .rows src dst n => (foldStop (fun (mv : Move) i => mv.copyRow p b m (streamOf src) (streamOf dst) i) m0 (List.range n)).map some
  | .gather _ _ _ nb _ | .scatter _ _ _ nb => if m.next < nb then .ok none else s.blocksDone m
/-- The next step of a gather's or scatter's block (R203, R280); none for other commands, and when every block is processed. -/
def State.nextBlockStep (s : State) (b : Block) (m : Cmd) : Option (Except Stop BlockStep) :=
  let p := m.party b
  match m.kind with
  | .gather src dst b0 nb fr =>
    if m.next < nb then some (gatherBlock p b m (streamOf src) (streamOf dst) fr (b0 + m.next) m.next s) else none
  | .scatter src dst b0 nb => if m.next < nb then some (scatterBlock p b m (streamOf src) (streamOf dst) (b0 + m.next) m.next s) else none
  | .nest _ _ _ _ _ | .rows _ _ _ => none
/-- What a stop that is no fault does to a running command: it parks, or its request leaves for another device (R366). -/
def State.holdCmd (s : State) (core ch : Nat) (m : Cmd) (e : Stop) : State :=
  match e with
  | .fault _ _ _ _ _ | .busy _ => s
  | .park ptea va posts => s.parkCmd core ch m ptea va posts
  | .away a => s.sendAway m.blk m.agent a

/-- A movement is made: its command is changed by f, or, when a watchpoint of its context is hit, pauses with what it has done (R389,
R390). -/
def State.moved (s : State) (core ch : Nat) (m : Cmd) (b : Block) (mv : Move) (f : Cmd → Cmd) : State :=
  match mv.hit with
  | none => s.modCmd core ch m.id f
  | some (i, a, x) =>
    (s.modCmd core ch m.id fun m => { m with past := mv.seen, rd := mv.rd, wr := mv.wr, paused := true }).stopHit b.slot
      { reason := 3, index := i, copy := true, exited := b.life == .draining || b.stoppedExited, wr := x.wr,
        asid := (s.ctx b.slot).asid.toNat, pc := ((b.threads.head?).map (·.pc.toNat)).getD 0, va := a, ch, xid := m.id.toNat, core,
        own := b.owner.toNat }

/-- A running command of a channel, with its block: it is not finished, not paused and not parked, and its context is not being killed
(R344, R380). -/
def State.running (s : State) (core ch : Nat) (id : W32) : Option (Cmd × Block) :=
  (s.cmd core ch id).bind fun m =>
    if m.finished || m.paused || m.parked.isSome then none
    else (s.block m.blk).bind fun b => if b.killed || (s.ctx b.slot).killing then none else some (m, b)

/-- GATHER_BLOCK (R203, R280): one step of the block that a gather or scatter has come to. -/
def execGatherBlock (core ch : Nat) (id : W32) (s : State) : Outcome State Fault Refusal :=
  match s.running core ch id with
  | none => .next s
  | some (m, b) =>
    match s.nextBlockStep b m with
    | none => .next s
    | some (.error e) => .next (s.holdCmd core ch m e)
    | some (.ok (.wait s1)) => .next s1
    | some (.ok (.pinned x d mv)) =>
      .next ((mv.st.moved core ch m b mv fun m => m).modCmd core ch m.id fun m => { m with pins := [(x, d)], past := 0, lastPark := none })
    | some (.ok (.done mv)) =>
      .next (mv.st.moved core ch m b mv fun m =>
        { m with next := m.next + 1, past := 0, pins := [], rd := mv.rd, wr := mv.wr, lastPark := none, fl := m.fl ||| mv.fl })
/-- COPY_COMMAND_COMPLETE (R272): the command's movement is done, and commands complete in order of ID; a finished one completes once
those before it have. -/
def execCopyCommandComplete (core ch : Nat) (id : W32) (s : State) : Outcome State Fault Refusal :=
  match s.running core ch id with
  | none => .next (s.completeCmds core ch)
  | some (m, b) =>
    match s.moveCmd b m with
    | .error e => .next (s.holdCmd core ch m e)
    | .ok none => .next s
    | .ok (some mv) =>
      .next (((if mv.hit.isSome then mv.st else mv.finish (m.party b)).moved core ch m b mv fun m => { m with finished := true, fl := mv.fl }).completeCmds
        core ch)
/-- COMMAND_FAULT (R271): the running command meets a fault. -/
def execCommandFault (core ch : Nat) (id : W32) (s : State) : Outcome State Fault Refusal :=
  match s.running core ch id with
  | none => .next s
  | some (m, b) =>
    match s.nextBlockStep b m, s.moveCmd b m with
    | some (.error (.fault c n va pa d)), _ => .next (((s.found (.fault c n va pa d)).dropLate m.blk (· == m.agent)).faultCmd core ch m (cmdFault ch m c n va pa))
    | none, .error (.fault c n va pa d) => .next (((s.found (.fault c n va pa d)).dropLate m.blk (· == m.agent)).faultCmd core ch m (cmdFault ch m c n va pa))
    | _, _ => .next s

/-! ### Waits of threads -/

/-- A channel's FLT of an issuer, once its ID is complete (R271). -/
def Chan.fault? (c : Chan) (blk : Nat) (ctx : Bool) : Option (W32 × BitVec 512) :=
  (c.rec_ blk ctx).flt.filter fun x => c.complete x.1
/-- FLT of an issuer cleared. -/
def State.clearFlt (s : State) (core ch blk : Nat) (ctx : Bool) : State :=
  s.modChan core ch fun c => c.modRec blk ctx fun r => { r with flt := none }
/-- A command's fault raised against the issuing instruction (R271): its fields join those of the instruction. -/
def State.raiseFlt (s : State) (g : Guard) (lanes : List Nat) (ch blk core : Nat) (r : BitVec 512) : State :=
  let s1 := s.clearFlt core ch blk false
  s1.enterLanes blk (s1.active g) ((s1.threadRec lanes).bits ||| recPrv r false) s1.cur.pc

/-- Flags of a thread's completed commands up to an ID merge (R102). -/
def State.mergeFlags (s : State) (core ch blk tid : Nat) (n : W32) : State :=
  let r := (s.chan core ch).rec_ blk false
  let mine (x : W32 × Nat × Addr × BitVec 5) : Bool := x.2.1 == tid && idLe x.1 n
  (s.modChan core ch fun c => c.modRec blk false fun r => { r with flags := r.flags.filter fun x => !mine x }).modThread blk tid fun t =>
    t.raise ((r.flags.filter mine).foldl (fun f x => f ||| x.2.2.2) 0#5)

/-- `cwait` (R277): the lanes of the instruction go on together, once the ID of every lane is complete. -/
def execCwait (o : CwaitOp) (s : State) : Outcome State Fault Refusal :=
  match s.block s.cur.blk with
  | none => .next s
  | some b =>
    let ch := o.ch.toNat
    let c := s.chan b.core ch
    guarded s o.g (s.laneErrors o.g fun _ t => if idLe c.next (t.get o.a.toNat) then .error (stopBare .arg) else .ok ()) fun s =>
      let l := s.actors o.g
      if !(l.all fun x => c.complete (x.2.get o.a.toNat)) then
        s.onLanes fun _ t => if t.guard o.g then { t with status := .waiting (.cwait ch (t.get o.a.toNat)) } else t.advance
      else
        let go : State := (l.foldl (fun (s : State) x => s.mergeFlags b.core ch s.cur.blk x.1 (x.2.get o.a.toNat))
          (s.acquires b.core o.scope l.length)).onLanes fun _ t => t.advance
        match (c.rec_ s.cur.blk false).flt with
        | none => go
        | some (i, r) =>
          match l.filter fun x => idLe i (x.2.get o.a.toNat) with
          | [] => go
          | x :: xs => s.raiseFlt o.g (x.1 :: xs.map Prod.fst) ch s.cur.blk b.core r
/-- A wait at `cwait`. -/
def Wait.isCwait : Wait → Bool
  | .cwait _ _ => true
  | .bar | .rejoin | .gate | .tileBar _ | .barw _ _ | .mem _ _ _ | .vwait _ _ | .queue _ _ _ | .idle _ | .tba _ | .basin _ _ _ => false
/-- The transfer that a `cwait` on a core waits for is complete (R277). -/
def State.cwaitOver (s : State) (core : Nat) (w : Wait) : Bool :=
  match w with
  | .cwait ch n => (s.chan core ch).complete n
  | .bar | .rejoin | .gate | .tileBar _ | .barw _ _ | .mem _ _ _ | .vwait _ _ | .queue _ _ _ | .idle _ | .tba _ | .basin _ _ _ => false
/-- CWAIT_WAKE (R277): the IDs of all the lanes of a barge at one `cwait` are complete, and they look at them again. -/
def execCwaitWake (blk tid : Nat) (s : State) : Outcome State Fault Refusal :=
  match s.block blk, s.thread blk tid with
  | some b, some t0 =>
    if t0.wait?.any Wait.isCwait && b.threads.all fun t => !t0.beside t Wait.isCwait || t.wait?.any (s.cwaitOver b.core) then
      .next (s.modBlock blk fun b => b.wakeBeside t0 Wait.isCwait)
    else .next s
  | _, _ => .next s
/-- `cstat` (R277). -/
def execCstat (o : CstatOp) (s : State) : Outcome State Fault Refusal :=
  match s.block s.cur.blk with
  | none => .next s
  | some b =>
    let ch := o.ch.toNat
    let c := s.chan b.core ch
    match s.active o.g with
    | [] => .next (s.lanes o.g fun _ t => t)
    | l =>
      match c.fault? s.cur.blk false with
      | some (_, r) => .next (s.raiseFlt o.g l ch s.cur.blk b.core r)
      | none =>
        let n := (c.cmds.filter fun m => m.blk == s.cur.blk && !m.ctx).length
        let w := match (c.rec_ s.cur.blk false).flt with
          | none => BitVec.ofNat 32 (n % 256)
          | some (_, r) => BitVec.ofNat 32 (n % 256 + (r.setWidth 8).toNat * 2 ^ 16 + 2 ^ 31)
        .next ((if o.acq then s.acquires b.core o.scope l.length else s).lanes o.g fun _ t => (t.set o.d.toNat c.cb).set (o.d.toNat + 1) w)

/-- Commands of a block on a channel ended (R277, R380). -/
def State.abortCmds (s : State) (core ch blk : Nat) (ctx : Bool) : State :=
  let s1 := ((s.chan core ch).cmds.filter fun m => m.blk == blk && (ctx || !m.ctx)).foldl (fun (s : State) m => s.endCmd core ch m) s
  let s2 := s1.clearFlt core ch blk false
  (if ctx then s2.clearFlt core ch blk true else s2).completeCmds core ch
/-- `cabort` (R277). -/
def execCabort (o : CabortOp) (s : State) : Outcome State Fault Refusal :=
  match s.block s.cur.blk with
  | none => .next s
  | some b =>
    .next ((if s.active o.g = [] then s else s.abortCmds b.core o.ch.toNat s.cur.blk o.k).lanes o.g fun _ t => t)

/-! ### Waits of contexts -/

/-- The channels whose number is in a mask. -/
def chansOf (mask : BitVec 8) : List Nat := (List.range 8).filter fun i => mask.getLsbD i
/-- Flags of a completed command merge into FFLAGS4 (R102, R104), slot 6, by the command's number, its bundle and its flags: where an event
was captured at this step, that of the command issued first stays. -/
def Tile.raiseCopy (x : Tile) (n : Nat) (baddr : Addr) (fl : Flags) : Tile :=
  let fev (y : Tile) : Bool := (Tbl.get 0#64 y.fflags 4).getLsbD 6
  if fl ≠ 0#5 && fev x && (x.capt.any fun c => c.1 == x.step && n < c.2) then
    let y := ({ x with fflags := Tbl.put 0#64 x.fflags 4 (Tbl.get 0#64 x.fflags 4 &&& ~~~(64#64)) } : Tile).raise 6 baddr fl
    { y with capt := some (x.step, n) }
  else
    let y := x.raise 6 baddr fl
    if fev y && !fev x then { y with capt := some (x.step, n) } else y
/-- Entries in order of the command's number. -/
def insertBySeq (x : W32 × Nat × Addr × BitVec 5) : List (W32 × Nat × Addr × BitVec 5) → List (W32 × Nat × Addr × BitVec 5)
  | [] => [x]
  | y :: l => if x.2.1 < y.2.1 then x :: y :: l else y :: insertBySeq x l
/-- A context observes its completed commands on channels (R271, R102): a fault is noted for the issuing slot; else the copies' flags
merge into FFLAGS4, in order of issue, and it acquires. -/
def State.observeCopies (s : State) (blk : Nat) (chs : List Nat) : State :=
  match s.block blk with
  | none => s
  | some b =>
    match chs.findSome? fun ch => ((s.chan b.core ch).fault? blk true).map fun x => (ch, x.2) with
    | some (ch, r) =>
      let s1 := s.clearFlt b.core ch blk true
      { s1 with cur := { s1.cur with tileFault := some (s1.cur.slot, (s1.slotRec b).bits ||| recPrv r false) } }
    | none =>
      let fl := (chs.flatMap fun ch => ((s.chan b.core ch).rec_ blk true).flags).foldl (fun l x => insertBySeq x l) []
      let s1 := chs.foldl (fun (s : State) ch => s.modChan b.core ch fun c => c.modRec blk true fun r => { r with flags := [] }) s
      (s1.modBlock blk fun b => { b with tile := fl.foldl (fun x y => x.raiseCopy y.2.1 y.2.2.1 y.2.2.2) b.tile }).acquire b.core s.cur.scope
/-- Incomplete commands of a block's context on a channel. -/
def State.ctxPending (s : State) (core ch blk : Nat) : Nat := ((s.chan core ch).cmds.filter fun m => m.blk == blk && m.ctx).length
/-- `ccwt` (R281). -/
def execCcwt (o : CcwtOp) (s : State) : Outcome State Fault Refusal :=
  slotOp o.w.q (fun b s =>
    if o.n.toNat < s.ctxPending b.core o.ch.toNat s.cur.blk then .ok (s.slotWait .copy) else .ok (s.observeCopies s.cur.blk [o.ch.toNat])) s
/-- `fwait` (R281): for the commands that the context had placed on the channels before the bundle. -/
def execFwait (o : FnumOp) (s : State) : Outcome State Fault Refusal :=
  slotOp o.q (fun b s =>
    let chs := chansOf o.n
    if chs.any fun ch => (s.chan b.core ch).cmds.any fun m => m.blk == s.cur.blk && m.ctx && m.step != b.tile.step then .ok (s.slotWait .copy) else .ok (s.observeCopies s.cur.blk chs)) s

/-- A freed entry of a channel is granted to a context that waits for it (R269). -/
def State.grantCtx (s : State) (core ch cx : Nat) : State :=
  { s with blocks := s.blocks.map fun e => (e.1, e.2.map fun b =>
      if b.core = core && b.cx = some cx && b.tile.wait = some (.channel ch) then { b with tile := { b.tile with wait := some (.granted ch) } } else b) }
/-- COMMAND_ACCEPT_AFTER_BACKPRESSURE (R269, R291): with room on the channel, the first issuer that waits comes to issue again: the primary
context, the secondary context, then the lane clusters. An entry granted to a context is no other issuer's until its bundle has issued. -/
def execCommandAcceptAfterBackpressure (core ch : Nat) (s : State) : Outcome State Fault Refusal :=
  if s.chanFull core ch then .next s
  else if s.channelCtx core ch 0 then .next (s.grantCtx core ch 0)
  else if s.channelCtx core ch 1 then .next (s.grantCtx core ch 1)
  else
    match (List.range 8).findSome? fun clu => s.channelBarge core ch clu with
    | none => .next s
    | some (blk, key) =>
      .next (s.modBlock blk fun b => { b with threads := b.threads.map fun t =>
        if t.barge = key && t.status = .stalled (.channel ch) then { t with status := .active } else t })

end Sys2Proof.Machine
end

