-- ==== Sys2Proof/Machine/TileX.lean ====
section
/-! DEFINITION. The X slots: the matrix array (06_tile_set.md R163, R172-R177; 04_number_formats.md R95, R96). -/

namespace Sys2Proof.Machine

open Host (Outcome)

/-! ### Modes -/

/-- A type code's type. -/
def tyAt (c : BitVec 4) : Ty := (Ty.ofCode c).getD .s8
/-- The cell depth D of a pair of formats (R172); none for a pair the array does not have. -/
def cellDepth (af wf : Ty) : Option Nat :=
  if (af == .bf16 && wf == .bf16) || (af == .f16 && wf == .f16) then some 8
  else if af.isF8 && wf.isF8 then some 16
  else if af == .s8 && (wf == .s8 || wf == .q8) then some 16
  else if af == .s8 && wf == .q4 then some 32
  else none
/-- D of a context's mode. -/
def Tile.depth (x : Tile) : Nat := (cellDepth (tyAt x.af) (tyAt x.wf)).getD 8
/-- Elements per group for a code GS (R159). -/
def groupSize (gs : Nat) : Nat := 16 * 2 ^ gs

/-! ### Weight columns

A column of a bank is 640 bytes (R377): 512 of elements in WF coding; from 512, F16 scales of each 32 depths or one F32 column
scale; from 576, their zero points; at 608, the number of elements that a push read inside its stream (log 29). -/

/-- A column from its parts; bits [7:4] of a q4 zero point are kept as zero (R95). -/
def mkCol (t : Ty) (els scales zeros : List Nat) (wide : Bool) : BitVec 5120 :=
  let el := els.zipIdx.foldl (fun n x => n + x.1 * 2 ^ (t.bits * x.2)) 0
  let sc := scales.zipIdx.foldl (fun n x => n + x.1 * 2 ^ ((if wide then 32 else 16) * x.2)) 0
  let z := zeros.zipIdx.foldl (fun n x => n + x.1 % (if t = .q4 then 16 else 256) * 2 ^ (8 * x.2)) 0
  BitVec.ofNat 5120 (el + sc * 2 ^ 4096 + z * 2 ^ 4608 + els.length * 2 ^ 4864)
/-- A column as a block frame holds it (R377): its elements, scales and zero points. -/
def colImage (c : BitVec 5120) : BitVec 5120 := c &&& (BitVec.allOnes 5120 >>> 256)
/-- A column with the bytes of an image, which a handler may have edited (R379): bits [7:4] of a q4 zero point are ignored (R95), and
the elements that a push has written reach to the last that the edit changed (log 29). -/
def colRestore (t : Ty) (old : BitVec 5120) (img : Nat) : BitVec 5120 :=
  let v := colImage (BitVec.ofNat 5120 img)
  let z := (List.range 32).foldl (fun m g => m ||| 0xF0#5120 <<< (4608 + 8 * g)) 0#5120
  let new := if t = .q4 then v &&& ~~~z else v
  let diff := (new ^^^ old).toNat % 2 ^ 4096
  let len := Nat.max (old.toNat / 2 ^ 4864) (if diff = 0 then 0 else Nat.log2 diff / t.bits + 1)
  new ||| BitVec.ofNat 5120 (len * 2 ^ 4864)
/-- Elements of a column that were inside its stream. -/
def colLen (c : BitVec 5120) : Nat := (c.extractLsb' 4864 16).toNat
/-- The pattern of element k of a column. -/
def colElem (t : Ty) (c : BitVec 5120) (k : Nat) : Nat := (c.extractLsb' (t.bits * k) t.bits).toNat
/-- The scale of the 32 depths that hold depth k: F16, or F32 for s8 (R163). -/
def colScale (t : Ty) (c : BitVec 5120) (k : Nat) : FVal :=
  if t = .s8 then fmtF32.decode (c.extractLsb' 4096 32).toNat else fmtF16.decode (c.extractLsb' (4096 + 16 * (k / 32)) 16).toNat
/-- The zero point of the 32 depths that hold depth k (R95). -/
def colZero (t : Ty) (c : BitVec 5120) (k : Nat) : Int :=
  if t = .s8 then 0 else ((c.extractLsb' (4608 + 8 * (k / 32)) 8).toNat % 2 ^ t.bits : Nat)

/-! ### Beats -/

/-- The product of an activation and a weight of float formats. -/
def floatTerm (af wf : Ty) (act : List Nat) (c : BitVec 5120) (k : Nat) : Option FVal :=
  let a := if k < act.length then (fmtOf af).decode (act.getD k 0) else .fin false 0
  let w := if k < colLen c then (fmtOf wf).decode (colElem wf c k) else .fin false 0
  mulVal a w
/-- An integer as a value. -/
def intVal (i : Int) : FVal := .fin (decide (i < 0)) (i.natAbs : Rat)
/-- The term of a cell whose formats are integer (R96): the integer dot of depths lo to lo + n - 1 times the row scale and the
group's scale. A side with no element of the cell inside its stream has the value +0 and no scale. -/
def intTerm (wf : Ty) (act : List Nat) (sa : FVal) (c : BitVec 5120) (lo n : Nat) : Option FVal :=
  let dot := (List.range n).foldl (fun (d : Int) i =>
    let k := lo + i
    if k < act.length && k < colLen c then
      d + (BitVec.ofNat 8 (act.getD k 0)).toInt *
        ((if wf = .s8 then (BitVec.ofNat 8 (colElem wf c k)).toInt else (colElem wf c k : Int)) - colZero wf c k)
    else d) 0
  let one : FVal := .fin false 1
  let s1 := if lo < act.length then sa else one
  let s2 := if lo < colLen c then colScale wf c lo else one
  (mulVal (intVal dot) s1).bind fun x => mulVal x s2
/-- CellSum of R174. -/
def cellSum (af wf : Ty) (d dc : Nat) (act : List Nat) (sa : FVal) (c : BitVec 5120) (i : Nat) : FVal × Flags :=
  let n := Nat.min d (dc - d * i)
  if n = 0 then (.fin false 0, 0#5)
  else if af = .s8 then sumZero fmtF32 [intTerm wf act sa c (d * i) n]
  else sumZero fmtF32 ((List.range n).map fun j => floatTerm af wf act c (d * i + j))
/-- Column j of a beat (R174): the cells summed in order with AddF32. -/
def beatCol (af wf : Ty) (d dc : Nat) (act : List Nat) (sa : FVal) (c : BitVec 5120) : W32 × Flags :=
  let p := (List.range 31).foldl (fun (p : FVal × Flags) i =>
    let q := cellSum af wf d dc act sa c (i + 1)
    let r := sumZero fmtF32 [some p.1, some q.1]
    (r.1, p.2 ||| q.2 ||| r.2)) (cellSum af wf d dc act sa c 0)
  (BitVec.ofNat 32 (fmtF32.encode p.1), p.2)
/-- The outputs of a beat (R174): the columns that CM selects, unless RM leaves the row out. -/
def Tile.beatOut (x : Tile) (act : List Nat) (sa : FVal) (r : Nat) : List (Nat × W32) × Flags :=
  if !x.rm.getLsbD r then ([], 0#5)
  else
    let bank := if x.bankSel then x.bank1 else x.bank0
    let l := ((List.range 32).filter fun j => x.cm.getLsbD j).map fun j =>
      (j, beatCol (tyAt x.af) (tyAt x.wf) x.depth x.dc.toNat act sa (Tbl.get 0#5120 bank j))
    (l.map fun y => (y.1, y.2.1), l.foldl (fun f y => f ||| y.2.2) 0#5)

/-- A scale stream that a use may name (R163, R200). -/
def Tile.scaleStream (x : Tile) (st : Stream) (fmt : Ty) : Except Stop Stream :=
  match x.rowStream st.scs with
  | .error e => .error e
  | .ok sc => if sc.fmt = fmt then .ok sc else .error (stopBare .arg)
/-- The row scale s_a of an s8 activation row (R163); 1 for other formats. -/
def State.actScale (s : State) (b : Block) (blk : Nat) (st : Stream) (i : Nat) : Except Stop (FVal × State) :=
  if st.fmt ≠ .s8 then .ok (.fin false 1, s)
  else
    match b.tile.scaleStream st .f32 with
    | .error e => .error e
    | .ok sc => (s.readElem b blk sc i 0).map fun x => (fmtF32.decode x.1, x.2)

/-- The accumulator row of an operation (R176): the field, or RPOS mod 32 with AR = 1. -/
def rowOf (ar : Bool) (row : BitVec 5) (st : Stream) : Nat := if ar then st.rpos % 32 else row.toNat
/-- A beat (R174, R176): its row is read, the stream advances at s + 1, and the outputs land at s + 36. -/
def beat (add : Bool) (o : BeatOp) (s : State) : Outcome State Fault Refusal :=
  slotOp o.w.q (fun b s =>
    let x := b.tile
    match x.rowStream o.s with
    | .error e => .error e
    | .ok st =>
      let k := 32 * x.depth
      if st.fmt ≠ tyAt x.af || st.wr || k < st.epr then .error (stopBare .arg)
      else
        match s.readRow b s.cur.blk st st.rpos k with
        | .error e => .error e
        | .ok (act, s1) =>
          match s1.actScale b s.cur.blk st st.rpos with
          | .error e => .error e
          | .ok (sa, s2) =>
            let r := rowOf o.ar o.row st
            let y := x.beatOut act sa r
            .ok ((s2.emit 36 (.beat add o.t.toNat r y.1) y.2).emit 1 (.advance o.s 1) 0#5)) s
/-- `xshift` (R176). -/
def execXshift (o : BeatOp) (s : State) : Outcome State Fault Refusal := beat false o s
/-- `xacc` (R176). -/
def execXacc (o : BeatOp) (s : State) : Outcome State Fault Refusal := beat true o s

/-! ### Weights -/

/-- The scales and zero points of a weight column (R163): of each 32 depths for q8 and q4, one for s8. A zero point lies at an address of
the scale stream's row, which a stream on a view does not have: the manual says nothing of one, and it raises ARG (log 66). -/
def State.weightScales (s : State) (b : Block) (blk : Nat) (st : Stream) (i m : Nat) : Except Stop (List Nat × List Nat × State) :=
  let x := b.tile
  if st.fmt = .s8 then
    match x.scaleStream st .f32 with
    | .error e => .error e
    | .ok sc => (s.readElem b blk sc 0 i).map fun y => ([y.1], [], y.2)
  else if st.fmt = .q8 || st.fmt = .q4 then
    match x.scaleStream st .f16 with
    | .error e => .error e
    | .ok sc =>
      if sc.vw then .error (stopBare .arg)
      else
        (List.range ((m + 31) / 32)).foldl (fun acc c =>
          match acc with
          | .error e => .error e
          | .ok (ss, zs, s1) =>
            let g := 32 * c / groupSize st.gs
            (match s1.readElem b blk sc g i with
             | .error e => .error e
             | .ok (v, s2) =>
               match x.rowAddr sc g with
               | .error e => .error e
               | .ok a =>
                 match s2.rowRead (b.engine blk s.cur.slot) ((((a : Int) + st.zps + i) % (2 ^ 64 : Nat)).toNat) 1 1 with
                 | .error e => .error e
                 | .ok (l, s3) => .ok (ss ++ [v], zs ++ [leNat l], s3))) (.ok ([], [], s))
  else .ok ([], [], s)
/-- `xpush` (R176): the next row becomes a column of the shadow bank at s + 3. -/
def execXpush (o : XpushOp) (s : State) : Outcome State Fault Refusal :=
  slotOp o.w.q (fun b s =>
    let x := b.tile
    match x.rowStream o.s with
    | .error e => .error e
    | .ok st =>
      let k := 32 * x.depth
      if st.fmt ≠ tyAt x.wf || st.wr || k < st.epr then .error (stopBare .arg)
      else
        match s.readRow b s.cur.blk st st.rpos k with
        | .error e => .error e
        | .ok (els, s1) =>
          match s1.weightScales b s.cur.blk st st.rpos els.length with
          | .error e => .error e
          | .ok (ss, zs, s2) =>
            let j := if o.e then o.col.toNat else x.pi.toNat
            let s3 := (s2.emit 3 (.push (!x.bankSel) j (mkCol st.fmt els ss zs (st.fmt == .s8))) 0#5).emit 1 (.advance o.s 1) 0#5
            .ok (if o.e then s3 else s3.modBlock s.cur.blk fun b => { b with tile := { b.tile with pi := b.tile.pi + 1#5 } })) s
/-- `xswap` (R176). -/
def execXswap (w : Slot) (s : State) : Outcome State Fault Refusal := slotOp w.q (fun _ s => .ok (s.emit 1 .swap 0#5)) s
/-- `xmask` (R176). -/
def execXmask (o : XmaskOp) (s : State) : Outcome State Fault Refusal :=
  slotOp o.w.q (fun b s =>
    let k := b.tile.kreg o.a
    .ok (s.emit 1 (.mask (k.extractLsb' 32 32) (k.setWidth 32) o.dc) 0#5)) s
/-- `xmode` (R172, R176): ARG for a pair of formats the array does not have. -/
def execXmode (o : XmodeOp) (s : State) : Outcome State Fault Refusal :=
  slotOp o.w.q (fun _ s =>
    match (Ty.ofCode o.af), (Ty.ofCode o.wf) with
    | some a, some w => if (cellDepth a w).isSome then .ok (s.emit 1 (.mode o.af o.wf) 0#5) else .error (stopBare .arg)
    | _, _ => .error (stopBare .arg)) s

/-! ### Drains -/

/-- An F32 pattern converted for a drain (R177): f32 copies the bits. -/
def drainElem (t : Ty) (ovf : Ovf) (v : W32) : Nat × Flags :=
  if t = .f32 then (v.toNat, 0#5)
  else
    let r := convFloat (fmtOf t) .rne ovf false (fmtF32.decode v.toNat)
    ((fmtOf t).encode r.1, r.2)
/-- `xdrain` (R177): the selected elements inside D, checked at issue and written at s + 6; Z clears the row at s + 1. -/
def execXdrain (o : DrainOp) (s : State) : Outcome State Fault Refusal :=
  slotOp o.w.q (fun b s =>
    let x := b.tile
    match x.rowStream o.s with
    | .error e => .error e
    | .ok st =>
      if !st.fmt.isFloat || !st.wr then .error (stopBare .arg)
      else
        let r := rowOf o.ar o.row st
        let t := o.t.toNat
        let cols := (List.range 32).filter fun j => x.rm.getLsbD r && x.cm.getLsbD j && j < st.inside st.rpos
        let out := cols.map fun j => (j, drainElem st.fmt st.ovf (x.keeperWord s.free t (accIdx t r j)))
        let fl := out.foldl (fun f y => f ||| y.2.2) 0#5
        match ({ s with free := s.free + 262144 } : State).writeRow b s.cur.blk st st.rpos (out.map fun y => (y.1, y.2.1)) with
        | .error e => .error e
        | .ok (eff, s1) =>
          let s2 := (s1.emit 6 eff fl).emit 1 (.advance o.s 1) 0#5
          .ok (if o.z then s2.emit 1 (.beat false t r ((List.range 32).map fun j => (j, 0#32))) 0#5 else s2)) s

end Sys2Proof.Machine
end

