-- ==== Sys2Proof/Machine/TileY.lean ====
section
/-! DEFINITION. The Y slots: the tile vector unit, softmax states and the keeper's side of tile barriers (06_tile_set.md
R178-R183). -/

namespace Sys2Proof.Machine

open Host (Outcome)

/-! ### Operands -/

/-- What an operand code names (R179). -/
inductive YOpnd where
  | tile (t : Nat)
  | view (n : Nat) (v : View)
  deriving DecidableEq, Repr

/-- The operand of a code: 64 and up are views, ARG when unbound (R178). -/
def Tile.opnd (x : Tile) (c : BitVec 7) : Except Stop YOpnd :=
  if c.toNat < 64 then .ok (.tile c.toNat) else (x.view? (c.toNat - 64)).map (.view (c.toNat - 64))
/-- The operand holds 32-bit elements. -/
def YOpnd.wide : YOpnd → Bool
  | .tile _ => true
  | .view _ v => v.wide
/-- The element type of an operand (R179): F32, or the type that VT gives. -/
def YOpnd.ty (y : YOpnd) (f16 : Bool) : Ty := if y.wide then .f32 else if f16 then .f16 else .bf16
/-- The pattern of element (r, c) of an operand, at issue. -/
def State.yElem (s : State) (b : Block) (y : YOpnd) (r c : Nat) : Nat :=
  match y with
  | .tile t => (b.tile.keeperWord s.free t (accIdx t r c)).toNat
  | .view _ v => b.viewElem v r c
/-- The value of element (r, c) of an operand. -/
def State.yVal (s : State) (b : Block) (y : YOpnd) (f16 : Bool) (r c : Nat) : FVal :=
  (fmtOf (y.ty f16)).decode (s.yElem b y r c)

/-- The elements that the masks select (R178). -/
def Tile.selected (x : Tile) : List (Nat × Nat) :=
  ((List.range 32).filter fun r => x.rm.getLsbD r).flatMap fun r =>
    ((List.range 32).filter fun c => x.cm.getLsbD c).map fun c => (r, c)
/-- Elements written to an operand, as the effect that lands: (row, column, pattern). -/
def YOpnd.write (y : YOpnd) (out : List (Nat × Nat × Nat)) : Effect :=
  match y with
  | .tile t => .tile t (out.map fun o => (accIdx t o.1 o.2.1, BitVec.ofNat 32 o.2.2))
  | .view n _ => .view n out

/-- An element-wise operation (R178, R179): the selected elements of the destination, with the flags of all, landing at s + lat. -/
def elementwise (w : Slot) (d : BitVec 7) (lat : Nat) (f : State → Block → YOpnd → Except Stop (Nat → Nat → Nat × Flags)) (s : State) :
    Outcome State Fault Refusal :=
  slotOp w.q (fun b s =>
    match b.tile.opnd d with
    | .error e => .error e
    | .ok y =>
      match f s b y with
      | .error e => .error e
      | .ok g =>
        let l := b.tile.selected.map fun x => (x.1, x.2, g x.1 x.2)
        let s1 : State := { s with free := s.free + 262144 }
        .ok (s1.emit lat (y.write (l.map fun o => (o.1, o.2.1, o.2.2.1))) (l.foldl (fun fl o => fl ||| o.2.2.2) 0#5))) s

/-- Encoded result of an operation with the NaN rule of R178. -/
def yRes (t : Ty) (vs : List FVal) (r : FVal × Flags) : Nat × Flags := ((fmtOf t).encode r.1, r.2 ||| nanFlag vs)

/-- An operation of two operands (R179). -/
def y3 (o : Y3) (f : Fmt → FVal → FVal → FVal × Flags) (s : State) : Outcome State Fault Refusal :=
  elementwise o.w o.d 4 (fun s b d =>
    match b.tile.opnd o.a, b.tile.opnd o.b with
    | .ok a, .ok b' => .ok fun r c =>
        let va := s.yVal b a o.f16 r c
        let vb := s.yVal b b' o.f16 r c
        yRes (d.ty o.f16) [va, vb] (f (fmtOf (d.ty o.f16)) va vb)
    | .error e, _ => .error e
    | _, .error e => .error e) s
/-- `yadd` (R179). -/
def execYadd (o : Y3) (s : State) : Outcome State Fault Refusal := y3 o (fun F a b => fAdd F .rne a b) s
/-- `ymul` (R179). -/
def execYmul (o : Y3) (s : State) : Outcome State Fault Refusal := y3 o (fun F a b => fMul F .rne a b) s

/-- Side word W of row r of a tile (R179), as the keeper reads it. -/
def State.sideVal (s : State) (b : Block) (t : Nat) (sw : Bool) (r : Nat) : FVal :=
  fmtF32.decode (b.tile.keeperWord s.free t (accIdx t r (32 + sw.toNat))).toNat
/-- An operation with the row's side word (R179). -/
def ySide (o : YSideOp) (lat : Nat) (f : Fmt → FVal → FVal → FVal × Flags) (s : State) : Outcome State Fault Refusal :=
  elementwise o.w o.d lat (fun s b d =>
    match b.tile.opnd o.a with
    | .error e => .error e
    | .ok a => .ok fun r c =>
        let va := s.yVal b a o.f16 r c
        let vo := s.sideVal b o.t.toNat o.sw r
        yRes (d.ty o.f16) [va, vo] (f (fmtOf (d.ty o.f16)) va vo)) s
/-- `yrsc` (R179). -/
def execYrsc (o : YSideOp) (s : State) : Outcome State Fault Refusal := ySide o 4 (fun F a b => fMul F .rne a b) s
/-- The exact difference of two values (R179); an invalid one is a NaN. -/
def exactDiff (a b : FVal) : FVal :=
  if a.isNan || b.isNan then quietNan
  else match infSign [a, b.negate] with
    | none => quietNan
    | some (some n) => .inf n
    | some none =>
      let x := a.real - b.real
      .fin (decide (x < 0)) (if x < 0 then -x else x)
/-- `yexp` (R179): 2^(A - o) with one rounding. -/
def execYexp (o : YSideOp) (s : State) : Outcome State Fault Refusal := ySide o 8 (fun F a b => exp2To F (exactDiff a b)) s

/-- max with -0 below +0 (R179, R182): a NaN gives the canonical NaN and invalid. -/
def fMax2 (a b : FVal) : FVal × Flags := if a.isNan || b.isNan then (quietNan, fInvalid) else (if fLtZ a b then b else a, 0#5)

/-- A row reduction into a side word (R179). -/
def yReduce (o : YRedOp) (start : FVal) (f : FVal → FVal → FVal × Flags) (s : State) : Outcome State Fault Refusal :=
  slotOp o.w.q (fun b s =>
    match b.tile.opnd o.a with
    | .error e => .error e
    | .ok a =>
      let t := o.t.toNat
      let l := ((List.range 32).filter fun r => b.tile.rm.getLsbD r).map fun r =>
        let x0 := if o.k then s.sideVal b t o.sw r else start
        let x := ((List.range 32).filter fun c => b.tile.cm.getLsbD c).foldl (fun (x : FVal × Flags) c =>
          let y := f x.1 (s.yVal b a o.f16 r c)
          (y.1, x.2 ||| y.2)) (x0, nanFlag (if o.k then [x0] else []))
        (accIdx t r (32 + o.sw.toNat), BitVec.ofNat 32 (fmtF32.encode x.1), x.2)
      let s1 : State := { s with free := s.free + 262144 }
      .ok (s1.emit 4 (.tile t (l.map fun y => (y.1, y.2.1))) (l.foldl (fun fl y => fl ||| y.2.2) 0#5))) s
/-- `yrmax` (R179). -/
def execYrmax (o : YRedOp) (s : State) : Outcome State Fault Refusal := yReduce o (.inf true) fMax2 s
/-- `yrsum` (R179): the selected elements added in order, each sum rounded. -/
def execYrsum (o : YRedOp) (s : State) : Outcome State Fault Refusal :=
  yReduce o (.fin false 0) (fun x a =>
    let r := fAdd fmtF32 .rne x a
    (r.1, r.2 ||| nanFlag [x, a])) s

/-- An exact move of an element (R179): the same type copies bits, a wider one takes the value. -/
def yMove (src dst : Ty) (p : Nat) : Nat × Flags :=
  if src = dst then (p, 0#5)
  else
    let r := convFloat (fmtOf dst) .rne .sat true ((fmtOf src).decode p)
    ((fmtOf dst).encode r.1, r.2)
/-- A move of elements (R179): ARG from 32-bit elements into a 16-bit view. -/
def yMoveOp (o : Y2) (lat : Nat) (src : Nat → Nat → Nat × Nat) (s : State) : Outcome State Fault Refusal :=
  elementwise o.w o.d lat (fun s b d =>
    match b.tile.opnd o.a with
    | .error e => .error e
    | .ok a =>
      if a.wide && !d.wide then .error (stopBare .arg)
      else .ok fun r c => yMove (a.ty o.f16) (d.ty o.f16) (s.yElem b a (src r c).1 (src r c).2)) s
/-- `ymov` (R179). -/
def execYmov (o : Y2) (s : State) : Outcome State Fault Refusal := yMoveOp o 4 (fun r c => (r, c)) s
/-- `ytr` (R179). -/
def execYtr (o : Y2) (s : State) : Outcome State Fault Refusal := yMoveOp o 12 (fun r c => (c, r)) s

/-- An element converted by `ycvt` (R180): rounded into TD, then as the destination holds it. -/
def ycvtElem (o : YcvtOp) (src : Ty) (wide : Bool) (p : Nat) : Nat × Flags :=
  let F := fmtOf o.td
  let r := convFloat F .rne o.ovf (exactConv src o.td) ((fmtOf src).decode p)
  (if wide then fmtF32.encode (F.decode (F.encode r.1)) else F.encode r.1, r.2)
/-- `ycvt` (R180): with the amax word of a tile source, cleared at issue with CL = 1 and merged at landing. -/
def execYcvt (o : YcvtOp) (s : State) : Outcome State Fault Refusal :=
  slotOp o.w.q (fun b s =>
    match b.tile.opnd o.d, b.tile.opnd o.a with
    | .error e, _ => .error e
    | _, .error e => .error e
    | .ok d, .ok a =>
      if !d.wide && o.td != .f16 && o.td != .bf16 then .error (stopBare .arg)
      else
        let ty := a.ty o.f16
        let l := b.tile.selected.map fun x => (x.1, x.2, ycvtElem o ty d.wide (s.yElem b a x.1 x.2))
        let m := b.tile.selected.foldl (fun m x => amaxMerge m (s.yVal b a o.f16 x.1 x.2)) 0#32
        let s1 : State := { s with free := s.free + 262144 }
        let s2 := match a with
          | .tile t =>
            let s2 := if o.clr then s1.modBlock s.cur.blk fun b => { b with tile := b.tile.keeperPut s.free t (accSide t 0) 0#32 } else s1
            s2.emit 4 (.amax t m) 0#5
          | .view _ _ => s1
        .ok (s2.emit 4 (d.write (l.map fun y => (y.1, y.2.1, y.2.2.1))) (l.foldl (fun fl y => fl ||| y.2.2.2) 0#5))) s

/-! ### Softmax states -/

/-- A stream that `smst` or `smrg` may name (R181). -/
def Tile.stateStream (x : Tile) (r : SReg) : Except Stop Stream :=
  match x.rowStream r with
  | .error e => .error e
  | .ok st => if st.fmt ≠ .f32 || st.vw || st.stride % 64 ≠ 0 || st.stride < 4416 then .error (stopBare .arg) else .ok st
/-- A record of 4,416 bytes (R181). -/
def recordBytes (idx : W32) (word : Nat → Nat → W32) : List Byte :=
  leBytes 4 idx.toNat ++ [1#8] ++ leBytes 59 0 ++
  (List.range 32).flatMap fun r => (List.range 34).flatMap fun c => leBytes 4 (word r c).toNat
/-- `smst` (R181): the record's bytes land at s + 4. -/
def execSmst (o : SmstOp) (s : State) : Outcome State Fault Refusal :=
  slotOp o.w.q (fun b s =>
    match b.tile.stateStream o.s with
    | .error e => .error e
    | .ok st =>
      match b.tile.rowAddr st st.rpos with
      | .error e => .error e
      | .ok a =>
        let t := o.t.toNat
        let p := b.engine s.cur.blk s.cur.slot
        let bs := recordBytes ((b.tile.kreg o.b).setWidth 32) fun r c => b.tile.keeperWord s.free t (accIdx t r c)
        if a / 2 ^ 56 ≠ 0 then .error (xlatAt 3 a)
        else if a % 4 ≠ 0 then .error (stopAt .align a)
        else
          match s.places p .write (chunks a 72 4416) with
          | .error e => .error e
          | .ok l =>
            let out := pieces l bs
            match mapStop (fun x => s.writeOk x.1 x.2.1 x.2.2 false) out with
            | .error e => .error e
            | .ok _ =>
              let s1 := ({ s with free := s.free + 262144 } : State).settled p (pieceUses out)
              .ok ((s1.emit 4 (.mem (out.flatMap postBytes)) 0#5).emit 1 (.advance o.s 1) 0#5)) s

/-- A record as `smrg` reads it: block index, valid byte, and its words by 34 r + c. -/
structure SmRec where
  idx : Nat
  valid : Nat
  words : List W32
  deriving DecidableEq, Repr
/-- A record from its bytes. -/
def smRecOf (l : List Byte) : SmRec :=
  { idx := leNat (l.take 4), valid := leNat ((l.drop 4).take 1), words := words32 1088 (l.drop 64) }
/-- The n records from row i on (R182). -/
def State.smRecs (s : State) (b : Block) (blk : Nat) (st : Stream) (i : Nat) : Nat → Except Stop (List SmRec × State)
  | 0 => .ok ([], s)
  | n + 1 =>
    match b.tile.rowAddr st (i % st.rows) with
    | .error e => .error e
    | .ok a =>
      match s.rowRead (b.engine blk s.cur.slot) a 4 4416 with
      | .error e => .error e
      | .ok (l, s1) =>
        match State.smRecs s1 b blk st (i + 1) n with
        | .error e => .error e
        | .ok (rs, s2) => .ok (smRecOf l :: rs, s2)
/-- Records in ascending order of block index. -/
def insertRec (x : SmRec) : List SmRec → List SmRec
  | [] => [x]
  | y :: l => if x.idx < y.idx then x :: y :: l else y :: insertRec x l

/-- RoundNE of a product and of a sum in F32, with the NaN rule of R178. -/
def mulF (a b : FVal) : FVal × Flags :=
  let r := fMul fmtF32 .rne a b
  (r.1, r.2 ||| nanFlag [a, b])
/-- RoundNE of a sum in F32. -/
def addF (a b : FVal) : FVal × Flags :=
  let r := fAdd fmtF32 .rne a b
  (r.1, r.2 ||| nanFlag [a, b])
/-- The factor of a side of the merge (R182): 1 when its maximum is the new one. -/
def mergeFactor (m mn : FVal) : FVal × Flags :=
  if fEq m mn then (.fin false 1, 0#5)
  else
    let d := addF m mn.negate
    let e := exp2To fmtF32 d.1
    (e.1, d.2 ||| e.2)
/-- a × f1 + b × f2, each step rounded (R182). -/
def mergeSum (a f1 b f2 : FVal) : FVal × Flags :=
  let x := mulF a f1
  let y := mulF b f2
  let z := addF x.1 y.1
  (z.1, x.2 ||| y.2 ||| z.2)
/-- One row of a record: its 32 elements, m and l. -/
def SmRec.row (x : SmRec) (r : Nat) : List FVal := (List.range 34).map fun c => fmtF32.decode (x.words.getD (34 * r + c) 0#32).toNat
/-- A row merged with the next record's (R182). -/
def mergeRow (x : List FVal × Flags) (y : List FVal) : List FVal × Flags :=
  let at_ (l : List FVal) (i : Nat) : FVal := l.getD i (.fin false 0)
  let mn := fMax2 (at_ x.1 32) (at_ y 32)
  let f1 := mergeFactor (at_ x.1 32) mn.1
  let f2 := mergeFactor (at_ y 32) mn.1
  let sum (i : Nat) : FVal × Flags := mergeSum (at_ x.1 i) f1.1 (at_ y i) f2.1
  let o := (List.range 32).map sum
  let l := sum 33
  (o.map Prod.fst ++ [mn.1, l.1], (o.foldl (fun fl z => fl ||| z.2) (x.2 ||| mn.2 ||| f1.2 ||| f2.2)) ||| l.2)
/-- `smrg` (R182): the records merged in order of block index, landing at s + 10. -/
def execSmrg (o : SmrgOp) (s : State) : Outcome State Fault Refusal :=
  slotOp o.w.q (fun b s =>
    match b.tile.stateStream o.s with
    | .error e => .error e
    | .ok st =>
      match s.smRecs b s.cur.blk st st.rpos (o.n.toNat + 1) with
      | .error e => .error e
      | .ok (rs, s1) =>
        let l := rs.foldl (fun l x => insertRec x l) []
        if (l.any fun x => x.valid ≠ 1) || (l.map (·.idx)).dedup.length ≠ l.length then .error (stopBare .arg)
        else
          match l with
          | [] => .ok s1
          | x :: xs =>
            let t := o.t.toNat
            let rows := (List.range 32).map fun r =>
              if xs = [] then ((List.range 34).map fun c => x.words.getD (34 * r + c) 0#32, 0#5)
              else
                let m := xs.foldl (fun acc y => mergeRow acc (y.row r)) (x.row r, 0#5)
                (m.1.map fun v => BitVec.ofNat 32 (fmtF32.encode v), m.2)
            let out := rows.zipIdx.flatMap fun y => y.1.1.zipIdx.map fun z => (accIdx t y.2 z.2, z.1)
            .ok ((s1.emit 10 (.tile t out) (rows.foldl (fun fl y => fl ||| y.2) 0#5)).emit 1 (.advance o.s (o.n.toNat + 1)) 0#5)) s

/-! ### The keeper's side of tile barriers -/

/-- `ybar.arv` (R183, R209): pending from its issue until it takes effect; a release (R222), which keeps its bundle from issuing until it may
perform. -/
def execYbarArv (o : YbarOp) (s : State) : Outcome State Fault Refusal :=
  slotOp o.w.q (fun _ s =>
    if s.unreleased s.cur.blk then .ok (s.slotWait .fence)
    else .ok (s.modBlock s.cur.blk fun b =>
      { b with tile := { b.tile with arrivals := b.tile.arrivals ++ [(o.t.toNat, b.tile.step, s.cur.baddr)] } })) s
/-- `ybar.wt` (R183, R209): ILL on a pending arrival of its tile; waits while the tile is with the correction block. -/
def execYbarWt (o : YbarOp) (s : State) : Outcome State Fault Refusal :=
  slotOp o.w.q (fun b s =>
    let t := o.t.toNat
    if b.tile.arrivals.any fun a => a.1 == t then .error (stopBare .ill)
    else if b.tile.withCorrection t then .ok (s.slotWait .tileBar)
    else .ok (s.modBlock s.cur.blk fun b => { b with tile := b.tile.setAcc (accSide t 3) (b.tile.accWord (accSide t 3) &&& 2#32) })) s

/-- The arrivals of `ybar.arv` that take effect at the context's step (R183): from s + 4 on, once every write to the tile that was
issued before has landed. -/
def Tile.arrivalsDue (x : Tile) : List (Nat × Nat × Addr) :=
  x.arrivals.filter fun a =>
    a.2.1 + 4 ≤ x.step &&
    !(x.fly.any fun l => l.eff.tile? == some a.1 && (l.issued < a.2.1 || (l.issued == a.2.1 && l.slot < 5)))

end Sys2Proof.Machine
end

