-- ==== Sys2Proof/Machine/TileF.lean ====
section
/-! DEFINITION. The F slot: branches, loops, `gret`, traps and fences (06_tile_set.md R184-R188, 11_memory_instructions.md R282), and
the events of a context: landings, arrivals and stream reads. -/

namespace Sys2Proof.Machine

open Host (Outcome)

/-- The issuing context changed. -/
def State.modTile (s : State) (f : Tile → Tile) : State := s.modBlock s.cur.blk fun b => { b with tile := f b.tile }

/-! ### Branches -/

/-- A branch taken at this step (R185, R188): two delay bundles follow this one, and every loop ends. -/
def Tile.branch (x : Tile) (target : Addr) (link : Option (KReg × Nat × Addr)) : Tile :=
  { x with delay := some (target, 3, link), loops := [], lbuf := [], exempt := 0#8 }
/-- A target at an offset in words from a bundle (R184). -/
def fTarget (baddr : Addr) (off : Addr) : Addr := baddr + (off <<< 2)
/-- An indirect target that raises ALIGN (R184). -/
def badFTarget (a : W64) : Bool := a.extractLsb' 56 8 != 0#8 || a.extractLsb' 0 2 != 0#2
/-- The condition of `fbr` (R184). -/
def fbrHolds (o : FbrOp) (x : Tile) : Bool := (x.kreg o.a == 0#64) == o.z

/-- `fbr` (R184). -/
def execFbr (o : FbrOp) (s : State) : Outcome State Fault Refusal :=
  slotOp o.q (fun b s =>
    .ok (if fbrHolds o b.tile then s.modTile (·.branch (fTarget s.cur.baddr (o.off.signExtend 56)) none) else s)) s
/-- The direct `fjmp` (R184). -/
def execFjmp (o : FjmpOp) (s : State) : Outcome State Fault Refusal :=
  slotOp o.q (fun _ s => .ok (s.modTile (·.branch (fTarget s.cur.baddr (o.off.signExtend 56)) none))) s
/-- A branch to the address in a scalar (R184). -/
def branchTo (o : FregOp) (s : State) : Outcome State Fault Refusal :=
  slotOp o.q (fun b s =>
    let a := b.tile.kreg o.a
    if badFTarget a then .error (stopAt .align a.toNat) else .ok (s.modTile (·.branch (a.setWidth 56) none))) s
/-- The indirect `fjmp` (R184). -/
def execFjmpIndirect (o : FregOp) (s : State) : Outcome State Fault Refusal := branchTo o s
/-- `fret` (R184). -/
def execFret (o : FregOp) (s : State) : Outcome State Fault Refusal := branchTo o s
/-- `fcall` (R184, R156): the link lands at the first bundle of the target. -/
def execFcall (o : FcallOp) (s : State) : Outcome State Fault Refusal :=
  slotOp o.q (fun b s =>
    .ok (s.modTile (·.branch (fTarget s.cur.baddr (o.off.signExtend 56)) (some (o.l, b.tile.step, s.cur.baddr))))) s

/-! ### Loops -/

/-- The remaining count of a loop level. -/
def Tile.nreg (x : Tile) (l : Nat) : W32 := Tbl.get 0#32 x.n l
/-- A loop count written. -/
def Tile.setN (x : Tile) (l : Nat) (v : W32) : Tile := { x with n := Tbl.put 0#32 x.n l v }
/-- `floop` (R186, R187): the body begins at the bundle that follows, which the close of this step names. -/
def execFloop (o : FloopOp) (s : State) : Outcome State Fault Refusal :=
  slotOp o.q (fun b s =>
    let l := o.l.toNat
    let len := o.n.toNat + 1
    let n := (b.tile.kreg o.c).setWidth 32
    if b.tile.loops.any fun y => y.level == l || (y.len : Int) - 1 < y.idx + len then .error (stopBare .arg)
    else if n = 0#32 then .ok (s.modTile fun x => { x.setN l 0#32 with skip := len })
    else .ok (s.modTile fun x => { x.setN l n with loops := { level := l, len, idx := -1, first := s.cur.baddr } :: x.loops })) s

/-! ### The end of the lock, traps and fences -/

/-- KARR of tile t advances (R208, R209), and the tile's elements are the correction block's (R211). -/
def Tile.keepArrive (x : Tile) (t : Nat) : Tile :=
  (x.setAcc (accSide t 1) ((x.accWord (accSide t 1) + 1#32) &&& 0xFFFF#32)).setAcc (accSide t 3) (x.accWord (accSide t 3) ||| 1#32)
/-- Arrivals take effect, in order (R183): one whose tile is with the correction block stays. -/
def Tile.arrive (x : Tile) (l : List (Nat × Nat × Addr)) : Tile :=
  l.foldl (fun x a => if x.withCorrection a.1 then x else { x.keepArrive a.1 with arrivals := x.arrivals.filter fun y => !(y.1 == a.1 && y.2.1 == a.2.1) }) x
/-- `gret` (R50): a release at block scope (R47, R222), whose bundle is kept from issuing until the context's earlier writes are acknowledged; the
TIMEOUT of one that was not in time is raised there, as by `ffence` (log 70). The operations of its bundle land, and its arrivals take
effect (log 69); the lock ends, once the writes among them are acknowledged. -/
def execGret (q : QReg) (s : State) : Outcome State Fault Refusal :=
  slotOp q (fun b s =>
    if s.unacked s.cur.blk agentOfTile then .ok (s.slotWait .fence)
    else if s.unanswered s.cur.blk agentOfTile != [] then .ok ((s.dropLate s.cur.blk agentOfTile).slotStop b (stopBare .timeout))
    else
      let s1 := (s.landAll s.cur.blk b.tile.fly.length).modBlock s.cur.blk fun b => { b with tile := b.tile.arrive b.tile.arrivals }
      .ok (s1.modBlock s.cur.blk fun b =>
        if s1.unacked s.cur.blk agentOfTile then { b with tile := { b.tile with wait := some .leaving } } else b.leaveLock)) s
/-- A trap of the issuing slot: its record is noted for the bundle, which stops (R184, R372). -/
def State.slotTrap (s : State) (b : Block) (kind n : Nat) : State :=
  { s with cur := { s.cur with tileFault := some (s.cur.slot, ({ s.slotRec b with kind, num := n } : Rec).bits) } }
/-- `ftrap` (R184): KIND 1, resuming at the next bundle. -/
def execFtrap (o : FnumOp) (s : State) : Outcome State Fault Refusal := slotOp o.q (fun b s => .ok (s.slotTrap b 1 o.n.toNat)) s
/-- `fbrk` (R184, R147): KIND 2, executed again on resumption. -/
def execFbrk (o : FnumOp) (s : State) : Outcome State Fault Refusal := slotOp o.q (fun b s => .ok (s.slotTrap b 2 o.n.toNat)) s
/-- `ffence` (R282): a release keeps its bundle from issuing until the landed writes of the context have performed, and raises the TIMEOUT of
one that was never acknowledged (log 70); an acquire bumps VER at the bundle's scope. -/
def execFfence (o : FfenceOp) (s : State) : Outcome State Fault Refusal :=
  slotOp o.q (fun b s =>
    if o.kind ≠ .acq && s.unreleased s.cur.blk then .ok (s.slotWait .fence)
    else
      match if o.kind = .acq then [] else s.unanswered s.cur.blk agentOfTile with
      | _ :: _ => .ok ((s.dropLate s.cur.blk agentOfTile).slotStop b (stopBare .timeout))
      | [] => .ok (if o.kind = .rel then s else s.acquire b.core s.cur.scope)) s
/-- The idle step (R70): no slot word issues. -/
def execIdleStep (_ : Header) (s : State) : Outcome State Fault Refusal := .next s

/-! ### Events of a context -/

/-- The block in the lock on a tile context, if its context runs. -/
def State.tileAt (s : State) (core cx : Nat) : Option (Nat × Block) :=
  s.blocks.findSome? fun e => e.2.bind fun b =>
    if b.core == core && b.cx == some cx && b.inLock && !b.killed && b.life != .launched then some (e.1, b) else none
/-- A snapshot freeze (R372, R373): every thread that has not exited enters the handler with the record. -/
def State.freezeTile (s : State) (blk : Nat) (z : Freeze) : State :=
  match s.block blk with
  | none => s
  | some b =>
    let s1 := s.modBlock blk fun b => { b with life := .frozen, freeze := some z }
    s1.enterLanes blk ((b.threads.zipIdx.filter fun x => x.1.status != .exited).map Prod.snd) z.record (b.gate.getD 0#56)
/-- The registers of a block's threads. -/
def Block.regImage (b : Block) : List (Tbl W32) := b.threads.map (·.regs)
/-- A step of the context is open (R372): slots of its bundle are still to be reissued. -/
def Block.openStep (b : Block) : Bool := b.freeze.any fun z => !z.early && !z.late
/-- What a context's step begins with (R155, R183): the results that land at it, then the arrivals that are due. -/
def State.stepStart (s : State) (blk : Nat) : State :=
  match s.block blk with
  | none => s
  | some b =>
    if b.openStep then s
    else (s.landDue blk b.tile.fly.length).modBlock blk fun b => { b with tile := b.tile.arrive b.tile.arrivalsDue }
/-- A late BSY (R209, R372, R373): an arrival is due whose tile is with the correction block. -/
def State.lateArrival (s : State) (blk : Nat) : Option State :=
  (s.block blk).bind fun b =>
    if b.openStep then none
    else (b.tile.arrivalsDue.find? fun a => b.tile.withCorrection a.1).map fun y =>
      let r : Rec := { s.slotRec b with code := Code.bsy.num, slot := 5, done := 0xFF, late := true, baddr := y.2.2.toNat }
      (s.modBlock blk fun b => { b with tile := { b.tile with arrivals := b.tile.arrivals.filter fun z => !(z.1 == y.1 && z.2.1 == y.2.1) } }).freezeTile
        blk { baddr := y.2.2, header := 0#32, words := [], done := 0xFF#8, record := r.bits, early := false, late := true, brk := false,
              tile := b.tile, viewRegs := [] }

/-- RESULT_LANDING (R155): the results due at the context's step. -/
def execResultLanding (core cx : Nat) (s : State) : Outcome State Fault Refusal :=
  match s.tileAt core cx with
  | none => .next s
  | some (blk, b) => .next (if b.life = .running then s.landDue blk b.tile.fly.length else s)
/-- TILE_BARRIER_ARRIVAL (R183, R209). -/
def execTileBarrierArrival (core cx : Nat) (s : State) : Outcome State Fault Refusal :=
  match s.tileAt core cx with
  | none => .next s
  | some (blk, b) =>
    .next (if b.life = .running then let s1 := s.stepStart blk; (s1.lateArrival blk).getD s1 else s)
/-- STREAM_READ_RETURN (R158): a context frozen for a stream read goes on. -/
def execStreamReadReturn (core cx : Nat) (s : State) : Outcome State Fault Refusal := .next (s.endTileWait core cx (· == .memRead))

end Sys2Proof.Machine
end

