-- ==== Sys2Proof/Machine/Bundle.lean ====
section
/-! DEFINITION. The issue of a bundle (02_execution_model.md R51-R54, 03_encodings.md R69-R74, R80-R82, 06_tile_set.md R157, R185,
R186, 17_faults_preemption.md R372-R374), round the meanings that `run` gives its slots. -/

namespace Sys2Proof.Machine

open Host (Outcome)

/-! ### Fetch and decode -/

/-- A bundle's address, header and words; `words` and `instrs` are by slot number. -/
structure Bundle where
  baddr : Addr
  header : W32
  hdr : Header
  words : List (Nat × W32)
  instrs : List (Nat × Instr)

/-- The accumulator tiles that a slot word names (R74). -/
def tilesOf (i : Instr) : List Nat :=
  let opnd (c : BitVec 7) : List Nat := if c.toNat < 64 then [c.toNat] else []
  match i with
  | .xshift o => [o.t.toNat]
  | .xacc o => [o.t.toNat]
  | .xdrain o => [o.t.toNat]
  | .yadd o => opnd o.d ++ opnd o.a ++ opnd o.b
  | .ymul o => opnd o.d ++ opnd o.a ++ opnd o.b
  | .yrsc o => o.t.toNat :: opnd o.d ++ opnd o.a
  | .yexp o => o.t.toNat :: opnd o.d ++ opnd o.a
  | .yrmax o => o.t.toNat :: opnd o.a
  | .yrsum o => o.t.toNat :: opnd o.a
  | .ymov o => opnd o.d ++ opnd o.a
  | .ytr o => opnd o.d ++ opnd o.a
  | .ycvt o => opnd o.d ++ opnd o.a
  | .smst o => [o.t.toNat]
  | .smrg o => [o.t.toNat]
  | .ybarArv o => [o.t.toNat]
  | .ybarWt o => [o.t.toNat]
  | _ => []

/-- The slots present in a header's MASK (R69): bit 7 is S0. -/
def slotsOf (mask : Byte) : List Nat := (List.range 8).filter fun n => mask.getLsbD (7 - n)
/-- The MASK of a header word. -/
def maskOf (header : W32) : Byte := header.extractLsb' 24 8
/-- The bytes of a bundle (R70). -/
def bundleLen (header : W32) : Nat := 4 + 4 * (slotsOf (maskOf header)).length

/-- Words of the keeper instruction cache (R16). -/
def kiWords : Nat := 8192
/-- A word of a bundle fetched (R82, R186): from the loop buffer, from the keeper instruction cache, or from memory: a line
of which no word is kept adds to its page's count once for the bundle (R337). -/
def State.fetchKeeper (s : State) (b : Block) (blk : Nat) (a : Addr) : Except Stop (W32 × State) :=
  let keep (s : State) (w : W32) : State :=
    if b.tile.loops = [] then s
    else s.modBlock blk fun b => { b with tile := { b.tile with lbuf := Tbl.insert (a.toNat / 4) w (Tbl.erase b.tile.lbuf (a.toNat / 4)) } }
  match if b.tile.loops = [] then none else b.tile.lbuf.find? fun e => e.1 == a.toNat / 4 with
  | some e => .ok (e.2, s)
  | none =>
    let p := b.engine blk 1023
    match s.place p a.toNat 4 .fetch with
    | .error e => .error e
    | .ok pl =>
      let s1 := s.used b.core pl
      let cache := (s.core b.core).kicache
      match Tbl.get none cache (pl.loc / 4) with
      | some w => .ok (w, keep s1 w)
      | none =>
        match s.readable p a.toNat pl 4 with
        | .error e => .error e
        | .ok p2 =>
          let w : W32 := BitVec.ofNat 32 (leNat (match p2.ack with | some (_, l) => l | none => s.bytes pl.loc 4))
          let held := (cache.any fun e => e.1 / 32 == pl.loc / 128) || (a != b.tile.baddr && a.toNat % 128 != 0)
          let s2 := (if held then s1 else s1.count b.slot a.toNat pl).consume (p2.ack.map Prod.fst).toList
          .ok (w, keep (if l1May b.core pl.loc then s2.modCore b.core fun c => { c with kicache := holdWord kiWords c.kicache (pl.loc / 4) w }
            else s2) w)

/-- A slot word's decoding (R80, R74): ILL for a refused word, a tile outside the allocation, or `gret` without DP. -/
def decodeWord (accTiles : Nat) (dp : Bool) (n : Nat) (w : W32) : Except Stop Instr :=
  match decodeSlot (slotClass n) w with
  | .error _ => .error (stopBare .ill)
  | .ok i =>
    if (tilesOf i).any fun t => accTiles ≤ t then .error (stopBare .ill)
    else match i with
      | .gret q => if dp then .ok (.gret q) else .error (stopBare .ill)
      | i => .ok i

/-- The words of a bundle fetched, lowest slot first (R81). A slot the handler has marked done is not looked at (R374). -/
def State.fetchWords (s : State) (b : Block) (blk : Nat) (a : Addr) (done : BitVec 8) : List Nat →
    Except (Nat × Stop) (List (Nat × W32) × State)
  | [] => .ok ([], s)
  | n :: l =>
    if done.getLsbD n then State.fetchWords s b blk (a + 4#56) done l
    else
      match s.fetchKeeper b blk a with
      | .error e => .error (n, e)
      | .ok (w, s1) =>
        match State.fetchWords s1 b blk (a + 4#56) done l with
        | .error e => .error e
        | .ok (ws, s2) => .ok ((n, w) :: ws, s2)
/-- The words of a bundle decoded, lowest slot first (R81). -/
def decodeWords (accTiles : Nat) (dp : Bool) : List (Nat × W32) → Except (Nat × Stop) (List (Nat × Instr))
  | [] => .ok []
  | (n, w) :: l =>
    match decodeWord accTiles dp n w with
    | .error e => .error (n, e)
    | .ok i =>
      match decodeWords accTiles dp l with
      | .error e => .error e
      | .ok is => .ok ((n, i) :: is)

/-- A bundle fetched and decoded (R80, R81): what stops it, with its slot number. -/
def State.fetchBundle (s : State) (b : Block) (blk : Nat) (done : BitVec 8) : Except (Nat × Stop) (Bundle × State) :=
  let a := b.tile.baddr
  match s.fetchKeeper b blk a with
  | .error e => .error (9, e)
  | .ok (h, s1) =>
    match decodeHeader h with
    | none => .error (9, stopBare .ill)
    | some (hdr, mask) =>
      match s1.fetchWords b blk (a + 4#56) done (slotsOf mask) with
      | .error e => .error e
      | .ok (ws, s2) =>
        match decodeWords b.accTiles hdr.dp ws with
        | .error e => .error e
        | .ok is => .ok ({ baddr := a, header := h, hdr, words := ws, instrs := is }, s2)

/-! ### The checks before issue -/

/-- An F operation that would be taken, were its guard and condition read now (R185). -/
def takesBranch (x : Tile) (i : Instr) : Bool :=
  match i with
  | .fbr o => x.qreg o.q && fbrHolds o x
  | .fjmp o => x.qreg o.q
  | .fjmpIndirect o => x.qreg o.q
  | .fcall o => x.qreg o.q
  | .fret o => x.qreg o.q
  | _ => false
/-- The checks of a delay bundle of a taken branch that is no drain point (R185): the slot at fault. -/
def delayFault (x : Tile) (u : Bundle) : Option Nat :=
  if x.delay.isNone then none
  else if u.instrs.any fun i => (match i.2 with | .floop _ => true | .gret _ => true | j => takesBranch x j) then some 7
  else none
/-- A command of a block's context is incomplete on some channel (R54). -/
def State.copiesPending (s : State) (b : Block) (blk : Nat) : Bool := s.ctxCmds b blk != []

/-! ### Issue -/

/-- The slots of a bundle with the words held in its absent slots (R157, R53). -/
def effective (x : Tile) (u : Bundle) (accTiles : Nat) : List (Nat × W32 × Instr) :=
  (List.range 8).filterMap fun n =>
    match u.words.find? fun e => e.1 == n, u.instrs.find? fun e => e.1 == n with
    | some w, some i => some (n, w.2, i.2)
    | _, _ =>
      if (slotsOf (maskOf u.header)).contains n then none
      else
        match x.held.find? fun e => e.1 == n with
        | none => none
        | some h => match decodeWord accTiles true n h.2 with | .ok i => some (n, h.2, i) | .error _ => none

/-- What the slots of a bundle have come to: the state, the faults by slot, and the slot whose wait keeps the bundle from issuing. -/
structure Ran where
  st : State
  faults : List (Nat × BitVec 512)
  waits : Option Nat

/-- A slot's instruction run in a context (R372). -/
def runSlot (run : Instr → State → Outcome State Fault Refusal) (blk : Nat) (cur : Cursor) (r : Ran) (x : Nat × Instr) : Ran :=
  if r.waits.isSome then r
  else
    let s0 : State := { r.st with cur := { cur with slot := x.1, tileFault := none } }
    match run x.2 s0 with
    | .next s1 =>
      let w := ((s1.block blk).bind (·.tile.wait)).any (· != .leaving)
      match s1.cur.tileFault with
      | some (n, f) => { st := s1, faults := r.faults ++ [(n, f)], waits := none }
      | none => if w then { r with waits := some x.1 } else { r with st := s1 }
    | .fault _ => r
    | .refused _ => r

/-- A fault of a slot among those of the step, lowest slot first. -/
def insertFault (x : Nat × BitVec 512) : List (Nat × BitVec 512) → List (Nat × BitVec 512)
  | [] => [x]
  | y :: l => if x.1 < y.1 then x :: y :: l else y :: insertFault x l
/-- A slot operation below F whose wait or acquire the bundle's other slots follow (R170, R183, R273). -/
def waitsFirst (i : Instr) : Bool :=
  match i with
  | .cbw _ | .cbf _ | .ybarWt _ | .ccwt _ => true
  | _ => false
/-- An F operation without which the bundle does not issue (R273, R281, R282). -/
def fenceFirst (i : Instr) : Bool :=
  match i with
  | .fwait _ | .ffence _ => true
  | _ => false
/-- The slots S0 to C of a step run (R155, R372): waits first, then in order. -/
def runOthers (run : Instr → State → Outcome State Fault Refusal) (blk : Nat) (cur : Cursor) (l : List (Nat × Instr)) (r : Ran) : Ran :=
  let l6 := l.filter fun x => x.1 != 7
  let r1 := ((l6.filter fun x => waitsFirst x.2) ++ l6.filter fun x => !waitsFirst x.2).foldl (runSlot run blk cur) r
  { r1 with faults := r1.faults.foldl (fun l x => insertFault x l) [] }
/-- The slots of a step (R155, R372): the F slot issues only once every other slot is done. -/
def runPlain (run : Instr → State → Outcome State Fault Refusal) (blk : Nat) (cur : Cursor) (l : List (Nat × Instr)) (r0 : Ran) : Ran :=
  let r := runOthers run blk cur l r0
  if r.faults = [] then (l.filter fun x => x.1 == 7).foldl (runSlot run blk cur) r else r
/-- The slots of a step (R155, R372, R273): a wait or fence of the F slot holds the bundle back, and the other slots see what it orders;
should one of them fault, it has not issued. -/
def runSlots (run : Instr → State → Outcome State Fault Refusal) (blk : Nat) (cur : Cursor) (s : State) (l : List (Nat × Instr)) : Ran :=
  let r0 : Ran := { st := s, faults := [], waits := none }
  match l.filter fun x => x.1 == 7 && fenceFirst x.2 with
  | [] => runPlain run blk cur l r0
  | f :: _ =>
    let r1 := runSlot run blk cur r0 f
    if r1.waits.isSome then r1
    else if r1.faults ≠ [] then runPlain run blk cur l r0
    else
      let r := runOthers run blk cur l r1
      if r.faults = [] then r else runPlain run blk cur l r0

/-- The guard of a slot word (R71). -/
def guardOf (w : W32) : QReg := w.extractLsb' 22 3
/-- The slots whose guard reads false at their step issue nothing and are done (R72). -/
def passedSlots (x : Tile) (l : List (Nat × W32 × Instr)) : List Nat := (l.filter fun y => !x.qreg (guardOf y.2.1)).map Prod.fst
/-- The done mask of a step (R372): the slots that ran without a fault, the absent ones, and those that passed. `ftrap` is done (R184). -/
def doneMask (present notRun passed : List Nat) (faults : List (Nat × BitVec 512)) : BitVec 8 :=
  BitVec.ofNat 8 ((List.range 8).foldl (fun m n =>
    let open_ := present.contains n && !passed.contains n &&
      (notRun.contains n || (faults.any fun f => f.1 == n && recKindOf f.2 != 1) || (n == 7 && faults.any fun f => f.1 != 7))
    if open_ then m else m + 2 ^ n) 0)
/-- A record with its DONE replaced. -/
def recSetDone (r : BitVec 512) (d : BitVec 8) : BitVec 512 := (r &&& ~~~(0xFF#512 <<< 16)) ||| (d.setWidth 512 <<< 16)

/-- The words held after a bundle (R72): an explicit word with H is held, one without ends the hold; so does an explicit word that the handler
has marked done, which is not looked at (log 50). -/
def heldAfter (x : Tile) (header : W32) (words : List (Nat × W32)) : Tbl W32 :=
  (slotsOf (maskOf header)).foldl (fun t n =>
    match words.find? fun e => e.1 == n with
    | some w => if w.2.getLsbD 25 then Tbl.insert n w.2 (Tbl.erase t n) else Tbl.erase t n
    | none => Tbl.erase t n) x.held

/-- The loops after a bundle of their bodies has issued (R186, R187), innermost first: the counts, the loops, and the address of the
body that is repeated, if one is. -/
def stepLoops (x : Tile) : List Loop → Tile × List Loop × Option Addr
  | [] => (x, [], none)
  | l :: rest =>
    if l.idx + 1 = l.len then
      if 1 < (x.nreg l.level).toNat then
        (x.setN l.level (x.nreg l.level - 1#32), { l with idx := 0 } :: rest.map fun y => { y with idx := y.idx - (l.len - 1) }, some l.first)
      else stepLoops (x.setN l.level 0#32) rest
    else (x, (l :: rest).map fun y => { y with idx := y.idx + 1 }, none)

/-- Where the context goes after a bundle that is no branch: the loops advance, and a loop set up here begins at the next bundle. -/
def Tile.advanceLoops (x : Tile) (next : Addr) : Tile :=
  let ls := x.loops.map fun l => if l.idx = -1 then { l with first := next } else l
  let y := stepLoops x ls
  { y.1 with loops := y.2.1, lbuf := if y.2.1 = [] then [] else y.1.lbuf,
             exempt := if y.2.1 = [] then 0#8 else y.1.exempt, baddr := y.2.2.getD next }
/-- The branch in progress after a bundle (R185): the target follows the second delay bundle, at which the link of `fcall` lands. -/
def Tile.advanceDelay (x : Tile) (next target : Addr) (n : Nat) (link : Option (KReg × Nat × Addr)) : Tile :=
  if n = 1 then
    let fly := match link with
      | none => x.fly
      | some (r, i, a) =>
        insertLanding { at_ := i + 3, issued := i, slot := 7, baddr := a, eff := .k r (next.setWidth 64), fl := 0#5 } x.fly
    { x with baddr := target, delay := none, fly := fly }
  else { x with baddr := next, delay := some (target, n - 1, link) }
/-- The step closes (R6, R157, R185, R186): the holds, the loops or the branch in progress, and the next bundle. A taken branch ends a word
held by its own bundle too (log 71). -/
def Block.closeStep (b : Block) (baddr : Addr) (header : W32) (words : List (Nat × W32)) : Block :=
  let next := baddr + BitVec.ofNat 56 (bundleLen header)
  let x : Tile := { b.tile with step := b.tile.step + 1, held := heldAfter b.tile header words, lastPark := none }
  let y : Tile := match x.delay with
    | some (target, 3, link) => { x with held := [], baddr := next, delay := some (target, 2, link) }
    | some (target, n, link) => x.advanceDelay next target n link
    | none => x.advanceLoops next
  { b with freeze := none, tile := if b.inLock then y else { y with held := [], loops := [] } }

/-- The array's class of the cycle in which slots issue (R398): of the X slot, if it is among them. -/
def arrayClass (l : List (Nat × Instr)) : Option Nat :=
  (l.find? fun x => x.1 == 4).map fun x =>
    match x.2 with
    | .xshift _ => 0
    | .xacc _ => 0
    | .xdrain _ => 3
    | _ => 1
/-- The cycle of a context's turn charged (R310, R398, R399, R400), of which `x` is the class of the X operation that issued, if one did: `b` is
the block before the turn, and `closed` says that the step has closed. -/
def State.chargeTurn (s : State) (b : Block) (blk cx : Nat) (x : Option Nat) (closed : Bool) : State :=
  let s1 := if closed then s.charge b.core (8 + cx) 0 b.tile.baddr.toNat 0 1 (some b.slot) else s.chargeIdle b.core (8 + cx) 1
  match x with
  | some c => (s1.chargeArray (some b.slot) b.core cx c b.tile.baddr.toNat 1).modCore b.core fun c => { c with lastX := some (blk, cx, b.slot) }
  | none =>
    if closed && (s1.core b.core).lastX == some (blk, cx, b.slot) then s1.chargeArray (some b.slot) b.core cx 4 b.tile.baddr.toNat 1
    else s1.chargeArrayIdle b.core 1
/-- A cycle in which a context takes no step (R310, R398). -/
def State.chargeNoStep (s : State) (core cx : Nat) : State := (s.chargeIdle core (8 + cx) 1).chargeArrayIdle core 1

/-- The freeze of a bundle of which no slot has issued (R374), with the slots that the handler has marked done. -/
def Block.earlyFreeze (b : Block) (done : BitVec 8) (r : BitVec 512) : Freeze :=
  { baddr := b.tile.baddr, header := 0#32, words := [], done, record := recSetDone r done, early := true, late := false, brk := false,
    tile := b.tile, viewRegs := [] }
/-- What stops a bundle before its slots issue (R80, R81, R54, R374): a freeze without a step, or a wait. -/
def State.earlyStop (s : State) (blk : Nat) (b : Block) (slot : Nat) (done : BitVec 8) (e : Stop) : State :=
  let s1 : State := { s with cur := { Cursor.idle with blk, pc := b.gate.getD 0#56, slot, baddr := b.tile.baddr } }
  let s2 := s1.slotStop b e
  match s2.cur.tileFault with
  | none => { s2 with cur := Cursor.idle }
  | some (_, r) =>
    { s2.freezeTile blk (b.earlyFreeze done r) with cur := Cursor.idle }

/-- What a turn of a context comes to: the state, and the array's class of the X operation that issued in it. -/
abbrev Turned := State × Option Nat
/-- What follows a step's slots (R372): the bundle waits, closes its step, or the context freezes with the step open. `all` are the
effective words; `before` those done before; `heldBack` the slots held back by a breakpoint. -/
def State.endStep (s0 : State) (run : Instr → State → Outcome State Fault Refusal) (blk cx : Nat) (b : Block) (cur : Cursor) (header : W32)
    (all : List (Nat × W32 × Instr)) (before : BitVec 8) (heldBack : List Nat) (bp : Option Nat) (r : Ran) (snap : Tile × List (Tbl W32)) : Turned :=
  let done := doneMask ((all.map (·.1)).filter fun n => !before.getLsbD n) heldBack (passedSlots snap.1 all) r.faults ||| before
  match r.waits with
  | some n =>
    match all.find? fun x => x.1 == n with
    | none => (s0, none)
    | some x =>
      match run x.2.2 { s0 with cur := { cur with slot := n, tileFault := none } } with
      | .next s1 => ({ s1 with cur := Cursor.idle }, none)
      | .fault _ => (s0, none)
      | .refused _ => (s0, none)
  | none =>
    let x := arrayClass ((all.filter fun y => done.getLsbD y.1 && !before.getLsbD y.1 && !(passedSlots snap.1 all).contains y.1).map fun y => (y.1, y.2.2))
    let z (rec_ : BitVec 512) (brk : Bool) : Freeze :=
      { baddr := cur.baddr, header, words := all.map fun x => (x.1, x.2.1), done, record := recSetDone rec_ done, early := false, late := false,
        brk, tile := snap.1, viewRegs := snap.2 }
    match r.faults with
    | (n, f) :: _ =>
      if recKindOf f = 2 && (s0.ctx b.slot).dse then
        let s1 := r.st.modBlock blk fun b => { b with freeze := some (z f true) }
        ({ s1.stopHit b.slot { s1.tileStopRec b 4 0 n cur.baddr with done := done.toNat } with cur := Cursor.idle }, x)
      else ({ r.st.freezeTile blk (z f false) with cur := Cursor.idle }, x)
    | [] =>
      match bp with
      | some i =>
        let s1 := r.st.modBlock blk fun b => { b with freeze := some (z 0#512 true) }
        ({ s1.stopHit b.slot { s1.tileStopRec b 2 i 15 cur.baddr with done := done.toNat } with cur := Cursor.idle }, x)
      | none =>
        let s1 := r.st.modBlock blk fun b => b.closeStep cur.baddr header (all.filterMap fun x =>
          if (slotsOf (maskOf header)).contains x.1 then some (x.1, x.2.1) else none)
        ({ (s1.modCtx b.slot fun c => { c with stepped := c.stepped.map ((blk, 2 ^ 20 + cx) :: ·) }) with cur := Cursor.idle }, x)

/-- The slots that a breakpoint holds back (R386, R387): those it names, and the F slot. -/
def Ctx.heldSlots (c : Ctx) (bp : Option Nat) : List Nat :=
  match bp with
  | none => []
  | some i => (List.range 8).filter fun n => (c.bpSlots i).getLsbD n || n == 7
/-- A bundle that comes to issue for the first time, or again after an early fault with the slots `done` marked by the handler. At a drain
point the hold for the context's copies comes before the checks of R54. -/
def freshBundle (run : Instr → State → Outcome State Fault Refusal) (blk cx : Nat) (b : Block) (done : BitVec 8) (s : State) : Turned :=
  let replay := b.tile.loops ≠ [] && b.tile.lbuf.any fun e => e.1 == b.tile.baddr.toNat / 4
  match s.fetchBundle b blk done with
  | .error (n, e) => (s.earlyStop blk b n done e, none)
  | .ok (u, s1) =>
    if u.hdr.dp && s1.copiesPending b blk then (s1.modBlock blk fun b => { b with tile := { b.tile with wait := some .drain } }, none)
    else
      let cur : Cursor := { Cursor.idle with blk, pc := b.gate.getD 0#56, baddr := b.tile.baddr, scope := u.hdr.scope.getD .core }
      let s2 : State := if u.hdr.dp then ({ s1 with cur := { cur with slot := 6 } } : State).observeCopies blk (List.range 8) else { s1 with cur }
      match s2.cur.tileFault, if u.hdr.dp then none else delayFault b.tile u with
      | some (_, r), _ => ({ s2.freezeTile blk (b.earlyFreeze done r) with cur := Cursor.idle }, none)
      | none, some n => (s2.earlyStop blk b n done (stopBare .ill), none)
      | none, none =>
        if u.hdr.dp && (b.tile.fly ≠ [] || b.tile.arrivals ≠ [] || b.tile.delay.isSome) then (s2.earlyStop blk b 9 done (stopBare .ill), none)
        else if u.hdr.dp && b.preempt.isSome then
          ({ (s2.modBlock blk fun b => { b with tile := { b.tile with wait := some .drain } }) with cur := Cursor.idle }, none)
        else
          let bp := (s2.ctx b.slot).bpMatch true b.tile.baddr (if replay then b.tile.exempt else 0#8)
          let all := (effective b.tile u b.accTiles).filter fun x => !done.getLsbD x.1
          let heldBack := (s2.ctx b.slot).heldSlots bp
          let r := runSlots run blk cur s2 ((all.filter fun x => !heldBack.contains x.1).map fun x => (x.1, x.2.2))
          s2.endStep run blk cx b cur u.header all done heldBack bp r (b.tile, b.regImage)

/-- The entries that differ from an older table, put into another. -/
def Tbl.carry {α : Type} [DecidableEq α] (d : α) (old new into : Tbl α) : Tbl α :=
  ((old ++ new).map Prod.fst).foldl (fun t k => if Tbl.get d old k = Tbl.get d new k then t else Tbl.put d t k (Tbl.get d new k)) into
/-- The tile words that an open step latched (R372), but for KARR, CARR and the model's own word of each tile, which are no operands: they
stand as the context has them now (R209). -/
def Freeze.tileWords (z : Freeze) (now_ : Tbl W32) : Tbl W32 :=
  (List.range 64).foldl (fun a t => [1, 2, 3].foldl (fun a i => Tbl.put 0#32 a (accSide t i) (Tbl.get 0#32 now_ (accSide t i))) a) z.tile.acc
/-- A block with the operands that an open step latched (R372, R374): scalars, predicates, streams, banks, masks and mode, accumulator tiles,
and the registers of its threads; for a slot of the array or the tile vector unit also the rings, which place its rows. -/
def Freeze.latched (z : Freeze) (slot : Nat) (b : Block) : Block :=
  let x := z.tile
  { b with
    tile := { b.tile with k := x.k, q := x.q, s := x.s, bank0 := x.bank0, bank1 := x.bank1, bankSel := x.bankSel, rm := x.rm, cm := x.cm, dc := x.dc,
                          af := x.af, wf := x.wf, c := if slot = 4 || slot = 5 then x.c else b.tile.c, acc := z.tileWords b.tile.acc }
    threads := b.threads.zipIdx.map fun t => { t.1 with regs := z.viewRegs.getD t.2 t.1.regs } }
/-- What a slot has left in a block that had the latched operands, taken over into the block as it stood. -/
def Freeze.unlatch (z : Freeze) (b c : Block) : Block :=
  let x := b.tile
  { c with
    tile := { c.tile with k := x.k, q := x.q, s := x.s, bank0 := x.bank0, bank1 := x.bank1, bankSel := x.bankSel, rm := x.rm, cm := x.cm, dc := x.dc,
                          af := x.af, wf := x.wf, c := x.c, acc := Tbl.carry 0#32 (z.tileWords x.acc) c.tile.acc x.acc }
    threads := c.threads.zipIdx.map fun t => { t.1 with regs := ((b.threads[t.2]?).map (·.regs)).getD t.1.regs } }
/-- A not-done slot reissued (R374): with the operands latched at its step; memory and channels are read afresh, and the
rings by the slots that wait for them. -/
def reissue (run : Instr → State → Outcome State Fault Refusal) (blk : Nat) (z : Freeze) (i : Instr) (s : State) : Outcome State Fault Refusal :=
  match s.block blk with
  | none => .next s
  | some b =>
    match run i (s.modBlock blk (z.latched s.cur.slot)) with
    | .next s1 => .next (s1.modBlock blk (z.unlatch b))
    | .fault f => .fault f
    | .refused r => .refused r
/-- An open step goes on (R374): its not-done slots are reissued. A breakpoint that the fault kept from matching matches now, and holds back
the slots that it names (R387, R395). -/
def resumeBundle (run : Instr → State → Outcome State Fault Refusal) (blk cx : Nat) (b : Block) (z : Freeze) (s : State) : Turned :=
  let cur : Cursor := { Cursor.idle with blk, pc := b.gate.getD 0#56, baddr := z.baddr, scope := ((decodeHeader z.header).bind (·.1.scope)).getD .core }
  let bp := if z.brk || z.done = 0xFF#8 then none else (s.ctx b.slot).bpMatch true z.baddr
  let all := z.words.filterMap fun x => match decodeWord b.accTiles true x.1 x.2 with | .ok i => some (x.1, x.2, i) | .error _ => none
  let heldBack := (s.ctx b.slot).heldSlots bp
  let open_ := (all.filter fun x => !z.done.getLsbD x.1 && !heldBack.contains x.1).map fun x => (x.1, x.2.2)
  let r := runSlots (reissue run blk z) blk cur s open_
  s.endStep (reissue run blk z) blk cx b cur z.header all z.done heldBack bp r (z.tile, z.viewRegs)

/-- A bundle of a skipped body passed over (R186): only its header is looked at, and no step is taken. It counts in the loops round it: where it
is the last of an outer body, that loop's count is tested there (R187). -/
def State.skipBundle (s : State) (blk : Nat) (b : Block) : State :=
  match s.fetchKeeper b blk b.tile.baddr with
  | .error e => s.earlyStop blk b 9 0#8 e
  | .ok (h, s1) =>
    match decodeHeader h with
    | none => s1.earlyStop blk b 9 0#8 (stopBare .ill)
    | some _ => s1.modBlock blk fun b =>
        { b with tile := { b.tile.advanceLoops (b.tile.baddr + BitVec.ofNat 56 (bundleLen h)) with skip := b.tile.skip - 1 } }

/-- A wait that keeps a context from its next bundle: none when the entry of a channel that it waited for is granted to it. -/
def Tile.holds (x : Tile) : Bool :=
  match x.wait with
  | none | some (.granted _) => false
  | some _ => true
/-- The bundle at which a context stands (R53, R186): of a skipped body it is passed over. -/
def State.standingBundle (s : State) (run : Instr → State → Outcome State Fault Refusal) (blk cx : Nat) (b : Block) (done : BitVec 8) : Turned :=
  if b.tile.skip ≠ 0 then ((s.modBlock blk fun b => { b with freeze := none }).skipBundle blk b, none) else freshBundle run blk cx b done s
/-- The next bundle of a context, or its open step (R53, R374). -/
def State.nextBundle (s : State) (run : Instr → State → Outcome State Fault Refusal) (blk cx : Nat) (b : Block) : Turned :=
  match b.freeze with
  | none => s.standingBundle run blk cx b 0#8
  | some z =>
    if z.late then (s.modBlock blk fun b => { b with freeze := none }, none)
    else if z.early then s.standingBundle run blk cx b z.done
    else resumeBundle run blk cx b z s
/-- A context's turn in step mode (R393): the step may have ended. -/
def State.endTileStep (s : State) (b : Block) : State :=
  if (s.ctx b.slot).stepped.isNone then s else s.stepDone b.slot (s.tileStopRec b 5 0 15 b.tile.baddr)
/-- A tile context selected by the merge stage (R53). A fault of its bundle comes before a late BSY at the same step (R384). -/
def issueTile (run : Instr → State → Outcome State Fault Refusal) (core cx : Nat) (s : State) : Outcome State Fault Refusal :=
  match s.tileAt core cx with
  | none => .next (s.chargeNoStep core cx)
  | some (blk, b) =>
    let idle := s.chargeNoStep core cx
    if (s.ctx b.slot).stopsTile || (b.life ≠ .running && b.life ≠ .resident) || b.tile.holds then .next idle
    else if (s.ctx b.slot).stepped.any fun l => l.contains (blk, 2 ^ 20 + cx) then
      .next (idle.stopHit b.slot (s.tileStopRec b 5 0 15 b.tile.baddr))
    else if s.upsetIn blk [none] then .next (idle.killUpset b blk [none] (b.gate.getD 0#56))
    else
      let s1 := (s.modBlock blk fun b => { b with life := .running, tile := { b.tile with wait := none } }).stepStart blk
      match s1.block blk with
      | none => .next s1
      | some b1 =>
        if b1.life ≠ .running || (s1.ctx b1.slot).stopsTile then .next (s1.chargeNoStep core cx)
        else
          let n := b1.tile.step
          let s2 := s1.nextBundle run blk cx b1
          let s3 : Turned := match s1.lateArrival blk with
            | none => s2
            | some s3 => if (s2.1.block blk).any (fun b => b.life == .frozen) then s2 else (s3, none)
          .next ((s3.1.chargeTurn b1 blk cx s3.2 !((s3.1.block blk).any fun b => b.tile.step == n)).endTileStep b1)

end Sys2Proof.Machine
end

