-- ==== Sys2Proof/Machine/Windows.lean ====
section
/-! DEFINITION. Scratchpad windows (11_memory_instructions.md R285, 09_memory_model.md R233, R234) and cast windows
(R286, R287, 09_memory_model.md R238, 20_system_recovery.md R410). -/

namespace Sys2Proof.Machine

open Host (Outcome)

/-! ### Windows -/

/-- The checks of a window's address (R285): in the block's allocation and aligned to 128; its offset. -/
def windowAddr (b : Block) (va : Nat) : Except Stop Nat :=
  let x := va % 2 ^ 20
  if va / 2 ^ 56 ≠ 0 then .error (xlatAt 3 va)
  else if va % 128 ≠ 0 then .error (stopAt .align va)
  else if va / 2 ^ 20 ≠ 0x00FF000000000000 / 2 ^ 20 || b.scrLen = 0 || x < b.scrOff || b.scrOff + b.scrLen < x + 128 then
    .error (stopAt .scr va)
  else .ok x
/-- The address at which cluster peers reach a window (R342). -/
def peerAddr (core off : Nat) : W64 := BitVec.ofNat 64 (0x00FF010000000000 + core % 8 * 2 ^ 20 + off)
/-- A window opened: an open one changes its bit. -/
def openWindow (l : List Window) (off : Nat) (sw : Bool) : List Window := { off, sw } :: l.filter fun w => w.off != off

/-- `wopen` (R285): a 17th window raises BSY. -/
def execWopen (o : R2f) (s : State) : Outcome State Fault Refusal :=
  match s.block s.cur.blk with
  | none => .next s
  | some b =>
    let va (t : Thread) : Nat := (t.get64 o.a.toNat).toNat
    let addrs := (s.actors o.g).filterMap fun x => (windowAddr b (va x.2)).toOption.map fun f => (x.1, f)
    let check (tid : Nat) (t : Thread) : Except Stop Unit :=
      match windowAddr b (va t) with
      | .error e => .error e
      | .ok _ =>
        let upTo := (addrs.take ((addrs.findIdx fun x => x.1 == tid) + 1)).map Prod.snd
        if 16 < (b.windows.map (·.off) ++ upTo).dedup.length then .error (stopBare .bsy) else .ok ()
    guarded s o.g (s.laneErrors o.g check) fun s =>
      (s.modBlock s.cur.blk fun b => { b with windows := addrs.foldl (fun l x => openWindow l x.2 o.f) b.windows }).lanes o.g
        fun _ t => t.set64 o.d.toNat (peerAddr b.core (va t % 2 ^ 20))
/-- A write that the context of another block has in flight goes to one of some windows of a block, given by their offsets (R234, R240). -/
def State.windowsBusy (s : State) (blk : Nat) (b : Block) (offs : List Nat) : Bool :=
  s.blocks.any fun e => e.1 != blk && e.2.any fun y => y.tile.fly.any fun l =>
    match l.eff with
    | .mem out => out.any fun o => offs.any fun x => scrLoc b.core x ≤ o.2.1 && o.2.1 < scrLoc b.core x + 128
    | _ => false
/-- `wclose` (R285, R234): ARG on a window that is not open. It waits for the writes of other contexts that are in flight to the window
(log 72). -/
def execWclose (o : RegOp) (s : State) : Outcome State Fault Refusal :=
  match s.block s.cur.blk with
  | none => .next s
  | some b =>
    let va (t : Thread) : Nat := (t.get64 o.a.toNat).toNat
    let check (_ : Nat) (t : Thread) : Except Stop Unit :=
      match windowAddr b (va t) with
      | .error e => .error e
      | .ok x => if b.windows.any fun w => w.off == x then .ok () else .error (stopBare .arg)
    guarded s o.g (s.laneErrors o.g check) fun s =>
      let offs := (s.actors o.g).map fun x => va x.2 % 2 ^ 20
      if s.windowsBusy s.cur.blk b offs then s
      else (s.modBlock s.cur.blk fun b => { b with windows := b.windows.filter fun w => !offs.contains w.off }).lanes o.g fun _ t => t

/-! ### Cast subscriptions -/

/-- The copies of a window on this device (R287). -/
def State.copiesOf (s : State) (h : W32) : List Sub := s.ctxs.flatMap fun e => e.2.subs.filter fun x => x.handle == h
/-- The handle of a flit that a cast window's writes send. -/
def Flit.handle? : Flit → Option W32
  | .castWrite h _ _ | .version h _ => some h
  | .request _ _ _ | .response _ _ _ | .heartbeat _ | .subscribe _ | .unsubscribe _ => none
/-- Data of a window at an offset, written to the same offset of every copy (R286). -/
def State.castData (s : State) (h : W32) (off : Nat) (data : List Byte) : State :=
  (s.copiesOf h).foldl (fun s x => if off + data.length ≤ x.size then s.store (x.base + off) data else s) s
/-- A version of a window, written to every copy (R238). -/
def State.castVersion (s : State) (h v : W32) : State := (s.copiesOf h).foldl (fun s x => s.store x.base (leBytes 4 v.toNat)) s
/-- Every delivery in flight of a window to the copies of this device performs (R287). -/
def State.flushCasts (s : State) (h : W32) : State :=
  (s.casting.filter fun x => x.handle? == some h).foldl (fun s x =>
    match x with
    | .castWrite h off data => s.castData h off data
    | .version h v => s.castVersion h v
    | .request _ _ _ | .response _ _ _ | .heartbeat _ | .subscribe _ | .unsubscribe _ => s)
    { s with casting := s.casting.filter fun x => x.handle? != some h }

/-- The entry of a context's cast table that lets it subscribe to a handle (R287, R343). Entries are looked at in order, and one at an
address that R321 refuses raises XLAT with cause 4 (log 82). -/
def castGrant (fabricNum : Nat) (h : W32) : List (Option (BitVec 128)) → Except Stop Nat
  | [] => .error (stopBare .prot)
  | none :: _ => .error (xlatAt 4 0)
  | some v :: l =>
    match castEntry fabricNum v.toNat with
    | some (k, _, true, z, _) => if k = h then .ok z else castGrant fabricNum h l
    | some (_, _, false, _, _) | none => castGrant fabricNum h l
/-- The checks of `subsc` (R287, R343): a valid entry with SUB = 1 for the handle (PROT), the base's alignment to Z (ALIGN), a base
in this device's DRAM (PROT), and room (BSY). R287 does not say whether the base is a virtual address: the model takes pair B as a
physical one, as the fabric's delivery does (log 82). -/
def State.subscCheck (s : State) (b : Block) (h : W32) (base : Nat) : Except Stop Nat :=
  let c := s.ctx b.slot
  match castGrant s.fabricNum h c.casts with
  | .error e => .error e
  | .ok z =>
    if base % z ≠ 0 then .error (stopAt .align base)
    else if !paDram base || !paDram (base + z - 1) then .error (stopAt .prot base)
    else if (c.subs.any fun x => x.handle == h) || 64 ≤ c.subs.length then .error (stopBare .bsy)
    else .ok z
/-- The version word of a window that this device produces, as the fabric joins a subscriber to it (R287); of a window of another
device, a free value (log 6). -/
def State.joinVersion (s : State) (h : W32) : W32 × State :=
  match (s.ctxs.flatMap fun e => s.produced e.2).find? fun w => w.handle == h with
  | some w => (BitVec.ofNat 32 (s.word w.base 4), s)
  | none => s.fresh 32
/-- A subscription made (R287): the version at the moment of joining goes to the copy and to d. -/
def State.subscribe (s : State) (b : Block) (core : Nat) (h : W32) (base z : Nat) : W32 × State :=
  let x := s.joinVersion h
  (x.1, ((({ x.2 with flitsOut := x.2.flitsOut ++ x.2.sent [.subscribe h] } : State).modCtx b.slot fun c =>
    { c with subs := c.subs ++ [{ handle := h, base, size := z }] }).homeStore core base (leBytes 4 x.1.toNat)))

/-- Lanes that perform one by one in order of `$lane`, a later lane checked against what the earlier ones did; none commits when
one fails (R151). -/
def laneFold (s : State) (g : Guard) (f : State → Nat → Thread → Except Stop (State × Thread)) : Outcome State Fault Refusal :=
  let x := (s.actors g).foldl (fun (acc : State × List (Nat × Stop)) y =>
    match f acc.1 y.1 y.2 with
    | .ok (s1, t1) => (s1.modThread s.cur.blk y.1 fun _ => t1, acc.2)
    | .error e => (acc.1, acc.2 ++ [(y.1, e)])) (s, [])
  guarded s g x.2 fun _ => x.1.onLanes fun _ t => t.advance

/-- `subsc` (R287): what was written before is not delivered to the new copy. -/
def execSubsc (o : R3) (s : State) : Outcome State Fault Refusal :=
  match s.block s.cur.blk with
  | none => .next s
  | some b =>
    laneFold s o.g fun s _ t =>
      let h := t.get o.a.toNat
      let base := (t.get64 o.b.toNat).toNat
      match s.subscCheck b h base with
      | .error e => .error e
      | .ok z =>
        let y := (s.flushCasts h).subscribe b b.core h base z
        .ok (y.2, t.set o.d.toNat y.1)
/-- `unsubsc` (R287): ARG if the context is not subscribed; the deliveries in flight perform first. -/
def execUnsubsc (o : RegOp) (s : State) : Outcome State Fault Refusal :=
  match s.block s.cur.blk with
  | none => .next s
  | some b =>
    laneFold s o.g fun s _ t =>
      let h := t.get o.a.toNat
      if (s.ctx b.slot).subs.any fun x => x.handle == h then
        let s1 := s.flushCasts h
        .ok (({ s1 with flitsOut := s1.flitsOut ++ s1.sent [.unsubscribe h] } : State).modCtx b.slot fun c =>
          { c with subs := c.subs.filter fun x => x.handle != h }, t)
      else .error (stopBare .arg)

/-- A lane of `vwait` (R287, R238, log 25): the copy's version has reached b, its timeout has passed, or it waits. -/
def vwaitLane (o : VwaitOp) (v : W32) (clock : Nat) (t : Thread) : Thread :=
  if (v - t.get o.b.toNat).msb = false then ((t.set o.d.toNat v).set (o.d.toNat + 1) 0#32).endWait
  else if t.late clock then ((t.set o.d.toNat v).set (o.d.toNat + 1) 1#32).endWait
  else { t.arm clock (t.get o.c.toNat) with status := .waiting (.vwait (t.get o.a.toNat) (t.get o.b.toNat)) }
/-- The read of a copy's version (R287, R383): an uncorrectable error or poison in it faults. -/
def State.versionRead (s : State) (x : Sub) : Except Stop W32 :=
  if s.poisoned x.base 4 then .error (s.poisAt 0 x.base 4)
  else if s.badRange x.base 4 then .error (s.eccAt 0 x.base 4)
  else .ok (BitVec.ofNat 32 (leNat (s.homeBytes x.base 4)))
/-- `vwait` (R287): without a subscription ARG (log 27); with TF = 1 a timeout raises RING with the handle in the detail word. A lane that
goes on has read the version at its home: the core keeps no older line of it (R225). -/
def execVwait (o : VwaitOp) (s : State) : Outcome State Fault Refusal :=
  match s.block s.cur.blk with
  | none => .next s
  | some b =>
    let sub (t : Thread) : Option Sub := (s.ctx b.slot).subs.find? fun x => x.handle == t.get o.a.toNat
    let ver (x : Sub) : W32 := BitVec.ofNat 32 (leNat (s.homeBytes x.base 4))
    let check (_ : Nat) (t : Thread) : Except Stop Unit :=
      match sub t with
      | none => .error (stopBare .arg)
      | some x =>
        match s.versionRead x with
        | .error e => .error e
        | .ok v =>
          if o.tf && t.late s.clock && (v - t.get o.b.toNat).msb then .error (.fault .ring 0 0 0 (t.get o.a.toNat).toNat) else .ok ()
    guarded s o.g (s.laneErrors o.g check) fun s =>
      let come (y : Nat × Thread) (x : Sub) : Bool := !(ver x - y.2.get o.b.toNat).msb
      let seen := (s.actors o.g).filter fun y => (sub y.2).any (come y)
      let on := (s.actors o.g).filterMap fun y => (sub y.2).bind fun x => if come y x || y.2.late s.clock then some (y.1, x) else none
      let s1 := on.foldl (fun (s : State) y => s.dropClean b.core y.2.base) (s.acquires b.core .fabric seen.length)
      (s1.watch b (on.map fun y => { va := none, pa := y.2.base, n := 4, rd := true, wr := false, eng := false, who := y.1 })).onLanes fun _ t =>
        if !t.guard o.g then t.advance
        else
          match sub t with
          | none => t.advance
          | some x => vwaitLane o (ver x) s.clock t
/-- A wait for a version. -/
def Wait.isVwait : Wait → Bool
  | .vwait _ _ => true
  | .bar | .rejoin | .gate | .tileBar _ | .barw _ _ | .mem _ _ _ | .queue _ _ _ | .cwait _ _ | .idle _ | .tba _ | .basin _ _ _ => false
/-- The version that a `vwait` of a context slot waits for has come (R287), or its subscription has ended. -/
def State.vwaitOver (s : State) (slot : Nat) (w : Wait) : Bool :=
  match w with
  | .vwait h v =>
    match (s.ctx slot).subs.find? fun x => x.handle == h with
    | none => true
    | some x => !(BitVec.ofNat 32 (leNat (s.homeBytes x.base 4)) - v).msb
  | .bar | .rejoin | .gate | .tileBar _ | .barw _ _ | .mem _ _ _ | .queue _ _ _ | .cwait _ _ | .idle _ | .tba _ | .basin _ _ _ => false
/-- VWAIT_WAKE (R287): the copy's version has come, and the waiting lane looks at it again. -/
def execVwaitWake (blk tid : Nat) (s : State) : Outcome State Fault Refusal :=
  match s.block blk with
  | none => .next s
  | some b => .next (s.modThread blk tid (·.wakeIf (s.vwaitOver b.slot)))
/-- VWAIT_TIMEOUT (R287). -/
def execVwaitTimeout (blk tid : Nat) (s : State) : Outcome State Fault Refusal :=
  .next (s.modThread blk tid (·.expire Wait.isVwait s.clock))

/-- A flit of a window is delivered before a later one of the same window (R238): a data write before any, a version advance before a version
advance. -/
def Flit.precedes (x y : Flit) : Bool :=
  x.handle? == y.handle? &&
  (match x, y with
   | .version _ _, .castWrite _ _ _ => false
   | _, _ => true)
/-- The window is produced by this device (R343). -/
def State.ownWindow (s : State) (h : W32) : Bool := h.toNat / 2 ^ 22 == s.fabricNum
/-- A delivery into the copies of this device, removed from those pending when this device produces the window (R238): then it performs only
when it is pending and none that precedes it is. One from another device needs a route (R411). -/
def State.deliver (s : State) (h : W32) (x : Flit) (f : State → State) : State :=
  if !s.ownWindow h then (if s.route.isSome then f s else s)
  else
    let before := s.casting.takeWhile (· != x)
    if !s.casting.contains x || before.any (·.precedes x) then s
    else f { s with casting := s.casting.erase x }
/-- CAST_WRITE_FLIT (R410, R286): data of a window at an offset, at most a flit's payload, written to the same offset of every copy. -/
def execCastWriteFlit (h : W32) (off : Nat) (data : List Byte) (s : State) : Outcome State Fault Refusal :=
  .next (if 232 < data.length then s else s.deliver h (.castWrite h off data) fun s => s.castData h off data)
/-- VERSION_ADVANCE_FLIT (R238): the version word of every copy, after all data sent before it. -/
def execVersionAdvanceFlit (h v : W32) (s : State) : Outcome State Fault Refusal :=
  .next (s.deliver h (.version h v) fun s => s.castVersion h v)

end Sys2Proof.Machine
end

