-- ==== Sys2Proof/Machine/Frames.lean ====
section
/-! DEFINITION. Block frames (17_faults_preemption.md R376-R379): what pre-emption saves, the snapshot of a frozen context, and
what resumption reads back. -/

namespace Sys2Proof.Machine

open Host (Outcome)

/-! ### Images (R377) -/

/-- The X state of a context (R377). -/
def xImage (x : Tile) : Nat :=
  x.af.toNat + x.wf.toNat * 2 ^ 4 + x.pi.toNat * 2 ^ 8 + x.dc.toNat * 2 ^ 16 + x.cm.toNat * 2 ^ 32 + x.rm.toNat * 2 ^ 64 +
    (!x.bankSel).toNat * 2 ^ 96
/-- The loop table of a context, 16 bytes per level (R377). -/
def loopImage (x : Tile) : List Byte :=
  (List.range 6).flatMap fun i =>
    match x.loops.find? fun l => l.level == i with
    | none => leBytes 16 0
    | some l => leBytes 16 (1 + l.first.toNat * 2 ^ 64 + l.len % 256 * 2 ^ 120)
/-- The loops of a context after resumption: the entries of the image, each at the place in its body that the context had (log 14). -/
def loopRestore (img : List Byte) (x : Tile) : List Loop :=
  (x.loops.filterMap fun l =>
    let v := leNat ((img.drop (16 * l.level)).take 16)
    if v % 2 = 1 then some { l with first := BitVec.ofNat 56 (v / 2 ^ 64), len := v / 2 ^ 120 % 256 } else none) ++
  (List.range 6).filterMap fun i =>
    let v := leNat ((img.drop (16 * i)).take 16)
    if v % 2 = 1 && !(x.loops.any fun l => l.level == i) then
      some { level := i, len := v / 2 ^ 120 % 256, idx := 0, first := BitVec.ofNat 56 (v / 2 ^ 64) }
    else none
/-- A thread's record (R377): ST is 0 active, 1 exited, 2 in a basin, 3 asleep. -/
def threadImage (t : Thread) : List Byte :=
  let st := match t.status with
    | .exited => 1
    | .asleep => 3
    | .waiting (.basin _ _ _) => 2
    | .active | .waiting _ | .stalled _ => 0
  leBytes 32 (t.pc.toNat + ((t.preds ||| 1#16).toNat * 2 ^ 64) + t.flags.toNat * 2 ^ 80 + st * 2 ^ 85 + t.home.toNat * 2 ^ 88 +
    t.nest.toNat * 2 ^ 89 + t.sys.toNat * 2 ^ 93 + t.amax.toNat * 2 ^ 96)
/-- An accumulator tile (R377): 32 rows, the side words, amax, KARR and CARR. -/
def tileImage (x : Tile) (t : Nat) : List Byte :=
  ((List.range 32).flatMap fun r => (List.range 32).flatMap fun c => leBytes 4 (x.accWord (accIdx t r c)).toNat) ++
  ((List.range 32).flatMap fun r => (List.range 2).flatMap fun w => leBytes 4 (x.accWord (accIdx t r (32 + w))).toNat) ++
  leBytes 4 (x.accWord (accSide t 0)).toNat ++ leBytes 2 (x.accWord (accSide t 1)).toNat ++ leBytes 2 (x.accWord (accSide t 2)).toNat ++
  leBytes 248 0
/-- The words of tile t read from its image. -/
def tileRestore (t : Nat) (l : List Byte) (acc : Tbl W32) : Tbl W32 :=
  let w (off n : Nat) : W32 := BitVec.ofNat 32 (leNat ((l.drop off).take n))
  let a1 := (List.range 32).foldl (fun a r => (List.range 32).foldl (fun a c => Tbl.put 0#32 a (accIdx t r c) (w (128 * r + 4 * c) 4)) a) acc
  let a2 := (List.range 32).foldl (fun a r => (List.range 2).foldl (fun a k => Tbl.put 0#32 a (accIdx t r (32 + k)) (w (0x1000 + 8 * r + 4 * k) 4)) a) a1
  Tbl.put 0#32 (Tbl.put 0#32 (Tbl.put 0#32 a2 (accSide t 0) (w 0x1100 4)) (accSide t 1) (w 0x1104 2)) (accSide t 2) (w 0x1106 2)

/-! ### The snapshot (R378) -/

/-- The kind of an effect in flight (R378). -/
def Effect.kind : Effect → Nat
  | .k _ _ | .q _ _ | .stream _ _ _ | .advance _ _ | .baseAdd _ _ | .ring _ _ | .ringFill _ _ | .ringEmpty _ _ => 1
  | .beat _ _ _ _ => 2
  | .tile _ _ | .amax _ _ | .view _ _ => 3
  | .mem _ => 4
  | .push _ _ _ => 5
  | .swap | .mask _ _ _ | .mode _ _ | .xState _ => 6
/-- The destination code of an effect (R378): a view has the operand code 64 + n (R179). -/
def Effect.dest : Effect → Nat
  | .k r _ => r.toNat
  | .q r _ => r.toNat
  | .stream r _ _ => r.toNat
  | .advance r _ => r.toNat
  | .baseAdd r _ => r.toNat
  | .ring r _ => r.toNat
  | .ringFill r _ => r.toNat
  | .ringEmpty r _ => r.toNat
  | .push b _ _ => b.toNat
  | .swap | .mask _ _ _ | .mode _ _ | .xState _ | .mem _ => 0
  | .beat _ t _ _ => t
  | .tile t _ => t
  | .amax t _ => t
  | .view v _ => 64 + v
/-- The address or row index of an effect (R378). -/
def Effect.place : Effect → Nat
  | .beat _ _ r _ => r
  | .push _ j _ => j
  | .mem ((va, _, _) :: _) => va
  | .mem [] | .k _ _ | .q _ _ | .stream _ _ _ | .advance _ _ | .baseAdd _ _ | .ring _ _ | .ringFill _ _ | .ringEmpty _ _ | .swap | .mask _ _ _
  | .mode _ _ | .xState _ | .tile _ _ | .amax _ _ | .view _ _ => 0
/-- Values of n places, of w bytes each, given by place, and the mask of the places given. -/
def maskedBytes (n w : Nat) (l : List (Nat × Nat)) : List Byte :=
  ((List.range n).flatMap fun i => leBytes w (((l.find? fun o => o.1 == i).map Prod.snd).getD 0)) ++
  leBytes ((n + 7) / 8) (l.foldl (fun m o => m ||| 2 ^ o.1) 0)
/-- The places of a mask and their values, read back. -/
def unmasked (n w : Nat) (bs : List Byte) : List (Nat × Nat) :=
  let m := leNat (bs.drop (n * w))
  (List.range n).filterMap fun i => if m / 2 ^ i % 2 = 1 then some (i, leNat ((bs.drop (w * i)).take w)) else none
/-- The bytes that the elements of a view take. -/
def Tile.viewBytes (x : Tile) (n : Nat) : Nat := if (Tbl.get none x.views n).any View.wide then 4 else 2
/-- The payload of an effect in flight (R378, log 14): `x` is the context as the effect finds it when it lands. -/
def Effect.payload (x : Tile) (e : Effect) : List Byte :=
  let after := (x.apply 0 { at_ := 0, issued := 0, slot := 0, baddr := 0#56, eff := e, fl := 0#5 }).1
  match e with
  | .k _ v => leBytes 8 v.toNat
  | .q _ v => leBytes 1 v.toNat
  | .stream r _ _ | .advance r _ | .baseAdd r _ => leBytes 32 (after.sraw r).toNat
  | .ring r _ | .ringFill r _ | .ringEmpty r _ => leBytes 32 (after.craw r).toNat
  | .beat _ _ _ out => maskedBytes 32 4 (out.map fun o => (o.1, o.2.toNat))
  | .tile t out => maskedBytes 1088 4 (out.map fun o => (o.1 - 2048 * t, o.2.toNat))
  | .amax _ v => leBytes 4 v.toNat
  | .view n out => maskedBytes 1024 (x.viewBytes n) (out.map fun o => (32 * o.1 + o.2.1, o.2.2))
  | .mem out =>
    let va := e.place
    maskedBytes (out.foldl (fun n o => Nat.max n (o.1 - va + 1)) 0) 1 (out.map fun o => (o.1 - va, o.2.2.toNat))
  | .push _ _ col => leBytes 640 (colImage col).toNat
  | .swap | .mask _ _ _ | .mode _ _ | .xState _ => leBytes 32 (xImage after)
/-- An effect with the payload that its entry holds on resumption (R379): one that the payload does not change stays as it is. -/
def Effect.withPayload (x : Tile) (bs : List Byte) (e : Effect) : Effect :=
  if e.payload x = bs then e
  else
    match e with
    | .k r _ => .k r (BitVec.ofNat 64 (leNat bs))
    | .q r _ => .q r (leNat bs % 2 == 1)
    | .stream r _ _ | .advance r _ | .baseAdd r _ => .stream r (BitVec.allOnes 256) (BitVec.ofNat 256 (leNat bs))
    | .ring r _ | .ringFill r _ | .ringEmpty r _ => .ring r (BitVec.ofNat 256 (leNat bs))
    | .beat a t r _ => .beat a t r ((unmasked 32 4 bs).map fun o => (o.1, BitVec.ofNat 32 o.2))
    | .tile t _ => .tile t ((unmasked 1088 4 bs).map fun o => (2048 * t + o.1, BitVec.ofNat 32 o.2))
    | .amax t _ => .amax t (BitVec.ofNat 32 (leNat bs))
    | .view n _ => .view n ((unmasked 1024 (x.viewBytes n) bs).map fun o => (o.1 / 32, o.1 % 32, o.2))
    | .mem out =>
      let va := e.place
      let l := unmasked (out.foldl (fun n o => Nat.max n (o.1 - va + 1)) 0) 1 bs
      .mem (out.filterMap fun o => (l.find? fun y => y.1 == o.1 - va).map fun y => (o.1, o.2.1, BitVec.ofNat 8 y.2))
    | .push b j col => .push b j (colRestore (tyAt x.wf) col (leNat bs))
    | .swap | .mask _ _ _ | .mode _ _ | .xState _ => .xState (leNat bs)

/-- An entry of a snapshot (R378). -/
structure Entry where
  kind : Nat
  slot : Nat
  rem : Nat
  dest : Nat
  addr : Nat
  data : List Byte
  deriving DecidableEq, Repr
/-- An entry's header and payload. -/
def Entry.bytes (e : Entry) : List Byte :=
  leBytes 16 (e.kind + e.slot * 2 ^ 8 + e.rem * 2 ^ 16 + e.data.length * 2 ^ 32 + e.dest * 2 ^ 48 + e.addr * 2 ^ 64) ++ e.data
/-- The entry of an operation in flight: `now_` is the context as it stands, `x` as the operation finds it. -/
def Landing.entry (now_ x : Tile) (l : Landing) : Entry :=
  { kind := l.eff.kind, slot := l.slot, rem := l.at_ - now_.step, dest := l.eff.dest, addr := l.eff.place, data := l.eff.payload x }
/-- The entries of the operations in flight, in the order in which they land (R155). -/
def Tile.entries (now_ : Tile) (x : Tile) : List Landing → List Entry
  | [] => []
  | l :: r => l.entry now_ x :: Tile.entries now_ (x.apply 0 l).1 r

/-- The views that a slot instruction reads. -/
def viewsOf (i : Instr) : List Nat :=
  let opnd (c : BitVec 7) : List Nat := if 64 ≤ c.toNat then [c.toNat - 64] else []
  match i with
  | .yadd o => opnd o.a ++ opnd o.b
  | .ymul o => opnd o.a ++ opnd o.b
  | .yrsc o => opnd o.a
  | .yexp o => opnd o.a
  | .yrmax o => opnd o.a
  | .yrsum o => opnd o.a
  | .ymov o => opnd o.a
  | .ytr o => opnd o.a
  | .ycvt o => opnd o.a
  | _ => []
/-- The scalars that a slot instruction reads. -/
def kReads (i : Instr) : List KReg :=
  let op (o : KOp) : List KReg := if o.i then [o.a] else [o.a, o.b]
  match i with
  | .kadd o => op o
  | .ksub o => op o
  | .kmul o => op o
  | .kand o => op o
  | .kor o => op o
  | .kxor o => op o
  | .kshl o => op o
  | .kshr o => op o
  | .kmin o => op o
  | .kmax o => op o
  | .kaddi o => [o.a]
  | .kcmp o => if o.i then [o.a] else [o.a, o.b]
  | .ksel o => [o.a, o.b]
  | .kld o => [o.a]
  | .kst o => [o.a, o.d]
  | .scfg o => [o.a]
  | .sbase o => [o.a]
  | .sadvB o => [o.a]
  | .sgbt o => [o.a]
  | .smask o => [o.a]
  | .cbi o => [o.a, o.b]
  | .sscale o => [o.a]
  | .xmask o => [o.a]
  | .smst o => [o.b]
  | .ccpy o => [o.a]
  | .ccpn o => [o.a]
  | .ccpnRing o => [o.a]
  | .cgath o => [o.a]
  | .cscat o => [o.a]
  | .fbr o => [o.a]
  | .fjmpIndirect o => [o.a]
  | .fret o => [o.a]
  | .floop o => [o.c]
  | _ => []
/-- The stream registers that a slot instruction reads. -/
def sReads (i : Instr) : List SReg :=
  match i with
  | .sadv o => [o.s]
  | .sadvB o => [o.s]
  | .sgbt o => [o.s]
  | .sropeAdj o => [o.s, o.f]
  | .sropeHalf o => [o.s, o.f]
  | .sropeOff o => [o.s]
  | .sscale o => [o.s, o.ss]
  | .smask o => [o.s]
  | .xpush o => [o.s]
  | .xshift o => [o.s]
  | .xacc o => [o.s]
  | .xdrain o => [o.s]
  | .smst o => [o.s]
  | .smrg o => [o.s]
  | .ccpy o => [o.s, o.d]
  | .cgath o => [o.s, o.d]
  | .cscat o => [o.s, o.d]
  | _ => []
/-- The ring that a slot instruction names. -/
def cReads (i : Instr) : List CReg :=
  match i with
  | .cbw o => [o.c]
  | .cbf o => [o.c]
  | .cbaF o => [o.c]
  | .cbaE o => [o.c]
  | .ccpnRing o => [o.c]
  | _ => []
/-- The predicates that a slot word reads: its guard, and the one that `ksel` selects by. -/
def qReads (w : W32) (i : Instr) : List QReg :=
  guardOf w :: match i with
    | .ksel o => [o.q]
    | _ => []
/-- The streams that a slot instruction reads through those that it names: the scale stream of an X slot's, and the frequency stream of a
gather's. -/
def sThrough (x : Tile) (n : Nat) (i : Instr) : List SReg :=
  (sReads i).flatMap fun r =>
    let st := streamOf (x.sraw r)
    (if n = 4 then [st.scs] else []) ++ (if n = 6 && st.re then [st.fts] else [])
/-- A piece of what a not-done slot latched (R372): a scalar, a predicate, a stream or ring register, the X state, a word of a tile, or a
register of a thread. -/
inductive Latch where
  | k (r : KReg)
  | q (r : QReg)
  | s (r : SReg)
  | c (r : CReg)
  | x
  | acc (i : Nat)
  | reg (t n : Nat)
  deriving DecidableEq, Repr
/-- The bytes of a piece. -/
def Latch.size : Latch → Nat
  | .k _ => 8
  | .q _ => 1
  | .s _ | .c _ | .x => 32
  | .acc _ | .reg _ _ => 4
/-- What a not-done slot latched (R372, R378), from its word: the registers that it reads, an X or Y slot's masks and mode, and the rows that it
reads. -/
def latches (accTiles : Nat) (x : Tile) (n : Nat) (w : W32) : List Latch :=
  match decodeWord accTiles true n w with
  | .error _ => []
  | .ok i =>
    let ss := (sReads i ++ sThrough x n i).dedup
    let rings := ss.filterMap fun r => if (streamOf (x.sraw r)).rg then some (streamOf (x.sraw r)).ring else none
    (kReads i).map .k ++ (qReads w i).map .q ++ ss.map .s ++ ((cReads i ++ rings).dedup.map .c) ++ (if n = 4 || n = 5 then [.x] else []) ++
    ((tilesOf i).dedup.flatMap fun t => (List.range 1088).map fun k => .acc (2048 * t + k)) ++
    ((viewsOf i).dedup.flatMap fun v =>
      match Tbl.get none x.views v with
      | none => []
      | some y => (List.range 128).flatMap fun k => (List.range (if y.wide then 8 else 4)).map fun j => .reg (y.tid0 + k) (y.dreg + j))
/-- The value of a piece in an open step. -/
def Freeze.latchVal (z : Freeze) : Latch → Nat
  | .k r => (z.tile.kreg r).toNat
  | .q r => (z.tile.qreg r).toNat
  | .s r => (z.tile.sraw r).toNat
  | .c r => (z.tile.craw r).toNat
  | .x => xImage z.tile
  | .acc i => (z.tile.accWord i).toNat
  | .reg t n => (Tbl.get 0#32 (z.viewRegs.getD t []) n).toNat
/-- A piece of an open step replaced. -/
def Freeze.setLatch (z : Freeze) (l : Latch) (v : Nat) : Freeze :=
  match l with
  | .k r => { z with tile := z.tile.setK r (BitVec.ofNat 64 v) }
  | .q r => { z with tile := z.tile.setQ r (v % 2 == 1) }
  | .s r => { z with tile := { z.tile with s := Tbl.put 0#256 z.tile.s r.toNat (BitVec.ofNat 256 v) } }
  | .c r => { z with tile := z.tile.setC r (BitVec.ofNat 256 v) }
  | .x => { z with tile := z.tile.xRestore v }
  | .acc i => { z with tile := z.tile.setAcc i (BitVec.ofNat 32 v) }
  | .reg t n => { z with viewRegs := z.viewRegs.modify t fun r => Tbl.put 0#32 r n (BitVec.ofNat 32 v) }
/-- The entry of a not-done slot (R378): its word and what it latched. -/
def Freeze.entry (z : Freeze) (accTiles : Nat) (w : Nat × W32) : Entry :=
  { kind := 7, slot := w.1, rem := 0, dest := 0, addr := z.baddr.toNat
    data := leBytes 4 w.2.toNat ++ (latches accTiles z.tile w.1 w.2).flatMap fun l => leBytes l.size (z.latchVal l) }
/-- The not-done slots of an open step. -/
def Freeze.open_ (z : Freeze) : List (Nat × W32) := z.words.filter fun x => !z.done.getLsbD x.1
/-- The entries of a block's snapshot (R378): the operations in flight, then the not-done slots. -/
def Block.entries (b : Block) : List Entry :=
  b.tile.entries b.tile b.tile.fly ++ (match b.freeze with | none => [] | some z => z.open_.map fun w => z.entry b.accTiles w)
/-- The snapshot of a block (R378), ended by a header with KIND 0. -/
def Block.snapshot (b : Block) : List Byte := (b.entries.map Entry.bytes).flatten ++ leBytes 16 0

/-! ### Saving (R376, R377) -/

/-- A step is open, or a bundle has faulted before it issued (R377 FAULTED): the freeze is not a late one. -/
def Block.faulted (b : Block) : Option Freeze := b.freeze.filter fun z => !z.late
/-- The header of a block frame (R377): a late fault leaves no step open, and its context goes on at the next bundle. -/
def Block.frameHead (b : Block) (asid : BitVec 16) (long : Bool) (snapLen : Nat) : List Byte :=
  let z := b.faulted
  leBytes 8 (1 + long.toNat * 2 ^ 8 + b.inLock.toNat * 2 ^ 9 + z.isSome.toNat * 2 ^ 10 + asid.toNat * 2 ^ 16 + b.owner.toNat * 2 ^ 32) ++
  leBytes 8 ((z.map (·.baddr)).getD b.tile.baddr).toNat ++
  leBytes 8 (((z.map (·.done)).getD 0#8).toNat + b.lc * 2 ^ 8 + b.bsize * 2 ^ 11 + b.nregs * 2 ^ 22 + b.accTiles * 2 ^ 31) ++
  leBytes 8 (if b.inLock then (b.gate.getD 0#56).toNat else 0) ++ leBytes 8 snapLen
/-- The bytes of a block frame, as (offset, bytes). -/
def Block.frameParts (b : Block) (asid : BitVec 16) (long : Bool) : List (Nat × List Byte) :=
  let x := b.tile
  let snap := if long then b.snapshot else []
  [(0, b.frameHead asid long snap.length)] ++
  (b.threads.zipIdx.flatMap fun t =>
    [(0x8000 + 32 * t.2, threadImage t.1), (0x100000 + 1024 * t.2, (t.1.getRun 0 b.nregs).flatMap fun v => leBytes 4 v.toNat)]) ++
  (if b.cx.isNone then [] else
    [(0x1400000, (List.range 64).flatMap fun n => leBytes 8 (Tbl.get 0#64 x.k n).toNat),
     (0x1400200, leBytes 4 x.q.toNat ++ ((List.range 6).flatMap fun n => leBytes 4 (Tbl.get 0#32 x.n n).toNat) ++ leBytes 4 0),
     (0x1400220, loopImage x),
     (0x1400280, (List.range 8).flatMap fun n =>
       match x.held.find? fun e => e.1 == n with | none => leBytes 8 0 | some e => leBytes 8 (e.2.toNat + 2 ^ 32)),
     (0x14002C0, leBytes 32 (xImage x)),
     (0x14002E0, (List.range 6).flatMap fun n => leBytes 8 (Tbl.get 0#64 x.fflags n).toNat),
     (0x1400400, (List.range 16).flatMap fun n => leBytes 32 (Tbl.get 0#256 x.s n).toNat),
     (0x1400600, (List.range 8).flatMap fun n => leBytes 32 (Tbl.get 0#256 x.c n).toNat),
     (0x1401000, (List.range 32).flatMap fun j => leBytes 640 (colImage (Tbl.get 0#5120 x.bank0 j)).toNat),
     (0x1406000, (List.range 32).flatMap fun j => leBytes 640 (colImage (Tbl.get 0#5120 x.bank1 j)).toNat)]) ++
  ((List.range b.accTiles).map fun t => (0x1410000 + 0x1200 * t, tileImage x t)) ++
  (if long then [(0x1460000, snap)] else [])

/-- The ranges of a frame region that R377 lists as zero: (offset, bytes). The trap-frame stacks and the tiles that are not declared are left
as they are. -/
def Block.frameGaps (b : Block) (long : Bool) : List (Nat × Nat) :=
  let snap := 0x1460000 + (if long then b.snapshot.length else 0)
  let n := b.bsize
  [(40, 0x8000 - 40), (0x8000 + 32 * n, 0xF8000 - 32 * n)] ++ ((List.range n).map fun t => (0x100000 + 1024 * t + 4 * b.nregs, 1024 - 4 * b.nregs)) ++
  [(0x100000 + 1024 * n, 0x100000 - 1024 * n)] ++
  (if b.cx.isNone then [(0x1400000, 0x10000)] else [(0x1400310, 0xF0), (0x1400700, 0x900), (0x140B000, 0x5000)]) ++ [(0x1458000, 0x8000), (snap, 0x2000000 - snap)]
/-- The parts of a range in each page of 64 KiB, at most n of them. -/
def pagesOf (va : Nat) : Nat → Nat → List (Nat × Nat)
  | 0, _ => []
  | n + 1, len =>
    let k := Nat.min len (0x10000 - va % 0x10000)
    if len = 0 then [] else (va, k) :: pagesOf (va + k) n (len - k)
/-- The bytes of a range of physical memory that are not zero are made zero, as a core's writes. -/
def State.zeroAt (s : State) (core loc n : Nat) : State :=
  let s1 := ((s.core core).l1.filter fun l => l.dirty && loc < 128 * l.line + 128 && 128 * l.line < loc + n).foldl (fun s l => s.writeBack core l.line) s
  (s1.mem.filter fun e => loc ≤ e.1 && e.1 < loc + n).foldl (fun s e => s.storeBytes core e.1 [0#8]) s1
/-- The zero bytes of a frame region (R377): a page that parks holds the frame back, and one that is not mapped holds none (log 14). -/
def State.zeroGaps (s : State) (p : Party) (base : Nat) (l : List (Nat × Nat)) : Except Stop State :=
  foldStop (fun (s : State) x =>
    match s.translate p x.1 .write with
    | .ok pl => .ok ((s.used p.core pl).zeroAt p.core pl.loc x.2)
    | .error (.park a va posts) => .error (.park a va posts)
    | .error _ => .ok s) s (l.flatMap fun g => pagesOf (base + g.1) 513 g.2)

/-- A thread at its instruction boundary as it is saved (R376): its results have landed, and a wait is issued again on resumption. -/
def Thread.settleWait (t : Thread) : Thread :=
  let u := { t.land with deadline := none, timedOut := false, lastPark := [] }
  match u.status with
  | .active | .asleep | .exited | .waiting (.basin _ _ _) => u
  | .waiting _ | .stalled _ => { u with status := .active }
/-- A thread is at an instruction boundary (R55): no instruction of it has begun that has still to end. -/
def Thread.atBoundary (t : Thread) : Bool :=
  t.entry.isNone &&
  (match t.status with
   | .stalled .tlbi | .stalled .pub | .stalled (.remote _) => false
   | .active | .asleep | .exited | .waiting _ | .stalled _ => true)
/-- A block as it is saved: its threads at their boundaries, no gate reached, no bundle held. Its windows are closed while it is saved, and open
again with it (R234, R376). -/
def Block.settle (b : Block) : Block :=
  { b with
    threads := b.threads.map Thread.settleWait, gate := if b.inLock then b.gate else none
    tile := { b.tile with wait := none, lastPark := none } }
/-- A saved block (R376): it has left residency; one that a halt has stopped is recorded as stopped in the launched state (R395). -/
def Block.saveAs (b : Block) (long : Bool) : Block :=
  { b with life := .launched, saved := true, savedLong := long, preempt := none, stoppedFrom := b.stoppedFrom.map fun _ => .launched }
/-- The party of a block's frame accesses. -/
def Block.framer (b : Block) (blk : Nat) : Party := b.party blk true 4096

/-- Parts of a frame written, in order (R377). -/
def State.writeParts (s : State) (p : Party) (base : Nat) (l : List (Nat × List Byte)) : Except Stop State :=
  foldStop (fun (s : State) x => s.virtWrite p (base + x.1) x.2) s l
/-- A frame access that faults kills the context (R384): KIND 6 with the fault's code and cause, at system privilege (R367). -/
def State.killFrame (s : State) (b : Block) (c : Code) (cause va pa : Nat) : State :=
  s.killWith b.slot ({ code := c.num, num := cause, prv := true, asid := (s.ctx b.slot).asid.toNat, own := b.owner.toNat, core := b.core, va, pa,
                       pc := ((b.threads.head?).map (·.pc.toNat)).getD 0 } : Rec).bits
/-- The number under which a party's park is kept: its agent, block and context slot. -/
def Party.num (p : Party) : Nat := (p.who * 2 ^ 64 + p.blk) * 64 + p.slot
/-- An access of the dispatcher, or to a frame, that stops (R330, R331, R366): a fault has its own outcome; a park arms the line's monitor and
posts, and a further attempt at the same PTE posts nothing; a request to another device leaves. -/
def State.holdOn (s : State) (e : Stop) (p : Party) (r : Rec) : State :=
  match e with
  | .fault _ _ _ _ _ | .busy _ => s
  | .park ptea va posts =>
    let x := s.parkOn ptea posts ((Tbl.get none s.parks p.num).map Prod.fst) ({ r with code := Code.xlat.num, kind := 4, num := 1, va, pa := ptea } : Rec).bits
    if x.2.armed then { x.1 with parks := Tbl.put none x.1.parks p.num (some (ptea, true)) } else x.1
  | .away a => s.sendAway p.blk p.who a
/-- The access has been made (R331). -/
def State.unpark (s : State) (p : Party) : State := { s with parks := Tbl.put none s.parks p.num none }
/-- The accesses of a killed context that had parked are discarded (R332). -/
def State.dropParks (s : State) (slot : Nat) : State := { s with parks := s.parks.filter fun e => e.1 % 64 != slot }
/-- The monitored lines on which some access is parked. -/
def State.heldLines (s : State) : List Nat :=
  (s.blocks.flatMap fun e => match e.2 with
    | none => []
    | some b =>
      (b.threads.flatMap fun t => match t.status with | .stalled (.park l _) => l | _ => []) ++
      (match b.tile.wait with | some (.park l) => [l] | _ => [])) ++
  (s.cores.flatMap fun e => e.2.chans.flatMap fun c => c.2.cmds.filterMap (·.parked)) ++
  (s.dies.flatMap fun e => e.2.walks.filterMap fun w => w.2.bind (·.parked)) ++
  s.parks.filterMap fun e => e.2.bind fun x => if x.2 then some (x.1 / 128) else none
/-- Monitors that only discarded accesses held are disarmed (R332): those held in `s0` and no longer held. -/
def State.disarmUnheld (s : State) (s0 : State) : State :=
  let old := s0.heldLines
  let now_ := s.heldLines
  { s with dies := s.dies.map fun e => (e.1, { e.2 with monitors := e.2.monitors.filter fun l => !(old.contains l && !now_.contains l) }) }

/-- What a frame access that stops does (R384, R330): a fault kills the context, and any other stop is waited for. -/
def State.frameStop (s : State) (blk : Nat) (b : Block) (e : Stop) : State :=
  match e with
  | .fault c n va pa d => (s.found (.fault c n va pa d)).killFrame b c n va pa
  | e => s.holdOn e (b.framer blk) { prv := true, asid := (s.ctx b.slot).asid.toNat, own := b.owner.toNat, core := b.core }
/-- A block saved to its frame (R376, R377): the short form, or the long form with its snapshot; or what stops an access to the frame, with the
block. -/
def State.saveBlock (s : State) (blk : Nat) (long : Bool) : Except (Nat × Block × Stop) State :=
  match s.block blk with
  | none => .ok s
  | some b0 =>
    let b := b0.settle
    let p := b.framer blk
    match (s.writeParts p (s.frameRegion b) (b.frameParts (s.ctx b.slot).asid long)).bind fun s1 =>
        s1.zeroGaps p (s.frameRegion b) (b.frameGaps long) with
    | .ok s2 => .ok (((s2.modBlock blk fun _ => b.saveAs long).disarmUnheld s2).unpark p)
    | .error e => .error (blk, b, e)

/-- The blocks that are pre-empted and resumed together (R298): a block, the block it serves, and every block that serves one of these. -/
def State.paired (s : State) (blk : Nat) : List Nat :=
  let head := match s.block blk with
    | none => blk
    | some b => (b.serves.filter fun x => (s.block x).isSome).getD blk
  let group := head :: s.blocks.filterMap fun e => e.2.bind fun b => if b.serves == some head then some e.1 else none
  blk :: group.filter (· != blk)

/-- What a block was doing before a debug stop, if one holds it (R57). -/
def Block.phase (b : Block) : Life := b.stoppedFrom.getD b.life
/-- A block can leave its core (R55, R57, R234): it is not killed, its threads are at boundaries, no `gret` of its context has still to end the
lock, and no write of another block's context is in flight to a window of it. A halt that comes after the request does not keep it (R395). -/
def State.mayLeave (s : State) (blk : Nat) (b : Block) : Bool :=
  !b.killed && (b.phase == .resident || b.phase == .running || b.phase == .frozen) && b.tile.wait != some .leaving &&
  (b.threads.all Thread.atBoundary) && !s.windowsBusy blk b (b.windows.map (·.off))
/-- A context at a drain point, after its hold (R54, R55). -/
def State.drained (s : State) (blk : Nat) (b : Block) : Bool :=
  b.phase != .frozen && b.tile.wait == some .drain && b.tile.fly == [] && b.tile.arrivals == [] && b.tile.delay.isNone && !s.copiesPending b blk
/-- A block whose pre-emption is requested, or is to leave with one whose is (R298), can be saved now (R55): outside the lock, at the boundaries
of its barges; in the lock, at a drain point after its hold. -/
def State.canSave (s : State) (blk : Nat) : Bool :=
  match s.block blk with
  | none => false
  | some b =>
    b.saved || (((s.paired blk).any fun k => (s.block k).any (·.preempt.isSome)) && s.mayLeave blk b && (!b.inLock || s.drained blk b))
/-- Blocks that are saved together (R298): one that is saved already stays so, and when one cannot be saved none is. -/
def State.saveAll (s : State) (l : List Nat) (long : Nat → Bool) : State :=
  match l.foldl (fun (acc : Except (Nat × Block × Stop) State) x =>
      acc.bind fun s => if (s.block x).any (·.saved) then .ok s else s.saveBlock x (long x)) (.ok s) with
  | .ok s1 => s1
  | .error (blk, b, e) => s.frameStop blk b e
/-- BLOCK_PREEMPT (R55, R298): a block and those paired with it are saved together, in the short form. -/
def execBlockPreempt (blk : Nat) (s : State) : Outcome State Fault Refusal :=
  let l := s.paired blk
  if (s.block blk).any (·.preempt.isSome) && l.all s.canSave then .next (s.saveAll l fun _ => false) else .next s
/-- A context that has reached no drain point is force-frozen (R55): DPBOUND cycles have passed since the request, its own or that of a block
with which it leaves. An open step stays open, and a fault stands (R384). -/
def State.forceDue (s : State) (blk : Nat) : Bool :=
  (s.block blk).any fun b =>
    b.inLock && ((s.paired blk).any fun k => (s.block k).any fun y => y.preempt.any fun x => x.2 + x.1 ≤ s.clock) && s.mayLeave blk b
/-- DPBOUND_EXPIRY (R55): the forced freeze; the frame is long. -/
def execDpboundExpiry (blk : Nat) (s : State) : Outcome State Fault Refusal :=
  let l := s.paired blk
  if s.forceDue blk && l.all fun x => s.canSave x || s.forceDue x then .next (s.saveAll l fun x => !s.canSave x) else .next s

/-! ### Resuming (R379) -/

/-- Ranges read one after another. -/
def State.readParts (s : State) (p : Party) (base : Nat) (l : List (Nat × Nat)) : Except Stop (List (List Byte) × State) :=
  match l with
  | [] => .ok ([], s)
  | (off, n) :: l =>
    match s.virtRead p (base + off) n with
    | .error e => .error e
    | .ok (bs, s1) =>
      match State.readParts s1 p base l with
      | .error e => .error e
      | .ok (r, s2) => .ok (bs :: r, s2)

/-- The entries of a snapshot up to the header with KIND 0; none when a header breaks R378 (R379). -/
def parseEntries : Nat → List Byte → Option (List Entry)
  | 0, _ => none
  | n + 1, l =>
    let h := leNat (l.take 16)
    let k := h % 256
    let len := h / 2 ^ 32 % 2 ^ 16
    if l.length < 16 then none
    else if k = 0 then some []
    else if 7 < k || 36 < h / 2 ^ 16 % 2 ^ 16 || l.length < 16 + len then none
    else
      (parseEntries n (l.drop (16 + len))).map fun r =>
        { kind := k, slot := h / 2 ^ 8 % 256, rem := h / 2 ^ 16 % 2 ^ 16, dest := h / 2 ^ 48 % 2 ^ 16, addr := h / 2 ^ 64,
          data := (l.drop 16).take len } :: r
/-- An entry stands for an operation: kind, slot, destination and length agree (R379). -/
def Entry.fits (e o : Entry) : Bool := e.kind == o.kind && e.slot == o.slot && e.dest == o.dest && e.data.length == o.data.length
/-- A not-done slot's word and latched operands read back (R379). -/
def Freeze.relatch (z : Freeze) (accTiles : Nat) (e : Entry) : Freeze :=
  let old := ((z.words.find? fun x => x.1 == e.slot).map Prod.snd).getD 0#32
  let x := (latches accTiles z.tile e.slot old).foldl (fun (acc : Freeze × List Byte) l =>
    (acc.1.setLatch l (leNat (acc.2.take l.size)), acc.2.drop l.size)) (z, e.data.drop 4)
  { x.1 with words := z.words.map fun y => if y.1 = e.slot then (y.1, BitVec.ofNat 32 (leNat (e.data.take 4))) else y }
/-- The operations in flight with their entries' payloads, in the order in which they land: `now_` is the context resumed, `x` as the next
operation finds it. -/
def Tile.refly (now_ : Tile) (x : Tile) : List (Landing × Entry) → List Landing
  | [] => []
  | (l, e) :: r =>
    let y : Landing := { l with eff := l.eff.withPayload x e.data, at_ := now_.step + e.rem }
    y :: Tile.refly now_ (x.apply 0 y).1 r
/-- The snapshot read back into a block (R379); none when it does not match what the block has in flight. The banks of an open step are those of
the frame. -/
def Block.readSnapshot (b : Block) (l : List Byte) (want : List Entry) : Option Block :=
  (parseEntries (l.length / 16 + 1) l).bind fun es =>
    if es.length ≠ want.length || (es.zip want).any fun x => !x.1.fits x.2 then none
    else
      some { b with
        tile := { b.tile with fly := (b.tile.refly b.tile (b.tile.fly.zip es)).foldl (fun f x => insertLanding x f) [] }
        freeze := b.freeze.map fun z =>
          (es.drop b.tile.fly.length).foldl (fun z e => z.relatch b.accTiles e) { z with tile := { z.tile with bank0 := b.tile.bank0, bank1 := b.tile.bank1 } } }

/-- The header of a frame matches its block (R379): every field but NEXTB and DONE, which are taken as they stand, is as it was written. -/
def Block.headOk (b : Block) (asid : BitVec 16) (h : List Byte) : Bool :=
  let w := b.frameHead asid b.savedLong (if b.savedLong then b.snapshot.length else 0)
  h.take 8 == w.take 8 && h.drop 17 == w.drop 17
/-- A thread read back (R377, R379). NOSTOP is not in the frame: it is as it was (R2, log 14). -/
def Thread.ofImage (t : Thread) (tid : Nat) (rec_ regs : List Byte) (n : Nat) : Thread :=
  let v := leNat rec_
  let pc : Addr := BitVec.ofNat 56 v
  let home := v / 2 ^ 88 % 2 == 1
  { ({ t with regs := [] } : Thread).setRun 0 (words32 n regs) with
    preds := BitVec.ofNat 16 (v / 2 ^ 64) &&& 0xFFFE#16, pc := pc, flags := BitVec.ofNat 5 (v / 2 ^ 80), amax := BitVec.ofNat 32 (v / 2 ^ 96)
    nest := BitVec.ofNat 4 (v / 2 ^ 89), sys := v / 2 ^ 93 % 2 == 1, home := home
    barge := if home then tid / 16 else t.barge
    status := match v / 2 ^ 85 % 8 with
      | 1 => .exited
      | 2 => .waiting (.basin pc 0 0)
      | 3 => .asleep
      | _ => .active }
/-- The tile context read back, from the ten parts of its image (R377). The ring registers are the context's own: an advance of a copy that
completed meanwhile applies after (log 14). -/
def Tile.ofImage (x : Tile) (nextb : Addr) (l : List (List Byte)) : Tile :=
  let g (i : Nat) : List Byte := l.getD i []
  let w (bs : List Byte) (k i : Nat) : Nat := leNat ((bs.drop (k * i)).take k)
  let y := x.xRestore (leNat (g 4))
  { y with
    k := Tbl.puts 0#64 [] ((List.range 64).map fun n => (n, BitVec.ofNat 64 (w (g 0) 8 n)))
    q := BitVec.ofNat 8 (leNat ((g 1).take 1))
    n := Tbl.puts 0#32 [] ((List.range 6).map fun n => (n, BitVec.ofNat 32 (w ((g 1).drop 4) 4 n)))
    loops := loopRestore (g 2) x
    held := (List.range 8).filterMap fun n => if w (g 3) 8 n / 2 ^ 32 % 2 = 1 then some (n, BitVec.ofNat 32 (w (g 3) 8 n)) else none
    fflags := Tbl.puts 0#64 [] ((List.range 6).map fun n => (n, BitVec.ofNat 64 (w (g 5) 8 n) &&& ~~~(0x300#64)))
    s := Tbl.puts 0#256 [] ((List.range 16).map fun n => (n, BitVec.ofNat 256 (w (g 6) 32 n)))
    c := Tbl.puts 0#256 [] ((List.range 8).map fun n => (n, BitVec.ofNat 256 (w (g 7) 32 n)))
    bank0 := Tbl.puts 0#5120 [] ((List.range 32).map fun j => (j, colRestore (tyAt y.wf) (Tbl.get 0#5120 x.bank0 j) (w (g 8) 640 j)))
    bank1 := Tbl.puts 0#5120 [] ((List.range 32).map fun j => (j, colRestore (tyAt y.wf) (Tbl.get 0#5120 x.bank1 j) (w (g 9) 640 j)))
    lbuf := [], exempt := 0#8, baddr := nextb }

/-- The ten parts of a tile context's image (R377). -/
def tileParts : List (Nat × Nat) :=
  [(0x1400000, 512), (0x1400200, 32), (0x1400220, 96), (0x1400280, 64), (0x14002C0, 32), (0x14002E0, 48), (0x1400400, 512), (0x1400600, 256),
   (0x1401000, 0x5000), (0x1406000, 0x5000)]
/-- The parts of a frame that resumption reads (R379), after its header. -/
def Block.parts (b : Block) (snapLen : Nat) (long : Bool) : List (Nat × Nat) :=
  ((List.range b.bsize).flatMap fun t => [(0x8000 + 32 * t, 32), (0x100000 + 1024 * t, 4 * b.nregs)]) ++
  ((List.range b.accTiles).map fun t => (0x1410000 + 0x1200 * t, 0x1200)) ++
  (if b.cx.isSome then tileParts else []) ++
  (if long then [(0x1460000, snapLen)] else [])
/-- A block read back from its frame (R379); none when its snapshot does not match. -/
def Block.ofFrame (b : Block) (head : List Byte) (l : List (List Byte)) : Option Block :=
  let nextb : Addr := BitVec.ofNat 56 (leNat ((head.drop 8).take 8))
  let ths := l.take (2 * b.bsize)
  let rest := l.drop (2 * b.bsize)
  let accs := rest.take b.accTiles
  let ctx := rest.drop b.accTiles
  let x0 := if b.cx.isSome then b.tile.ofImage (if b.openStep then b.tile.baddr else nextb) ctx else b.tile
  let x : Tile := { x0 with acc := accs.zipIdx.foldl (fun a e => tileRestore e.2 e.1 a) x0.acc }
  let b1 : Block :=
    { b with
      threads := b.threads.zipIdx.map fun t => t.1.ofImage t.2 (ths.getD (2 * t.2) []) (ths.getD (2 * t.2 + 1) []) b.nregs
      tile := x
      freeze := b.freeze.map fun z => if z.late then z else { z with baddr := nextb, done := BitVec.ofNat 8 (leNat ((head.drop 16).take 1)) } }
  if b.savedLong then b1.readSnapshot (l.getLastD []) b.entries else some b1

/-- What keeps a frame from being read back: a stop of an access, or that it does not match its block. -/
inductive Unread where
  | stop (e : Stop)
  | bad
  deriving DecidableEq, Repr
/-- A saved block's frame read back (R379). -/
def State.readBlock (s : State) (blk : Nat) (b : Block) : Except Unread (Block × State) :=
  let p := b.framer blk
  let base := s.frameRegion b
  match s.virtRead p base 40 with
  | .error e => .error (.stop e)
  | .ok (h, s1) =>
    if !b.headOk (s.ctx b.slot).asid h then .error .bad
    else
      match s1.readParts p base (b.parts (leNat ((h.drop 32).take 8)) (leNat (h.take 8) / 2 ^ 8 % 2 == 1)) with
      | .error e => .error (.stop e)
      | .ok (l, s2) =>
        match b.ofFrame h l with
        | none => .error .bad
        | some b1 => .ok (b1, s2.unpark p)
/-- A frame that is not read back (R379, R384): one that does not match kills its context with KIND 6 and CODE ARG. -/
def State.unread (s : State) (blk : Nat) (b : Block) : Unread → State
  | .stop e => s.frameStop blk b e
  | .bad => s.killFrame b .arg 0 0 0

end Sys2Proof.Machine
end

