-- ==== Sys2Proof/Machine/Queues.lean ====
section
/-! DEFINITION. Producer-to-consumer queues (11_memory_instructions.md R266, R267; 09_memory_model.md R235-R237). The mirrors of a
counter are one number here, since a push or a pop performs in one turn (log 25). -/

namespace Sys2Proof.Machine

open Host (Outcome)

/-- A queue endpoint of a core. -/
def State.endpoint (s : State) (core e : Nat) : Endpoint := Tbl.get Endpoint.empty (s.core core).ends e
/-- A queue endpoint changed. -/
def State.modEnd (s : State) (core e : Nat) (f : Endpoint → Endpoint) : State :=
  s.modCore core fun c => { c with ends := Tbl.modify Endpoint.empty c.ends e f }
/-- The handle of an endpoint (R266): endpoint, core within the die, die and generation. -/
def endHandle (core e : Nat) (gen : BitVec 4) : W32 :=
  BitVec.ofNat 32 (e + core % 96 * 2 ^ 4 + core / 96 * 2 ^ 11 + gen.toNat * 2 ^ 16)
/-- The lanes whose guard reads true write d. -/
def setLanes (s : State) (g : Guard) (d : Reg) (v : Nat → Thread → W32) : State :=
  s.lanes g fun tid t => t.set d.toNat (v tid t)

/-- `qsz.cnt` (R266). -/
def execQszCnt (o : EndOp) (s : State) : Outcome State Fault Refusal :=
  match s.block s.cur.blk with
  | none => .next s
  | some b =>
    let x := s.endpoint b.core o.e.toNat
    guarded s o.g (s.laneErrors o.g fun _ _ => if x.owner = some s.cur.blk then .ok () else .error (stopBare .arg)) fun s =>
      setLanes s o.g o.d fun _ _ => BitVec.ofNat 32 (x.tail - x.head)

/-- Entry bytes of a code ESZC (R266). -/
def entrySize (c : Nat) : Nat := 4 * 2 ^ c
/-- The checks of `qsz.init` (R266), for the values of the first lane whose guard reads true. -/
def qinitCheck (s : State) (b : Block) (x : Endpoint) (a : Nat) (v : W32) : Except Stop Unit :=
  let eszc := (v.extractLsb' 0 3).toNat
  let n := (v.extractLsb' 8 8).toNat
  let off := a % 2 ^ 20
  if a % 16 ≠ 0 then .error (stopAt .align a)
  else if 4 < eszc || n = 0 || v &&& 0xFFFF00F8#32 ≠ 0#32 then .error (stopBare .arg)
  else if a / 2 ^ 20 ≠ 0x00FF000000000000 / 2 ^ 20 || b.scrLen = 0 || off < b.scrOff ||
      b.scrOff + b.scrLen < off + entrySize eszc * n then .error (stopAt .scr a)
  else if (x.owner.isSome && x.owner ≠ some s.cur.blk) || x.opened then .error (stopBare .bsy)
  else .ok ()
/-- `qsz.init` (R266): performed by the first lane whose guard reads true; every such lane receives the handle. -/
def execQszInit (o : QInitOp) (s : State) : Outcome State Fault Refusal :=
  match s.block s.cur.blk with
  | none => .next s
  | some b =>
    match s.actors o.g with
    | [] => .next (s.lanes o.g fun _ t => t)
    | (tid, t) :: _ =>
      let a := (t.get64 o.a.toNat).toNat
      let v := t.get o.b.toNat
      let x := s.endpoint b.core o.e.toNat
      match qinitCheck s b x a v with
      | .error e => .next (s.faultLanes o.g [tid] e)
      | .ok _ =>
        let y : Endpoint := { owner := some s.cur.blk, opened := true, gen := x.gen + 1#4, base := a % 2 ^ 20,
                              esz := entrySize (v.extractLsb' 0 3).toNat, nslot := (v.extractLsb' 8 8).toNat, head := 0, tail := 0 }
        .next (setLanes (s.modEnd b.core o.e.toNat fun _ => y) o.g o.d fun _ _ => endHandle b.core o.e.toNat y.gen)
/-- `qsz.fin` (R266): ARG on an endpoint that the block does not hold, BSY on a queue that is not empty. -/
def execQszFin (o : QFinOp) (s : State) : Outcome State Fault Refusal :=
  match s.block s.cur.blk with
  | none => .next s
  | some b =>
    match s.active o.g with
    | [] => .next (s.lanes o.g fun _ t => t)
    | tid :: _ =>
      let x := s.endpoint b.core o.e.toNat
      if x.owner ≠ some s.cur.blk then .next (s.faultLanes o.g [tid] (stopBare .arg))
      else if x.opened && x.head ≠ x.tail then .next (s.faultLanes o.g [tid] (stopBare .bsy))
      else .next ((s.modEnd b.core o.e.toNat fun x => { x with opened := false, owner := none }).lanes o.g fun _ t => t)

/-- Where a handle leads (R267, R319): the core and the endpoint, when it names an open one of the producer's cluster and context with its
current generation. -/
def State.handleEnd (s : State) (b : Block) (h : W32) : Option (Nat × Nat × Endpoint) :=
  let core := (h.extractLsb' 4 7).toNat + 96 * (h.extractLsb' 11 2).toNat
  let e := (h.extractLsb' 0 4).toNat
  let x := s.endpoint core e
  let mine := x.owner.any fun k => (s.block k).any fun y => y.slot == b.slot
  if h &&& 0xFFF0E000#32 ≠ 0#32 || !mine || 96 ≤ (h.extractLsb' 4 7).toNat || core / 8 ≠ b.core / 8 || !x.opened ||
      x.gen ≠ h.extractLsb' 16 4 then none
  else some (core, e, x)

/-- The scratchpad offset of the n-th entry of an endpoint (R235). -/
def Endpoint.entryAt (x : Endpoint) (n : Nat) : Nat := x.base + x.esz * (n % x.nslot)
/-- A push of a lane (R267): the entry into the slot of the tail, then the tail. -/
def State.pushEntry (s : State) (core e : Nat) (l : List W32) : State :=
  let x := s.endpoint core e
  (s.store (scrLoc core (x.entryAt x.tail)) (l.flatMap fun v => leBytes 4 v.toNat)).modEnd core e fun x => { x with tail := x.tail + 1 }
/-- The entry at the head (R267). -/
def State.headEntry (s : State) (core e : Nat) : List W32 :=
  let x := s.endpoint core e
  words32 (x.esz / 4) (s.bytes (scrLoc core (x.entryAt x.head)) x.esz)
/-- The access of a lane of a core to an entry, as a watchpoint sees it (R388): in the aperture of its own scratchpad or of a peer's. -/
def entryTouch (from_ core off n tid : Nat) (wr : Bool) : Touch :=
  { va := some (if from_ = core then 0x00FF000000000000 + off else 0x00FF010000000000 + core % 8 * 2 ^ 20 + off), pa := scrLoc core off, n,
    rd := !wr, wr, eng := false, who := tid }

/-- Lanes act in order of `$lane` until one has to wait (R267, R237): it and the later ones wait for what it waits for, and issue again
together when it is woken. The accesses of those that acted may hit a watchpoint. -/
def queueLanes (s : State) (b : Block) (f : State → Nat → Thread → Except Wait (State × Thread × List Touch)) :
    List Touch → List (Nat × Thread) → State
  | ts, [] => s.watch b ts
  | ts, (tid, t) :: l =>
    match f s tid t with
    | .ok (s1, t1, x) => queueLanes (s1.modThread s.cur.blk tid fun _ => t1.endWait) b f (ts ++ x) l
    | .error w => (((tid, t) :: l).foldl (fun s x => s.modThread s.cur.blk x.1 fun t => { t with status := .waiting w }) s).watch b ts
/-- The issued lanes whose guard reads false go on. -/
def passFalse (s : State) (g : Guard) : State := s.onLanes fun _ t => if t.guard g then t else t.advance

/-- `qpush` (R267). -/
def execQpush (o : R2) (s : State) : Outcome State Fault Refusal :=
  match s.block s.cur.blk with
  | none => .next s
  | some b =>
    let check (t : Thread) : Except Stop Unit :=
      match s.handleEnd b (t.get o.a.toNat) with
      | none => .error (stopBare .arg)
      | some (_, _, x) => if b.nregs < o.d.toNat + x.esz / 4 then .error (stopBare .arg) else .ok ()
    guarded s o.g (s.laneErrors o.g fun _ t => check t) fun s =>
      queueLanes (passFalse s o.g) b (fun s tid t =>
        match s.handleEnd b (t.get o.a.toNat) with
        | none => .ok (s, t, [])
        | some (core, e, x) =>
          if x.tail - x.head < x.nslot then
            .ok (s.pushEntry core e (t.getRun o.d.toNat (x.esz / 4)), t, [entryTouch b.core core (x.entryAt x.tail) x.esz tid true])
          else .error (.queue core e true))
        [] (s.actors o.g)

/-- The read of the n-th entry of an endpoint (R383): poison or an uncorrectable error in it faults. -/
def State.entryRead (s : State) (core n : Nat) (x : Endpoint) : Except Stop Unit :=
  let loc := scrLoc core (x.entryAt n)
  if s.poisoned loc x.esz then .error (s.poisAt (0x00FF000000000000 + x.entryAt n) loc x.esz)
  else if s.badRange loc x.esz then .error (s.eccAt (0x00FF000000000000 + x.entryAt n) loc x.esz)
  else .ok ()
/-- `qpop` (R267): a pop that returns an entry acquires at cluster scope (R236). The i-th lane that acts reads the i-th entry. -/
def execQpop (o : EndOp) (s : State) : Outcome State Fault Refusal :=
  match s.block s.cur.blk with
  | none => .next s
  | some b =>
    let e := o.e.toNat
    let x0 := s.endpoint b.core e
    let bad := !x0.opened || x0.owner ≠ some s.cur.blk || b.nregs < o.d.toNat + x0.esz / 4
    let check (tid : Nat) : Except Stop Unit :=
      let n := x0.head + (s.active o.g).findIdx (· == tid)
      if bad then .error (stopBare .arg) else if n < x0.tail then s.entryRead b.core n x0 else .ok ()
    guarded s o.g (s.laneErrors o.g fun tid _ => check tid) fun s =>
      queueLanes (passFalse s o.g) b (fun s tid t =>
        let x := s.endpoint b.core e
        if x.head < x.tail then
          .ok ((s.modEnd b.core e fun x => { x with head := x.head + 1 }).acquire b.core .cluster,
            t.setRun o.d.toNat (s.headEntry b.core e), [entryTouch b.core b.core (x.entryAt x.head) x.esz tid false])
        else .error (.queue b.core e false))
        [] (s.actors o.g)

/-- A wait at a queue. -/
def Wait.isQueue : Wait → Bool
  | .queue _ _ _ => true
  | .bar | .rejoin | .gate | .tileBar _ | .barw _ _ | .mem _ _ _ | .vwait _ _ | .cwait _ _ | .idle _ | .tba _ | .basin _ _ _ => false
/-- A waiting queue instruction can go on (R267): the queue has room for a push or an entry for a pop, or it has been closed. -/
def State.queueOver (s : State) (w : Wait) : Bool :=
  match w with
  | .queue core e push =>
    let x := s.endpoint core e
    !x.opened || (if push then x.tail - x.head < x.nslot else x.head < x.tail)
  | .bar | .rejoin | .gate | .tileBar _ | .barw _ _ | .mem _ _ _ | .vwait _ _ | .cwait _ _ | .idle _ | .tba _ | .basin _ _ _ => false
/-- QUEUE_WAIT_WAKE (R267): the queue for which a barge's first waiting lane waits can serve it. All the lanes that wait at that instruction
issue it again together, so that they still act in order of `$lane`. -/
def execQueueWaitWake (blk tid : Nat) (s : State) : Outcome State Fault Refusal :=
  match s.thread blk tid with
  | none => .next s
  | some t0 =>
    if t0.wait?.any s.queueOver then .next (s.modBlock blk fun b => b.wakeBeside t0 Wait.isQueue) else .next s

end Sys2Proof.Machine
end

