-- ==== Sys2Proof/Machine/Dispatcher.lean ====
section
/-! DEFINITION. Launches (12_scheduling.md R292-R301; 02_execution_model.md R29-R35, R55, R58; 11_memory_instructions.md R289): queues,
records, placement, room, residency, retirement and pre-emption for priority. -/

namespace Sys2Proof.Machine

open Host (Outcome)

/-! ### Launch records (R294) -/

/-- A field of n bits of a record. -/
def lfield (r : BitVec 1024) (lo n : Nat) : Nat := (r.extractLsb' lo n).toNat
/-- CODE. -/
def lCode (r : BitVec 1024) : Nat := lfield r 0 64
/-- BSIZE. -/
def lBsize (r : BitVec 1024) : Nat := lfield r 64 11
/-- REGS. -/
def lRegs (r : BitVec 1024) : Nat := lfield r 80 9
/-- SCR. -/
def lScr (r : BitVec 1024) : Nat := lfield r 96 21
/-- ACC. -/
def lAcc (r : BitVec 1024) : Nat := lfield r 120 7
/-- KIND of a loop-table entry (R29): 0 unused, 1 T, 2 C, 3 D. -/
def lKind (r : BitVec 1024) (i : Nat) : Nat := lfield r (128 + 32 * i + 24) 2
/-- COUNT of a loop-table entry. -/
def lCount (r : BitVec 1024) (i : Nat) : Nat := lfield r (128 + 32 * i) 24
/-- WADDRw. -/
def lWaddr (r : BitVec 1024) (w : Nat) : Nat := lfield r (256 + 128 * w) 64
/-- WVALw. -/
def lWval (r : BitVec 1024) (w : Nat) : Nat := lfield r (320 + 128 * w) 64
/-- DONEi. -/
def lDone (r : BitVec 1024) (i : Nat) : Nat := lfield r (768 + 64 * i) 64
/-- PRIO. -/
def lPrio (r : BitVec 1024) : Nat := lfield r 896 2
/-- CTX: 0 none, 1 primary, 2 secondary, 3 either. -/
def lCtx (r : BitVec 1024) : Nat := lfield r 898 2
/-- ROLE. -/
def lRole (r : BitVec 1024) : Nat := lfield r 900 2
/-- COSCHED. -/
def lCosched (r : BitVec 1024) : Bool := r.getLsbD 902
/-- TAG. -/
def lTag (r : BitVec 1024) : Nat := lfield r 912 16
/-- PMAP. -/
def lPmap (r : BitVec 1024) : Nat := lfield r 960 64

/-- The number of indices of level i: 1 for an unused level (R30). -/
def lDim (r : BitVec 1024) (i : Nat) : Nat := if lKind r i = 0 then 1 else lCount r i
/-- The blocks of a launch (R30). -/
def lTotal (r : BitVec 1024) : Nat := lDim r 0 * lDim r 1 * lDim r 2 * lDim r 3
/-- Indices that one step of level i spans in the linear index, level 0 varying fastest (R299). -/
def lSpan (r : BitVec 1024) (i : Nat) : Nat := (List.range i).foldl (fun n k => n * lDim r k) 1
/-- The index of a block at level i (R30). -/
def lIndex (r : BitVec 1024) (lin i : Nat) : Nat := lin / lSpan r i % lDim r i
/-- The index that the levels of a kind combine into, the lowest-numbered level varying fastest (R31, R32). -/
def lJoin (r : BitVec 1024) (kind lin : Nat) : Nat :=
  ((List.range 4).foldl (fun (acc : Nat × Nat) i =>
    if lKind r i = kind then (acc.1 + acc.2 * lIndex r lin i, acc.2 * lDim r i) else acc) (0, 1)).1
/-- The number of indices of a kind. -/
def lSize (r : BitVec 1024) (kind : Nat) : Nat :=
  (List.range 4).foldl (fun n i => if lKind r i = kind then n * lDim r i else n) 1
/-- The predecessor of a block in its temporal run (R31): the one whose temporal index is one less. -/
def lPrev (r : BitVec 1024) (lin : Nat) : Option Nat :=
  if lJoin r 1 lin = 0 then none
  else
    let t := lJoin r 1 lin - 1
    some ((List.range 4).foldl (fun (acc : Nat × Nat) i =>
      if lKind r i = 1 then (acc.1 + t / acc.2 % lDim r i * lSpan r i, acc.2 * lDim r i)
      else (acc.1 + lIndex r lin i * lSpan r i, acc.2)) (0, 1)).1

/-- An address field of a record is out of range (R294, R295). -/
def badAddr (a al : Nat) : Bool := 2 ^ 56 ≤ a || a % al != 0
/-- A record that the dispatcher rejects with ARG whatever the memory and the partition hold (R295, R29, R33). -/
def badRecord (r : BitVec 1024) : Bool :=
  lfield r 75 5 != 0 || lfield r 89 7 != 0 || lfield r 117 3 != 0 || lfield r 127 1 != 0 || lfield r 903 9 != 0 || lfield r 928 32 != 0 ||
  badAddr (lCode r) 8 || lBsize r < 16 || 1024 < lBsize r || lBsize r % 16 != 0 || lRegs r == 0 || 256 < lRegs r ||
  1048576 < lScr r || 64 < lAcc r || 1 < lRole r ||
  (List.range 4).any (fun i => lfield r (128 + 32 * i + 26) 6 != 0 || (lKind r i != 0 && lCount r i == 0) ||
    badAddr (lWaddr r i) 8 || (lCosched r && lKind r i == 1 && 1 < lCount r i)) ||
  2 ^ 32 < lTotal r || badAddr (lDone r 0) 8 || badAddr (lDone r 1) 8 || badAddr (lPmap r) 512 ||
  (lRole r == 1 && (lCtx r != 0 || lAcc r != 0 || lTag r == 0))

/-! ### Placement (R32, R296) -/

/-- A core belongs to a context's partition (R318). -/
def State.inPart (s : State) (slot core : Nat) : Bool := (s.core core).part.toNat == (s.ctx slot).part.toNat
/-- The default placement map of a context, as a table (R296): die bytes 0 to 3, and the partition's cores in ascending order. -/
def State.defaultMap (s : State) (slot : Nat) : List Byte :=
  ((List.range 128).map fun i => BitVec.ofNat 8 (if i < 4 then i else 0)) ++
  (List.range 4).flatMap fun d =>
    let l := (List.range 96).filter fun k => s.inPart slot (96 * d + k)
    (l ++ List.replicate (96 - l.length) 0xFF).map (BitVec.ofNat 8)
/-- The cores that a table lists for a die (R296). -/
def mapCores (m : List Byte) (d : Nat) : List Nat := (((m.drop (128 + 96 * d)).take 96).map (·.toNat)).takeWhile (· != 0xFF)
/-- The die to which a table sends a die index. -/
def mapDie (m : List Byte) (i : Nat) : Nat := (m.getD (i % 4) 0#8).toNat
/-- A table that breaks R296 for a launch. -/
def State.badMap (s : State) (slot : Nat) (r : BitVec 1024) (m : List Byte) : Bool :=
  ((List.range 4).any fun i => 3 < mapDie m i) ||
  ((List.range 4).any fun d =>
    let l := mapCores m d
    l.dedup.length != l.length || l.any fun k => 95 < k || !s.inPart slot (96 * d + k)) ||
  ((List.range (Nat.min 4 (lSize r 3))).any fun i => mapCores m (mapDie m i) == [])
/-- The device-wide core to which a table sends a block (R32). -/
def mapCore (r : BitVec 1024) (m : List Byte) (lin : Nat) : Nat :=
  let d := mapDie m (lJoin r 3 lin)
  let l := mapCores m d
  96 * d + l.getD (lJoin r 2 lin % l.length) 0
/-- The core of a launch's block. -/
def Launch.core (l : Launch) (lin : Nat) : Nat := mapCore l.record (l.pmap.getD []) lin

/-! ### Room on a core (R17, R34, R152, R244) -/

/-- What a block asks of a core: threads, registers, scratchpad bytes, tiles and the CTX field. -/
structure Need where
  bsize : Nat
  regs : Nat
  scr : Nat
  acc : Nat
  ctx : Nat
  deriving DecidableEq, Repr
/-- What a record's blocks ask. -/
def lNeed (r : BitVec 1024) : Need := { bsize := lBsize r, regs := lRegs r, scr := lScr r, acc := lAcc r, ctx := lCtx r }

/-- What is taken of a core: registers and thread slots of a lane of each lane cluster, scratchpad ranges, tiles, contexts, owner slots. -/
structure Room where
  regs : List Nat
  slots : List Nat
  scr : List (Nat × Nat)
  acc : Nat
  ctxs : List Nat
  owners : List Nat
  deriving DecidableEq, Repr
/-- An empty core. -/
def Room.empty : Room := { regs := List.replicate 8 0, slots := List.replicate 8 0, scr := [], acc := 0, ctxs := [], owners := [] }
/-- Barges that a block of `n` barges at base lane cluster `e` has on lane cluster `c` (R33). -/
def bargesAt (e n c : Nat) : Nat := ((List.range n).filter fun k => (e + k) % 8 == c).length
/-- A block at a base lane cluster meets R17. -/
def Room.lanesFit (o : Room) (n : Need) (e : Nat) : Bool :=
  (List.range 8).all fun c =>
    let k := bargesAt e (n.bsize / 16) c
    k == 0 || (o.regs.getD c 0 + k * n.regs ≤ 1024 && o.slots.getD c 0 + k ≤ 8)
/-- The lowest scratchpad offset at which an allocation fits (R152); 0 for none. -/
def Room.scratch (o : Room) (bytes : Nat) : Option Nat :=
  let size := (bytes + 1023) / 1024 * 1024
  if size = 0 then some 0
  else ((List.range 1024).map (1024 * ·)).find? fun a => a + size ≤ 1048576 && !o.scr.any fun x => x.1 < a + size && a < x.1 + x.2
/-- The context that a CTX field is given (R34). -/
def Room.context (o : Room) (ctx : Nat) : Option (Option Nat) :=
  let isFree (c : Nat) : Bool := !o.ctxs.contains c
  match ctx with
  | 0 => some none
  | 1 => if isFree 0 then some (some 0) else none
  | 2 => if isFree 1 then some (some 1) else none
  | _ => if isFree 0 then some (some 0) else if isFree 1 then some (some 1) else none
/-- What a block is given: base lane cluster, scratchpad offset, context, owner slot. -/
structure Spot where
  lc : Nat
  scr : Nat
  cx : Option Nat
  owner : Nat
  deriving DecidableEq, Repr
/-- Where a block that becomes resident for the first time fits (R17, R33, R34). -/
def Room.spot (o : Room) (n : Need) : Option Spot :=
  match (List.range 8).find? (o.lanesFit n), o.scratch n.scr, o.context n.ctx, (List.range 64).find? fun k => !o.owners.contains k with
  | some e, some a, some c, some k => if o.acc + n.acc ≤ 64 then some { lc := e, scr := a, cx := c, owner := k } else none
  | _, _, _, _ => none
/-- A pre-empted block fits again at its base lane cluster (R55): the context it takes. -/
def Room.again (o : Room) (n : Need) (e : Nat) : Option (Option Nat) :=
  if o.lanesFit n e && o.acc + n.acc ≤ 64 then o.context n.ctx else none
/-- A core with the lanes, tiles and context of a block taken. -/
def Room.takeLanes (o : Room) (n : Need) (e : Nat) (cx : Option Nat) : Room :=
  { o with
    regs := o.regs.zipIdx.map fun x => x.1 + bargesAt e (n.bsize / 16) x.2 * n.regs
    slots := o.slots.zipIdx.map fun x => x.1 + bargesAt e (n.bsize / 16) x.2
    acc := o.acc + n.acc, ctxs := o.ctxs ++ cx.toList }
/-- A core with the scratchpad and the owner slot of a block taken, which it keeps across pre-emption (R376). -/
def Room.takeKept (o : Room) (off len owner : Nat) : Room :=
  { o with scr := if len = 0 then o.scr else o.scr ++ [(off, len)], owners := o.owners ++ [owner] }
/-- A core with a new block on it. -/
def Room.take (o : Room) (n : Need) (sp : Spot) : Room :=
  (o.takeLanes n sp.lc sp.cx).takeKept sp.scr ((n.scr + 1023) / 1024 * 1024) sp.owner

/-- What a block took at its residency. -/
def Block.need (b : Block) (ctx : Nat) : Need := { bsize := b.bsize, regs := b.nregs, scr := b.scrLen, acc := b.accTiles, ctx }
/-- What is taken of a core, but for blocks in `gone`, of which only what survives pre-emption is (R376). -/
def State.room (s : State) (core : Nat) (gone : List Nat) : Room :=
  s.blocks.foldl (fun (o : Room) e =>
    match e.2 with
    | none => o
    | some b =>
      if b.core ≠ core then o
      else
        let k := o.takeKept b.scrOff b.scrLen (ownerSlot b.owner)
        if b.saved || gone.contains e.1 then k else k.takeLanes (b.need 0) b.lc b.cx) Room.empty

/-- Blocks placed one after another on an empty core (R300). -/
def Room.holds (o : Room) (n : Need) : Nat → Bool
  | 0 => true
  | k + 1 => match o.spot n with | none => false | some sp => Room.holds (o.take n sp) n k
/-- A COSCHED launch fits its cores when they are empty (R300). -/
def coschedFits (r : BitVec 1024) (m : List Byte) : Bool :=
  let cores := (List.range (lTotal r)).map (mapCore r m)
  cores.dedup.all fun c => Room.empty.holds (lNeed r) (cores.filter (· == c)).length

/-! ### Accesses of the dispatcher (R320) -/

/-- The dispatcher acting for a queue of a context: user privilege, and no core's caches (R320). Its agents are the acceptance of records
(0), the reads of launch l's wait conditions (2 l + 1), and the increments at the retirement of block b (2 b + 2). -/
def dispatchParty (slot q : Nat) (who : Nat := 0) : Party := { core := 384, slot, blk := 2 ^ 40 + q, sys := false, who }
/-- A launch accepted. -/
def State.launch (s : State) (l : Nat) : Option Launch := Tbl.get none s.launches l
/-- A launch changed. -/
def State.modLaunch (s : State) (l : Nat) (f : Launch → Launch) : State :=
  match s.launch l with
  | none => s
  | some x => { s with launches := Tbl.put none s.launches l (some (f x)) }
/-- A launch's entry removed. -/
def State.dropLaunch (s : State) (l : Nat) : State := { s with launches := Tbl.erase s.launches l }
/-- A launch queue. -/
def State.queue (s : State) (q : Nat) : Queue := Tbl.get Queue.reset s.queues q
/-- A launch queue changed. -/
def State.modQueue (s : State) (q : Nat) (f : Queue → Queue) : State := { s with queues := Tbl.put Queue.reset s.queues q (f (s.queue q)) }
/-- The loaded context slot with an ASID (R317). -/
def State.slotOf (s : State) (asid : BitVec 16) : Option Nat := (List.range 64).find? fun n => (s.ctx n).loaded && (s.ctx n).asid == asid
/-- The record of a rejection (R295, R367, R368): KIND 3, the queue and the record index. -/
def rejectRec (asid : BitVec 16) (q : Nat) (j : W32) (c : Code) (cause va pa : Nat) : BitVec 512 :=
  ({ code := c.num, kind := 3, num := cause, asid := asid.toNat, va, detail := q, aux := j.toNat, pa } : Rec).bits

/-- One wait condition read (R297): whether it holds, with the state the read leaves. -/
def State.readWait (s : State) (p : Party) (r : BitVec 1024) (w : Nat) : Except Stop (Bool × State) :=
  if lWaddr r w = 0 then .ok (true, s)
  else
    match s.virtRead p (lWaddr r w) 8 with
    | .error e => .error e
    | .ok (l, s1) => .ok (lWval r w ≤ leNat l, s1)
/-- The wait conditions of a launch read (R297). It is released when all of them hold; a read that faults rejects it (R320). -/
def State.poll (s : State) (l : Nat) : State :=
  match s.launch l with
  | none => s
  | some x =>
    if x.released || (s.ctx x.slot).killing then s
    else
      let p := dispatchParty x.slot x.queue (2 * l + 1)
      let asid := (s.ctx x.slot).asid
      match foldStop (fun (acc : Bool × State) w =>
          (acc.2.readWait p x.record w).map fun y => (acc.1 && y.1, y.2)) (true, s) (List.range 4) with
      | .error (.fault c n va pa d) => (((s.found (.fault c n va pa d)).dropLaunch l).unpark p).post (rejectRec asid x.queue x.idx c n va pa)
      | .error e => s.holdOn e p { asid := asid.toNat, detail := x.queue, aux := x.idx.toNat }
      | .ok (true, s1) => (s1.unpark p).modLaunch l fun x => { x with released := true, since := s.clock }
      | .ok (false, s1) => s1.unpark p
/-- Every accepted launch polled (R297). -/
def State.pollAll (s : State) : State := (s.launches.map Prod.fst).foldl State.poll s

/-! ### Queues (R292, R293, R289) -/

/-- The records of a queue that have been appended and not accepted. -/
def Queue.count (x : Queue) : Nat := (x.tail - x.head).toNat
/-- The records that a queue holds. -/
def Queue.size (x : Queue) : Nat := 2 ^ x.log2sz.toNat
/-- The address of record j of a queue (R293). -/
def Queue.slotVa (x : Queue) (j : W32) : Nat := (x.qbase.toNat + 128 * (j.toNat % x.size)) % 2 ^ 56
/-- A host write of TAIL (R293): out of range, or with SRC = 1, it sets ERR. -/
def Queue.writeTail (x : Queue) (t : W32) : Queue :=
  if x.src || (t - x.tail).toNat + x.count > x.size then { x with err := true } else { x with tail := t }
/-- LAUNCH_QUEUE_TAIL_WRITE (R293, R297): the wait conditions are read again after an accepted write. -/
def execLaunchQueueTailWrite (q : Nat) (t : W32) (s : State) : Outcome State Fault Refusal :=
  if q < 64 then .next (s.modQueue q fun x => x.writeTail t).pollAll else .next s

/-- The queue that a lane of `launch` names and the record that it reads at issue, with the checks of R289 and the state the read leaves. -/
def State.launchRead (s : State) (b : Block) (o : R3) (tid : Nat) (t : Thread) : Except Stop (Nat × List Byte × State) :=
  let a := (t.get64 o.a.toNat).toNat
  let n := t.get o.b.toNat
  let q := (n.setWidth 6).toNat
  if a / 2 ^ 56 ≠ 0 then .error (xlatAt 3 a)
  else if a % 128 ≠ 0 then .error (stopAt .align a)
  else if n.extractLsb' 6 26 ≠ 0#26 then .error (stopBare .arg)
  else if !(s.queue q).src || (s.queue q).asid != (s.ctx b.slot).asid then .error (stopBare .prot)
  else (s.virtRead (b.party s.cur.blk t.sys tid) a 128).map fun x => (q, x.1, x.2)
/-- The append of one lane of `launch` (R289, R293): its record goes to an address, the slot at the TAIL of its queue, or, when the queue is
full, nowhere. -/
structure Append where
  tid : Nat
  queue : Nat
  va : Option Nat
  data : List Byte
/-- A queue's TAIL moved past a record. -/
def State.bumpTail (s : State) (q : Nat) : State := s.modQueue q fun x => { x with tail := x.tail + 1#32 }
/-- The appends of lanes in order of `$lane`, each with what stops it (R151): every record is read before any is appended, and `sq` holds the
queues as the earlier lanes leave them. -/
def State.appends (s : State) (b : Block) (o : R3) : State → List (Nat × Thread) → List (Nat × Except Stop Append)
  | _, [] => []
  | sq, (tid, t) :: l =>
    match s.launchRead b o tid t with
    | .error e => (tid, .error e) :: State.appends s b o sq l
    | .ok (q, bs, _) =>
      let x := sq.queue q
      if x.size ≤ x.count then (tid, .ok ⟨tid, q, none, bs⟩) :: State.appends s b o sq l
      else
        (tid, (s.virtWrite (b.party s.cur.blk t.sys tid) (x.slotVa x.tail) bs).map fun _ => ⟨tid, q, some (x.slotVa x.tail), bs⟩) ::
          State.appends s b o (sq.bumpTail q) l
/-- The appends performed, in order of `$lane`. -/
def State.append (s : State) (b : Block) (blk : Nat) (l : List Append) : State :=
  l.foldl (fun (s : State) x =>
    match x.va with
    | none => s
    | some va =>
      let sys := (s.thread blk x.tid).any (·.sys)
      match s.virtWrite (b.party blk sys x.tid) va x.data with
      | .error _ => s
      | .ok s1 => s1.bumpTail x.queue) s
/-- `launch` (R289): once every check of every lane has passed, the lanes read their records, and then append them in ascending order; d
becomes 0, or 1 where the queue is full, and the results are interlocked. -/
def execLaunch (o : R3) (s : State) : Outcome State Fault Refusal :=
  match s.block s.cur.blk with
  | none => .next s
  | some b =>
    let plan := s.appends b o s (s.actors o.g)
    resolve s (s.active o.g) (plan.filterMap fun x => (stopOf x.2).map fun e => (x.1, e)) fun s =>
      let l := plan.filterMap fun x => x.2.toOption
      let s1 := (s.actors o.g).foldl (fun (s1 : State) x =>
        match s1.launchRead b o x.1 x.2 with
        | .error _ => s1
        | .ok y => y.2.2) s
      let s2 := (s1.append b s.cur.blk l).lanes o.g fun tid t =>
        let d : W32 := if (l.find? fun x => x.tid == tid).all fun x => x.va.isSome then 0#32 else 1#32
        { t with pend := t.pend ++ [{ dst := [(o.d.toNat, d)], fl := 0#5, load := false }] }
      if l.any fun x => x.va.isSome then s2.pollAll else s2

/-! ### Acceptance (R295) -/

/-- A record consumed with its rejection (R295). -/
def State.rejectHead (s : State) (q slot : Nat) (c : Code) (cause va pa : Nat) : State :=
  ((s.unpark (dispatchParty slot q)).modQueue q fun x => { x with head := x.head + 1#32 }).post
    (rejectRec (s.ctx slot).asid q (s.queue q).head c cause va pa)
/-- The placement table of a record (R296): its own, read through the context's translation, or the default map. -/
def State.readMap (s : State) (p : Party) (r : BitVec 1024) : Except Stop (List Byte × State) :=
  if lPmap r = 0 then .ok (s.defaultMap p.slot, s) else s.virtRead p (lPmap r) 512
/-- A record accepted (R294, R297). -/
def State.acceptRecord (s : State) (q slot : Nat) (r : BitVec 1024) (m : List Byte) : State :=
  let l := s.nextLaunch
  let x : Launch := { record := r, queue := q, idx := (s.queue q).head, slot, released := false, since := 0, started := [], retired := 0, pmap := some m }
  (({ s with launches := Tbl.put none s.launches l (some x), nextLaunch := l + 1 } : State).modQueue q fun x => { x with head := x.head + 1#32 }).poll l
/-- The checks of a record read at a queue's head (R295, R296, R300), and its acceptance. -/
def State.takeRecord (s : State) (q slot : Nat) (r : BitVec 1024) : State :=
  let p := dispatchParty slot q
  if badRecord r then s.rejectHead q slot .arg 0 0 0
  else
    match s.readMap p r with
    | .error (.fault c n va pa d) => (s.found (.fault c n va pa d)).rejectHead q slot c n va pa
    | .error e => s.holdOn e p { asid := (s.ctx slot).asid.toNat, detail := q, aux := (s.queue q).head.toNat }
    | .ok (m, s1) =>
      if s.badMap slot r m || (Room.empty.spot (lNeed r)).isNone then s1.rejectHead q slot .arg 0 0 0
      else if lCosched r && !coschedFits r m then s1.rejectHead q slot .bsy 0 0 0
      else (s1.unpark p).acceptRecord q slot r m
/-- Accepted launches of a queue whose blocks have not all retired (R293). -/
def State.acceptedOf (s : State) (q : Nat) : Nat := (s.launches.filter fun e => e.2.any fun l => l.queue == q).length
/-- LAUNCH_ACCEPT (R295, R293): the record at a queue's head is read, checked, and accepted or rejected. -/
def execLaunchAccept (q : Nat) (s : State) : Outcome State Fault Refusal :=
  let x := s.queue q
  match s.slotOf x.asid with
  | none => .next s
  | some slot =>
    if 64 ≤ q || !x.en || x.count = 0 || (s.ctx slot).killing || 64 ≤ s.acceptedOf q then .next s
    else
      let p := dispatchParty slot q
      match s.virtRead p (x.slotVa x.head) 128 with
      | .error (.fault c n va pa d) => .next ((s.found (.fault c n va pa d)).rejectHead q slot c n va pa)
      | .error e => .next (s.holdOn e p { asid := x.asid.toNat, detail := q, aux := x.head.toNat })
      | .ok (l, s1) => .next (s1.takeRecord q slot (BitVec.ofNat 1024 (leNat l)))

/-! ### Residency (R31, R33-R36, R298-R300) -/

/-- The block of a launch with a linear index. -/
def State.blockOf (s : State) (l lin : Nat) : Option (Nat × Block) :=
  s.blocks.findSome? fun e => e.2.bind fun b => if b.launch == l && b.lin == lin then some (e.1, b) else none
/-- A block's predecessor in its temporal run has retired (R31). -/
def State.prevRetired (s : State) (l : Nat) (x : Launch) (lin : Nat) : Bool :=
  match lPrev x.record lin with
  | none => true
  | some k => x.started.contains k && (s.blockOf l k).isNone
/-- The block whose context a block of a correction-role launch serves on a core (R298): the primary's when both qualify. -/
def State.servedBy (s : State) (x : Launch) (lin core : Nat) : Option Nat :=
  let l := s.blocks.filterMap fun e => e.2.bind fun b =>
    match s.launch b.launch, b.cx with
    | some y, some cx =>
      if b.core == core && b.slot == x.slot && !b.saved && lRole y.record == 0 && lTag y.record == lTag x.record &&
          lJoin y.record 2 b.lin == lJoin x.record 2 lin && lJoin y.record 3 b.lin == lJoin x.record 3 lin
      then some (e.1, cx) else none
    | _, _ => none
  ((l.find? fun e => e.2 == 0).orElse fun _ => l.head?).map Prod.fst
/-- A core takes a block of a context now (R317, R318, R299): its partition, the context loaded and neither killed nor halted, and 8 cycles since
the core's latest residency. -/
def State.coreOpen (s : State) (slot core : Nat) : Bool :=
  let c := s.ctx slot
  c.loaded && !c.killing && !c.halted && c.halt.isNone && s.inPart slot core &&
  ((s.core core).lastResident.all fun t => t + 8 ≤ s.clock)
/-- A block of a launch at its first residency (R30, R33-R36, R244): `sp` is what it is given. -/
def Launch.newBlock (x : Launch) (l lin core : Nat) (sp : Spot) (gen : BitVec 4) (serves : Option Nat) (det : Bool) (clock : Nat) : Block :=
  let r := x.record
  let code : Addr := BitVec.ofNat 56 (lCode r)
  { launch := l, lin, bid := (List.range 4).map fun i => BitVec.ofNat 32 (lIndex r lin i), core, lc := sp.lc, slot := x.slot
    owner := BitVec.ofNat 2 (core / 96) ++ BitVec.ofNat 7 (core % 96) ++ BitVec.ofNat 6 sp.owner ++ gen
    life := .resident, bsize := lBsize r, nregs := lRegs r, scrOff := sp.scr, scrLen := (lScr r + 1023) / 1024 * 1024, accTiles := lAcc r, cx := sp.cx
    correction := lRole r == 1, tag := BitVec.ofNat 16 (lTag r), serves, prio := lPrio r, cosched := lCosched r, det, windows := [], gate := none
    gateOps := (0#8, 0#8, 0#8), inLock := false, killed := false, preempt := none, since := clock, saved := false, savedLong := false, nextBarge := 64, nextFile := 0
    nextCmd := 0, ringHold := [], threads := (List.range (lBsize r)).map (Thread.fresh code), syncs := [], tile := Tile.fresh, freeze := none, stoppedFrom := none }
/-- What a residency leaves on its core (R31, R299): the start acquires at device scope. -/
def State.arrived (s : State) (core : Nat) (x : Launch) : State :=
  (s.acquire core .device).modCore core fun c =>
    { c with lastResident := some s.clock, served := Tbl.put 63 c.served (lPrio x.record) x.queue }
/-- A scratchpad allocation handed to a new block (R319): it shows nothing of what another block left there, and reads as memory that nothing has
written (log 1). -/
def State.clearScratch (s : State) (core off len : Nat) : State :=
  let out (a n : Nat) : Bool := a + n ≤ scrLoc core off || scrLoc core (off + len) ≤ a
  { s with
    mem := s.mem.filter fun e => out e.1 1
    poison := s.poison.filter fun e => out (16 * e.1) 16
    bad := s.bad.filter fun e => out (16 * e.1) 16 }
/-- A block that has not yet been resident becomes so, if it fits (R17, R34, R298), on the core of the placement map: with DET = 0 the dispatcher
may take any core of the partition that has room, and the model takes the map's too (log 87). -/
def State.placeBlock (s : State) (l lin : Nat) : Option State :=
  (s.launch l).bind fun x =>
    let core := x.core lin
    let serves := if lRole x.record = 1 then s.servedBy x lin core else none
    if lRole x.record = 1 && serves.isNone then none
    else
      ((s.room core []).spot (lNeed x.record)).map fun sp =>
        let gen := Tbl.get 0#4 (s.core core).gens sp.owner + 1#4
        let b := x.newBlock l lin core sp gen serves (s.ctx x.slot).det s.clock
        let s1 := (s.clearScratch core b.scrOff b.scrLen).modCore core fun c => { c with gens := Tbl.put 0#4 c.gens sp.owner gen }
        (({ s1 with blocks := Tbl.put none s1.blocks s1.nextBlock (some b), nextBlock := s1.nextBlock + 1 } : State).modLaunch l fun x =>
          { x with started := x.started ++ [lin] }).arrived core x
/-- A pre-empted block fits again beside what is resident (R55): the context it takes. -/
def State.fitsAgain (s : State) (b : Block) : Option (Option Nat) :=
  (s.launch b.launch).bind fun x => (s.room b.core []).again (b.need (lCtx x.record)) b.lc
/-- The threads of a resumed block that its frame names as waiting in a basin are filed again, in ascending order (R377, R38). -/
def State.refileBasins (s : State) (blk : Nat) (b : Block) : State :=
  let l := b.threads.zipIdx.filterMap fun x =>
    match x.1.status with
    | .waiting (.basin key _ _) => some (x.2, key)
    | _ => none
  let s1 := s.modBlock blk fun b => { b with threads := l.foldl (fun ths x => ths.modify x.1 fun t => { t with status := .active }) b.threads }
  (l.foldl (fun (s : State) x => s.file blk x.1 x.2) s1).settleBasins blk (l.map fun x => (b.clusterOf x.1, x.2))
/-- A pre-empted block resumes (R55, R57, R379), or its frame is not read: frozen while a thread still handles its context's fault, else
resident until it issues. -/
def State.resumeBlock (s : State) (blk : Nat) (b : Block) (cx : Option Nat) : Except (Nat × Block × Unread) State :=
  match s.launch b.launch, s.readBlock blk b with
  | some x, .ok (b1, s1) =>
    let handling := b1.freeze.isSome && b1.threads.any fun t => t.status != .exited && t.status != .asleep
    let s2 := s1.modBlock blk fun _ =>
      { b1 with life := if handling then .frozen else .resident, saved := false, savedLong := false, cx, since := s.clock }
    .ok (((s2.refileBasins blk b1).settleRings blk b1.ringHold.length).arrived b.core x)
  | _, .error e => .error (blk, b, e)
  | none, .ok _ => .ok s
/-- The saved blocks that resume with a block (R298). -/
def State.savedPair (s : State) (blk : Nat) : List Nat := (s.paired blk).filter fun k => (s.block k).any (·.saved)
/-- The blocks of a list fit again together. -/
def State.allFitAgain (s : State) : List Nat → Bool
  | [] => true
  | k :: l =>
    match (s.block k).bind fun b => (s.fitsAgain b).map fun cx => (b, cx) with
    | none => false
    | some (b, cx) => State.allFitAgain (s.modBlock k fun _ => { b with saved := false, cx }) l
/-- The blocks of a list resume together (R298): when the frame of one is not read, none does. -/
def State.resumeAll (s : State) (l : List Nat) : State :=
  match l.foldl (fun (acc : Except (Nat × Block × Unread) State) k =>
      acc.bind fun s =>
        match (s.block k).bind fun b => (s.fitsAgain b).map fun cx => (b, cx) with
        | none => .ok s
        | some (b, cx) => if b.killed then .ok s else s.resumeBlock k b cx) (.ok s) with
  | .ok s1 => s1
  | .error (blk, b, e) => s.unread blk b e

/-- How a launch ranks on a core (R299): PRIO, then its queue after the one served last, then acceptance; the lowest comes first. -/
def State.rank (s : State) (core l : Nat) (x : Launch) : Nat :=
  let last := Tbl.get 63 (s.core core).served (lPrio x.record)
  ((3 - lPrio x.record) * 64 + (x.queue + 127 - last) % 64) * 2 ^ 32 + l
/-- The lowest-numbered core of the partition of a context. -/
def State.firstCore (s : State) (slot : Nat) : Nat := ((List.range 384).find? (s.inPart slot)).getD 0
/-- A COSCHED launch reserves its cores before another of its PRIO (R300): it was released earlier or, when both were in one cycle, comes first in
the order of R299, as the queues served last on the first core of the partition give it (log 89). -/
def State.reservesBefore (s : State) (l : Nat) (x : Launch) (l' : Nat) (y : Launch) : Bool :=
  x.since < y.since || (x.since == y.since && s.rank (s.firstCore x.slot) l x < s.rank (s.firstCore y.slot) l' y)
/-- A COSCHED launch that is released and not placed (R300). -/
def Launch.waitsWhole (x : Launch) : Bool := x.released && lCosched x.record && x.started == []
/-- A core is reserved against a launch (R300): by a COSCHED launch of no lower PRIO, between COSCHED launches of one PRIO the one that reserves
before. -/
def State.reserved (s : State) (core l : Nat) (x : Launch) : Bool :=
  s.launches.any fun e => e.2.any fun y =>
    e.1 != l && y.waitsWhole && ((List.range (lTotal y.record)).any fun k => y.core k == core) &&
    (lPrio x.record < lPrio y.record || (lPrio x.record == lPrio y.record && (!lCosched x.record || s.reservesBefore e.1 y l x)))
/-- The block of a launch that a core would take next (R299 step 3): a pre-empted one first, then the lowest linear index, subject to R31. -/
def State.nextOf (s : State) (core l : Nat) (x : Launch) : Option Nat :=
  let saved := (List.range (lTotal x.record)).find? fun k =>
    (s.blockOf l k).any fun e => e.2.core == core && e.2.saved && !e.2.killed && s.allFitAgain (s.savedPair e.1)
  saved.orElse fun _ =>
    if lCosched x.record then none
    else
      (List.range (lTotal x.record)).find? fun k =>
        !x.started.contains k && x.core k == core && s.prevRetired l x k && (s.placeBlock l k).isSome
/-- The launch and block that a core takes next (R299). -/
def State.choice (s : State) (core : Nat) : Option (Nat × Nat) :=
  (s.launches.filterMap fun e => e.2.bind fun x =>
    if x.released && s.coreOpen x.slot core && !s.reserved core e.1 x then
      (s.nextOf core e.1 x).map fun k => (s.rank core e.1 x, e.1, k)
    else none).foldl (fun (best : Option (Nat × Nat × Nat)) y => match best with
      | none => some y
      | some z => if y.1 < z.1 then some y else best) none |>.map Prod.snd
/-- A launch of higher PRIO has a block that fits a core (R299). -/
def State.outranked (s : State) (core : Nat) (x : Launch) : Bool :=
  s.launches.any fun e => e.2.any fun y =>
    lPrio x.record < lPrio y.record && y.released && s.coreOpen y.slot core && !s.reserved core e.1 y && (s.nextOf core e.1 y).isSome
/-- A COSCHED launch placed whole (R299, R300): every block becomes resident in one pass, or none does. -/
def State.placeWhole (s : State) (l : Nat) (x : Launch) : Option State :=
  let lins := List.range (lTotal x.record)
  if lins.all fun k => s.coreOpen x.slot (x.core k) && !s.reserved (x.core k) l x && !s.outranked (x.core k) x then
    lins.foldl (fun (acc : Option State) k => acc.bind fun s => s.placeBlock l k) (some s)
  else none

/-- BLOCK_RESIDENCY (R299, R300): the dispatcher makes resident the block that the core is due. -/
def execBlockResidency (l lin : Nat) (s : State) : Outcome State Fault Refusal :=
  match s.launch l with
  | none => .next s
  | some x =>
    if x.waitsWhole then .next ((s.placeWhole l x).getD s)
    else
      let core := match s.blockOf l lin with | some e => e.2.core | none => x.core lin
      if s.choice core != some (l, lin) then .next s
      else
        match s.blockOf l lin with
        | some e => .next (s.resumeAll (s.savedPair e.1))
        | none => .next ((s.placeBlock l lin).getD s)

/-! ### Pre-emption for priority (R301) -/

/-- A resident block that may be pre-empted for a block of a launch (R300, R301): it is of lower PRIO, not COSCHED, has been resident for 65,536
cycles, and its context lies in the launch's partition and is not halted (R393). -/
def State.victim (s : State) (x : Launch) (core : Nat) (e : Nat × Option Block) : Bool :=
  e.2.any fun b => b.core == core && !b.saved && !b.killed && !(s.ctx b.slot).halted && b.life != .draining && b.prio < lPrio x.record && !b.cosched && b.preempt.isNone &&
    b.since + 65536 ≤ s.clock && (b.slot == x.slot || (s.ctx b.slot).part == (s.ctx x.slot).part)
/-- Blocks in the order in which they are chosen: the lowest PRIO first, then the most recently resident. -/
def insertVictim (e : Nat × Block) : List (Nat × Block) → List (Nat × Block)
  | [] => [e]
  | y :: l => if e.2.prio < y.2.prio || (e.2.prio == y.2.prio && y.2.since < e.2.since) then e :: y :: l else y :: insertVictim e l
/-- The choices of k of a list, those that take earlier members first. -/
def choose {α : Type} : Nat → List α → List (List α)
  | 0, _ => [[]]
  | _ + 1, [] => []
  | k + 1, x :: l => (choose k l).map (x :: ·) ++ choose (k + 1) l
/-- A block of a launch fits a core without the blocks in `gone`: a saved one with those that resume with it (R298), and of a COSCHED launch every
block that the core is to take (R300). -/
def State.fitsWithout (s : State) (x : Launch) (l lin core : Nat) (gone : List Nat) : Bool :=
  match s.blockOf l lin with
  | some e => let s1 := gone.foldl (fun (s : State) k => s.modBlock k fun b => { b with saved := true }) s; s1.allFitAgain (s.savedPair e.1)
  | none =>
    let k := if lCosched x.record then ((List.range (lTotal x.record)).filter fun i => x.core i == core).length else 1
    (s.room core gone).holds (lNeed x.record) k
/-- The fewest blocks of a core whose pre-emption makes room for a block (R301), with the blocks that leave together (R298); those already
requested count as gone. A block that the launch's block serves is none of them. -/
def State.victims (s : State) (x : Launch) (l lin core : Nat) : List Nat :=
  let asked := s.blocks.filterMap fun e => if e.2.any fun b => b.core == core && b.preempt.isSome then some e.1 else none
  let served := if lRole x.record = 1 then s.servedBy x lin core else none
  let cand := (s.blocks.filterMap fun e => if s.victim x core e && served != some e.1 then e.2.map fun b => (e.1, b) else none).foldl
    (fun l e => insertVictim e l) []
  if s.fitsWithout x l lin core asked then []
  else
    ((List.range (cand.length + 1)).findSome? fun k =>
      (choose k (cand.map Prod.fst)).find? fun g =>
        (g.all fun v => (s.paired v).all fun u => g.contains u || asked.contains u || (s.block u).any (·.saved)) &&
        s.fitsWithout x l lin core (asked ++ g)).getD []
/-- Pre-emption requested of a block and those paired with it (R55, R298, R352): DPBOUND as it stands counts from the request. -/
def State.request (s : State) (blk : Nat) : State :=
  (s.paired blk).foldl (fun (s : State) k => s.modBlock k fun b =>
    if b.preempt.isNone && !b.saved && !b.killed then { b with preempt := some ((s.ctx b.slot).dpbound.toNat, s.clock) } else b) s
/-- The blocks of a launch that wait for room on a core of its context's partition, one for each core (R299 step 3). -/
def State.waiting (s : State) (l : Nat) (x : Launch) : List (Nat × Nat) :=
  let idle := (List.range (lTotal x.record)).filter fun k =>
    match s.blockOf l k with
    | some e => e.2.saved
    | none => !x.started.contains k && s.prevRetired l x k && (lRole x.record != 1 || (s.servedBy x k (x.core k)).isSome)
  let at_ (k : Nat) : Nat := match s.blockOf l k with | some e => e.2.core | none => x.core k
  ((idle.map at_).dedup.filter (s.inPart x.slot)).filterMap fun c => (idle.find? fun k => at_ k == c).map fun k => (c, k)
/-- The requests of a released launch (R301). -/
def State.requestFor (s : State) (l : Nat) : State :=
  match s.launch l with
  | none => s
  | some x =>
    if !x.released then s
    else (s.waiting l x).foldl (fun (s : State) e => (s.victims x l e.2 e.1).foldl State.request s) s
/-- LAUNCH_WAIT_POLL (R297, R301). -/
def execLaunchWaitPoll (l : Nat) (s : State) : Outcome State Fault Refusal := .next ((s.poll l).requestFor l)
/-- PREEMPT_RESIDENCY_EXPIRY (R301): a block has been resident for 65,536 cycles, and a waiting launch may ask for its room. -/
def execPreemptResidencyExpiry (l : Nat) (s : State) : Outcome State Fault Refusal := .next (s.requestFor l)

/-! ### Retirement (R57, R58, R297) -/

/-- The atomic add of 1 to a completion counter (R297). -/
def doneAdd : Rmw :=
  { n := 8, new := fun old => some ((old + 1) % 2 ^ 64), op := .atom .add, args := leBytes 8 1, host := true, adv := false }
/-- A completion counter is incremented by 1, by an atomic add at its home (R297): what stops it, or the state it leaves. -/
def State.increment (s : State) (p : Party) (va : Nat) : Except Stop State :=
  match s.checkRmw p va doneAdd with
  | .error e => .error e
  | .ok pl =>
    let s1 := s.settled p [(va, pl, 8)]
    match pl.ack with
    | some _ => .ok s1
    | none =>
      let s2 := s1.fetchHome pl.loc
      .ok (s2.homeStore p.core pl.loc (leBytes 8 ((s2.word pl.loc 8 + 1) % 2 ^ 64)))
/-- A completion counter of a launch is incremented; a fault posts a record of KIND 7 and leaves it unchanged (R320). -/
def State.complete (s : State) (p : Party) (x : Launch) (i : Nat) : Except Stop State :=
  if lDone x.record i = 0 then .ok s
  else
    match s.increment p (lDone x.record i) with
    | .ok s1 => .ok s1
    | .error (.fault c n va pa d) =>
      let r : Rec := { code := c.num, kind := 7, num := n, asid := (s.ctx x.slot).asid.toNat, va := lDone x.record i, detail := x.queue,
                       aux := x.idx.toNat, pa }
      .ok ((s.found (.fault c n va pa d)).post r.bits)
    | .error e => .error e

/-- Faults of a retiring block's thread commands that no thread observed are posted (R271): KIND 5. -/
def State.postUnobserved (s : State) (blk : Nat) (b : Block) : State :=
  (s.core b.core).chans.foldl (fun (s : State) e =>
    match (e.2.rec_ blk false).flt with
    | none => s
    | some (_, r) =>
      let q := recKind (({ asid := (s.ctx b.slot).asid.toNat, own := b.owner.toNat, core := b.core } : Rec).bits ||| r) 5
      (s.post q).trace b.slot b.core (faultTrace q 0)) s
/-- A block's resources released (R57): its entry, its channel records, its leaves and its endpoints. A leaf that has completed its phase
counts at the root no longer (R284). -/
def State.release (s : State) (blk : Nat) (b : Block) : State :=
  let left := (s.core b.core).leaves.filter fun e => e.2.owner == some blk && e.2.reported
  let s1 := s.modCore b.core fun c =>
    { c with
      chans := c.chans.map fun e => (e.1, { e.2 with recs := Tbl.erase (Tbl.erase e.2.recs (2 * blk)) (2 * blk + 1) })
      leaves := c.leaves.filterMap fun e =>
        if e.2.owner == some blk then (if e.2.ph then some (e.1, { Leaf.empty with ph := true }) else none) else some e
      ends := c.ends.map fun e => (e.1, if e.2.owner == some blk then { e.2 with owner := none, opened := false } else e.2) }
  { s1 with
    blocks := Tbl.erase s1.blocks blk
    remotes := s1.remotes.filter fun r => r.blk != blk
    upsets := s1.upsets.filter fun e => e.1 != blk
    roots := left.foldl (fun t e => Tbl.modify 0 t (rootOf b.core e.1) (· - 1)) s1.roots }
/-- Incomplete commands of a block on the channels of its core. -/
def State.cmdsOf (s : State) (blk : Nat) (b : Block) : List Cmd := (s.core b.core).chans.flatMap fun e => e.2.cmds.filter fun m => m.blk == blk
/-- A launch counts one more of its blocks retired, and goes when all have. -/
def State.retiredOne (s : State) (l : Nat) : State :=
  match s.launch l with
  | none => s
  | some x => if x.retired + 1 = lTotal x.record then s.dropLaunch l else s.modLaunch l fun x => { x with retired := x.retired + 1 }

/-- BLOCK_RETIRE (R57, R58, R234, R297): a block whose threads have exited retires once its commands are complete, its writes acknowledged and
the writes of other contexts to its windows performed. -/
def execBlockRetire (blk : Nat) (s : State) : Outcome State Fault Refusal :=
  match s.block blk with
  | none => .next s
  | some b =>
    if b.life ≠ .draining || b.killed || s.cmdsOf blk b ≠ [] || (s.remotes.any fun r => r.blk == blk && !r.done && !r.failed) ||
        s.windowsBusy blk b (b.windows.map (·.off)) then .next s
    else
      match s.launch b.launch with
      | none => .next ((s.postUnobserved blk b).release blk b)
      | some x =>
        let s1 := s.postUnobserved blk b
        let p := dispatchParty x.slot x.queue (2 * blk + 2)
        match foldStop (fun (s : State) i => s.complete p x i) s1 [0, 1] with
        | .error (.fault _ _ _ _ _) => .next s
        | .error e => .next (s.holdOn e p { asid := (s.ctx x.slot).asid.toNat, detail := x.queue, aux := x.idx.toNat })
        | .ok s2 => .next (((s2.unpark p).release blk b).retiredOne b.launch).pollAll

end Sys2Proof.Machine
end

