-- ==== Sys2Proof/Machine/Objects.lean ====
section
/-! DEFINITION. Tagged objects (10_reachability.md R241-R258): headers and fields, `ldr`, `str`, `tagld`, `objinit`, and `pub` with
the reach walker. -/

namespace Sys2Proof.Machine

open Host (Outcome)

/-! ### Checks on references -/

/-- TAG against a reference, which the detail word names (R368). -/
def tagRef (r : Nat) : Stop := .fault .tag 0 r 0 r
/-- ESC against a reference. -/
def escRef (r : Nat) : Stop := .fault .esc 0 r 0 r

/-- The header at a reference, with its place (R248, R369), busy or not. -/
def State.headerAt (s : State) (p : Party) (r : Nat) : Except Stop (Place × Nat) :=
  if r / 2 ^ 56 ≠ 0 || r % 128 ≠ 0 then .error (tagRef r)
  else
    match s.place p r 8 .read with
    | .error e => .error e
    | .ok pl =>
      let h := s.word pl.loc 8
      if !pl.obj then .error (tagRef r)
      else
        match s.readable p r pl 8 with
        | .error e => .error e
        | .ok pl => if !s.tag pl.loc || hState h = 0 then .error (tagRef r) else .ok (pl, h)
/-- `Header` of R248: waits while the object is busy. -/
def State.header (s : State) (p : Party) (r : Nat) : Except Stop (Place × Nat) :=
  match s.headerAt p r with
  | .error e => .error e
  | .ok (pl, h) => if hState h = 3 then .error (.busy pl.loc) else .ok (pl, h)
/-- `Field` of R248: the address of the field at a signed offset, the header and its place. `hd` is `Header`. -/
def fieldOf (hd : Nat → Except Stop (Place × Nat)) (own r : Nat) (ofs : Int) : Except Stop (Nat × Nat × Place) :=
  match hd r with
  | .error e => .error e
  | .ok (pl, h) =>
    if ofs % 8 ≠ 0 then .error (stopAt .align ((r + ofs).toNat))
    else if ofs < 8 || 8 * (hLen h : Int) < ofs then .error (.fault .bound 0 ((r + ofs).toNat) 0 r)
    else if hState h = 1 && hOwn h ≠ own then .error (escRef r)
    else .ok ((r + ofs).toNat, h, pl)
/-- The checks on the value v that a reference field of an object with header h takes (R249): a null reference passes; `scope` is
the scope v will hold, none while it stays private. -/
def refCheck (hd : Nat → Except Stop (Place × Nat)) (own h v : Nat) (scope : Nat → Option Nat) : Except Stop Unit :=
  if v = 0 then .ok ()
  else
    match hd v with
    | .error e => .error e
    | .ok (_, hv) =>
      if hState hv = 1 && hOwn hv ≠ own then .error (escRef v)
      else if hState h = 2 && (match scope hv with | none => true | some c => c < hScope h) then .error (escRef v)
      else .ok ()

/-! ### `ldr`, `str`, `tagld`, `objinit` -/

/-- A field that an instruction reads or writes: its address and place, and the place of its object's header. -/
structure FieldAt where
  va : Nat
  pl : Place
  hdr : Place
  deriving DecidableEq, Repr
/-- The checks of `ldr` (R249, R369). The tag of a word outside OBJ pages has no effect (R241). The tag is read with the data: of the line of
the L1 that will serve them, unless a first access through an entry makes that line invalid (R329). -/
def ldrCheck (s : State) (b : Block) (o : LdrOp) (tid : Nat) (t : Thread) : Except Stop FieldAt :=
  let p := b.party s.cur.blk t.sys tid
  let r := (t.get64 o.a.toNat).toNat
  match fieldOf (s.header p) b.owner.toNat r o.ofs.toInt with
  | .error e => .error e
  | .ok (a, _, hdr) =>
    match s.place p a 8 .read with
    | .error e => .error e
    | .ok pl =>
      let tag := if pl.read = [] && hdr.read = [] then s.tagSeen b.core pl.loc else s.tag pl.loc
      if !(pl.obj && tag) then .error (tagRef r) else (s.readable p a pl 8).map fun pl => ⟨a, pl, hdr⟩
/-- What the reads of headers by an instruction leave in the translation machinery (R329, R337): one request for a line that its fields do
not lie in. -/
def State.settleHeaders (s : State) (b : Block) (l : List (Nat × FieldAt)) : State :=
  s.settle b s.cur.blk ((l.filter fun x => x.2.hdr.loc / 128 != x.2.pl.loc / 128).map fun x => (x.2.va, x.2.hdr, 8))

/-- `ldr` (R260). -/
def execLdr (o : LdrOp) (s : State) : Outcome State Fault Refusal :=
  match s.block s.cur.blk with
  | none => .next s
  | some b =>
    guarded s o.g (s.laneErrors o.g fun tid t => (ldrCheck s b o tid t).map fun _ => ()) fun s =>
      let acts := (s.actors o.g).filterMap fun x => (ldrCheck s b o x.1 x.2).toOption.map fun y => (x.1, y)
      loadLanes (s.settleHeaders b acts) b o.g 8 (acts.map fun x => (x.1, x.2.va, x.2.pl)) o.hint (loadRegs .w64) o.d.toNat o.ord

/-- The scope of v for `str` (R249). -/
def strScope (hv : Nat) : Option Nat := if hState hv = 1 then none else some (hScope hv)
/-- The checks of `str` (R249, R286, R369). -/
def strCheck (s : State) (b : Block) (o : LdrOp) (tid : Nat) (t : Thread) : Except Stop FieldAt :=
  let p := b.party s.cur.blk t.sys tid
  match fieldOf (s.header p) b.owner.toNat (t.get64 o.a.toNat).toNat o.ofs.toInt with
  | .error e => .error e
  | .ok (a, h, hdr) =>
    match s.place p a 8 .write with
    | .error e => .error e
    | .ok pl =>
      let v := (t.get64 o.d.toNat).toNat
      let bs := leBytes 8 v
      if s.winWrite pl.loc bs false then .error (stopAt .win a)
      else
        match refCheck (s.header p) b.owner.toNat h v strScope with
        | .error e => .error e
        | .ok _ => (s.acknowledged p a ⟨pl.loc, 8, .write, bs⟩).map fun r => ⟨a, { pl with ack := r }, hdr⟩

/-- `str` (R260): the value and the tag, in one write (R249). -/
def execStr (o : LdrOp) (s : State) : Outcome State Fault Refusal :=
  match s.block s.cur.blk with
  | none => .next s
  | some b =>
    guarded s o.g (s.laneErrors o.g fun tid t => (strCheck s b o tid t).map fun _ => ()) fun s =>
      let acts := (s.actors o.g).filterMap fun x => (strCheck s b o x.1 x.2).toOption.map fun y => (x.1, y)
      let out := acts.map fun x => (x.1, x.2.va, x.2.pl, leBytes 8 (((s.thread s.cur.blk x.1).map fun t => (t.get64 o.d.toNat).toNat).getD 0))
      (acts.filter fun x => paDram x.2.pl.loc).foldl (fun s x => s.writeTag b.core x.2.pl.loc true) (storeLanes (s.settleHeaders b acts) b out o.hint)

/-- `tagld` (R260, R241). -/
def execTagld (o : TagOp) (s : State) : Outcome State Fault Refusal :=
  match s.block s.cur.blk with
  | none => .next s
  | some b =>
    let place (tid : Nat) (t : Thread) : Except Stop Place := s.checkAt (b.party s.cur.blk t.sys tid) (t.ea o.a o.ofs) 1 1 .read
    guarded s o.g (s.laneErrors o.g fun tid t => (place tid t).map fun _ => ()) fun s =>
      let acts := (s.actors o.g).filterMap fun x => (place x.1 x.2).toOption.map fun pl => (x.1, x.2.ea o.a o.ofs, pl)
      let s1 := s.settle b s.cur.blk (acts.map fun x => (x.2.1, x.2.2, 1))
      (s1.onLanes fun tid t =>
        match acts.find? fun x => x.1 == tid with
        | none => t.advance
        | some x =>
          let v : W32 := (BitVec.ofBool (x.2.2.obj && s1.tagSeen b.core x.2.2.loc)).setWidth 32
          (t.deliver o.d.toNat [v] (s.fixedLatency b.core x.2.2.loc) true 0#5).advance).watch b (acts.map fun x =>
            { va := some x.2.1, pa := x.2.2.loc, n := 1, rd := true, wr := false, eng := false, who := x.1 })

/-- The virtual addresses of the lines of an object (R243). -/
def objLines (o len : Nat) : List Nat := (List.range ((8 * (len + 1) + 127) / 128)).map fun i => o + 128 * i
/-- The bytes of an object that lie in one of its lines. -/
def lineShare (a len va : Nat) : Nat := Nat.min 128 (a + 8 * (len + 1) - va)
/-- The first part of the checks of `objinit` (R247, R260, R286, R369, R417): every line is translated before any is checked further; the
places of the object's lines. -/
def objinitCheck (s : State) (b : Block) (o : TagOp) (t : Thread) : Except Stop (List Place) :=
  let a := t.ea o.a o.ofs
  let l := t.get o.d.toNat
  let u := t.get (o.d.toNat + 1)
  let len := (l.setWidth 20).toNat
  if l.extractLsb' 20 12 ≠ 0#12 || u.extractLsb' 20 12 ≠ 0#12 then .error (stopBare .arg)
  else if a / 2 ^ 56 ≠ 0 then .error (xlatAt 3 a)
  else if a % 128 ≠ 0 then .error (stopAt .align a)
  else if len = 0 then .error (stopBare .arg)
  else
    match mapStop (fun va => s.place (b.party s.cur.blk t.sys) va 8 .write) (objLines a len) with
    | .error e => .error e
    | .ok pls =>
      match ((objLines a len).zip pls).find? fun x => s.winWrite x.2.loc (List.replicate (lineShare a len x.1) 0#8) false with
      | some x => .error (stopAt .win x.1)
      | none => if pls.all (·.obj) then .ok pls else .error (tagRef a)

/-- The location of field word f of an object whose lines have these places. -/
def fieldLoc (pls : List Place) (f : Nat) : Nat := ((pls[8 * f / 128]?).map (·.loc)).getD 0 + 8 * f % 128
/-- The second part at user privilege (R247): ESC for an object of another owner, TAG for a tagged word of no such object. The header is data
that it reads (R383). -/
def objinitOwner (s : State) (own a len : Nat) (pls : List Place) : Except Stop Unit :=
  let o := fieldLoc pls 0
  let h := s.word o 8
  let fields := if s.tag o then hLen h else 0
  if s.tag o && s.poisoned o 8 then .error (s.poisAt a o 8)
  else if s.tag o && s.badRange o 8 then .error (s.eccAt a o 8)
  else if s.tag o && hState h = 0 then .error (tagRef a)
  else if s.tag o && (hState h ≠ 1 || hOwn h ≠ own) then .error (escRef a)
  else if (List.range len).any fun f => s.tag (fieldLoc pls (f + 1)) && fields < f + 1 then .error (tagRef a)
  else .ok ()
/-- The object written (R247): fields zero with clear tags, PRV and LOWN, and the header last. -/
def objinitWrite (s : State) (core own len user : Nat) (pls : List Place) : State :=
  let s1 := (List.range len).foldl (fun s f =>
    (s.homeStore core (fieldLoc pls (f + 1)) (leBytes 8 0)).writeTag core (fieldLoc pls (f + 1)) false) s
  let s2 : State := { s1 with prv := pls.foldl (fun t (pl : Place) => Tbl.put 0 t (pl.loc / 128) (core + 1)) s1.prv }
  (s2.headerStore (fieldLoc pls 0) (mkHdr 1 0 own len user)).writeTag core (fieldLoc pls 0) true

/-- `objinit` (R260, R247, R417): lanes perform in order of `$lane`; one on an object that a walk holds busy waits at its home, at either
privilege (R258). -/
def execObjinit (o : TagOp) (s : State) : Outcome State Fault Refusal :=
  match s.block s.cur.blk with
  | none => .next s
  | some b =>
    match s.laneErrors o.g fun _ t => (objinitCheck s b o t).map fun _ => () with
    | e :: l => guarded s o.g (e :: l) id
    | [] =>
      let acts := (s.actors o.g).filterMap fun x => (objinitCheck s b o x.2).toOption.map fun pls => (x.1, x.2, pls)
      if acts.any fun x => s.busyAt (fieldLoc x.2.2 0) then .next s
      else
        laneByLane s o.g (fin := fun s => s.watch b (acts.flatMap fun x =>
            let a := x.2.1.ea o.a o.ofs
            let len := ((x.2.1.get o.d.toNat).setWidth 20).toNat
            ((objLines a len).zip x.2.2).map fun y =>
              { va := some y.1, pa := y.2.loc, n := lineShare a len y.1, rd := false, wr := true, eng := false, who := x.1 }))
          fun s tid =>
          match acts.find? fun x => x.1 == tid with
          | none => .ok s
          | some (_, t, pls) =>
            let a := t.ea o.a o.ofs
            let len := ((t.get o.d.toNat).setWidth 20).toNat
            let user := ((t.get (o.d.toNat + 1)).setWidth 20).toNat
            match if t.sys then .ok () else objinitOwner s b.owner.toNat a len pls with
            | .error e => .error e
            | .ok _ =>
              .ok (objinitWrite (s.settle b s.cur.blk ((objLines a len).zip pls |>.map fun x => (x.1, x.2, 128))) b.core b.owner.toNat len user pls)

/-! ### The reach walker -/

/-- What a walk meets at its next step. -/
inductive WalkEnd where
  | more | ready
  | blocked (loc : Nat)
  | stop (e : Stop)
  | spill
  /-- An access to the walk-stack region stops (R254). -/
  | region (e : Stop)
  deriving DecidableEq, Repr

/-- A fault of a walk, whose detail word names the reference r (R252), beside the unit of an ECC or POIS (R368). -/
def Stop.naming (e : Stop) (r : Nat) : Stop :=
  match e with
  | .fault c n va pa d => .fault c n va pa (r / 4 * 4 + d % 4)
  | .park _ _ _ | .away _ | .busy _ => e
/-- A check of a walk on a reference r. -/
def naming {α : Type} (r : Nat) (x : Except Stop α) : Except Stop α := x.mapError fun e => e.naming r
/-- `Header` for a walk (R248): busy under the walk itself, an object has the header that the walk recorded. -/
def State.walkHeader (s : State) (d n : Nat) (w : Walk) (r : Nat) : Except Stop (Place × Nat) :=
  match naming r (s.headerAt w.party r) with
  | .error e => .error e
  | .ok (pl, h) =>
    if hState h ≠ 3 then .ok (pl, h)
    else
      match if h / 2 ^ 57 % 4 = d && h / 2 ^ 53 % 16 = n then w.marked.find? fun m => s.markLoc w m == pl.loc else none with
      | some m => .ok (pl, m.2.1)
      | none => .error (.busy pl.loc)
/-- A walk meets an object that is busy under another (R252): it gives way to an older walk, and wounds a younger one, unless that has come to
the point from which it completes. -/
def State.meetBusy (s : State) (w : Walk) (loc h : Nat) : State × Walk × WalkEnd :=
  let ud := h / 2 ^ 57 % 4
  let un := h / 2 ^ 53 % 16
  match s.walkAt ud un with
  | none => (s, w, .blocked loc)
  | some u =>
    if u.ticket < w.ticket then (s.releaseMarks w, w.restart, .blocked loc)
    else (if u.ready then s else s.putWalk ud un (some { u with wounded := some loc }), w, .blocked loc)

/-- The destination checks of a `pub` into an OBJ page (R249). -/
def State.destCheck (s : State) (d n : Nat) (w : Walk) (own : Nat) : Except Stop Unit :=
  if !w.destObj then .ok ()
  else
    match fieldOf (s.walkHeader d n w) own w.base ((w.va : Int) - w.base) with
    | .error e => .error e
    | .ok (_, h, _) =>
      refCheck (s.walkHeader d n w) own h w.ref fun hv =>
        some (if hState hv = 1 then scopeCode w.scope else Nat.max (scopeCode w.scope) (hScope hv))

/-- The words of an object that hold non-null references, in order of their fields; with the first stop on reading them. The words of pages
without OBJ have no tags (R241). -/
def State.refFields (s : State) (p : Party) (r len : Nat) : Except Stop (List Nat) :=
  (List.range len).foldr (fun f acc =>
    match s.place p (r + 8 * (f + 1)) 8 .read with
    | .error e => .error e
    | .ok pl =>
      if !pl.obj then acc
      else
        match s.readable p (r + 8 * (f + 1)) pl 8 with
        | .error e => .error e
        | .ok pl =>
          let v := leNat (s.homeBytes pl.loc 8)
          if s.tag pl.loc && v ≠ 0 then acc.map (v :: ·) else acc) (.ok [])
/-- The numbers of the lines of an object (R243), each page at its own frame. -/
def State.lineNums (s : State) (p : Party) (r len : Nat) : Except Stop (List Nat) :=
  mapStop (fun va => (s.place p va 8 .read).map fun pl => pl.loc / 128) (objLines r len)

/-- Mark of R252 on the object of reference r, with the fields pushed: the lines of a private object that the walk has read come home (R220),
unless it publishes at block or core scope, which writes nothing back (R257, log 86); what the walk now holds beyond its slot goes to its
part of the region (R254); and the header becomes busy. Where the part has no room for that, or cannot be written, the walk stops before it
marks. -/
def State.mark (s : State) (d n : Nat) (w : Walk) (rest : List Nat) (r loc h : Nat) (lines fs : List Nat) : State × Walk × WalkEnd :=
  let w1 := { w with stack := fs ++ rest, marked := w.marked ++ [(loc, h, lines, r)] }
  if s.walkRoom w.slot < w1.inUse then (s, w, .spill)
  else
    let s0 := if 2 ≤ scopeCode w.scope then lines.foldl (fun (s : State) l => s.fetchHome (l * 128)) s else s
    match s0.writeSpill d n w1 with
    | .error e => (s0, w, .region e)
    | .ok s1 => (s1.headerStore loc (mkHdr 3 (hScope h) (d % 4 * 2 ^ 17 + n % 16 * 2 ^ 13) (hLen h) h), w1, .more)
/-- One iteration of the marking loop of R252. -/
def State.walkStep (s : State) (d n own : Nat) (w : Walk) : State × Walk × WalkEnd :=
  match w.stack with
  | [] => (s, { w with ready := true }, .ready)
  | r :: rest =>
    if r = 0 then (s, { w with stack := rest }, .more)
    else
      match naming r (s.headerAt w.party r) with
      | .error e => (s, w, .stop e)
      | .ok (pl, h) =>
        if hState h = 3 then
          if h / 2 ^ 57 % 4 = d && h / 2 ^ 53 % 16 = n then (s, { w with stack := rest }, .more) else s.meetBusy w pl.loc h
        else if hState h = 2 && scopeCode w.scope ≤ hScope h then (s, { w with stack := rest }, .more)
        else if hState h = 1 && hOwn h ≠ own then (s, w, .stop (escRef r))
        else
          match naming r (s.refFields w.party r (hLen h)), naming r (s.lineNums w.party r (hLen h)) with
          | .error e, _ => (s, w, .stop e)
          | .ok _, .error e => (s, w, .stop e)
          | .ok fs, .ok ls => s.mark d n w rest r pl.loc h ls fs

/-- The marking loop, for at most this many iterations. -/
def State.walkLoop (d n own : Nat) : Nat → State → Walk → State × Walk × WalkEnd
  | 0, s, w => (s, w, .more)
  | fuel + 1, s, w =>
    match s.walkStep d n own w with
    | (s1, w1, .more) => State.walkLoop d n own fuel s1 w1
    | x => x

/-- How far a run of a walk has brought it, put into effect (R252, R254, R330). -/
def State.walkResult (s : State) (d n : Nat) (w0 : Walk) (e : WalkEnd) : State :=
  let w := { w0 with spill := w0.inUse }
  match e with
  | .stop (.park ptea va posts) => s.parkWalk d n w ptea va posts
  | .stop (.busy loc) => s.putWalk d n (some { w with blocked := some loc, lastPark := none })
  | .stop (.away a) => (s.sendAway w.blk w.tid a).putWalk d n (some { w with lastPark := none })
  | .stop e => s.failWalk d n w e
  | .blocked loc => s.putWalk d n (some { w with blocked := some loc, lastPark := none })
  | .spill => s.suspendWalk d n w w.va
  | .region e => s.regionStop d n w e
  | .more | .ready => s.putWalk d n (some { w with lastPark := none })

/-- The owner number of the block of a walk. -/
def State.walkOwn (s : State) (w : Walk) : Nat := ((s.block w.blk).map (·.owner.toNat)).getD 0
/-- A walk takes no step: it is suspended, it is parked, or a kill has ended it (R254, R330, R258). -/
def State.walkHolds (s : State) (w : Walk) : Bool := w.suspended || w.parked.isSome || (s.ctx w.slot).killing
/-- The object for which a walk waits is still busy (R252). -/
def State.walkBlocked (s : State) (w : Walk) : Bool := w.blocked.any fun loc => s.tag loc && hState (s.word loc 8) == 3
/-- A run of a walk (R252): a wounded walk releases its marks and waits; one whose object is busy waits on; else it checks its
destination and marks on. -/
def State.runWalk (s : State) (d n : Nat) : State :=
  match s.walkAt d n with
  | none => s
  | some w =>
    if s.walkHolds w then s
    else
      match w.wounded with
      | some loc => (s.releaseMarks w).putWalk d n (some { w.restart with blocked := some loc })
      | none =>
        if w.ready || s.walkBlocked w then s
        else
          let w := { w with blocked := none }
          match if w.checked then .ok () else s.destCheck d n w (s.walkOwn w) with
          | .error e => s.walkResult d n w (.stop e)
          | .ok _ =>
            let x := State.walkLoop d n (s.walkOwn w) 65536 s { w with checked := true }
            x.1.walkResult d n x.2.1 x.2.2

/-! ### `pub` -/

/-- A lane's `pub` joins its die's walker, or goes on with its suspended walk (R251, R254). -/
def State.askWalk (s : State) (d : Nat) (w : Walk) : State :=
  match ((s.die d).walks.find? fun e => e.2.any fun u =>
      u.suspended && u.slot == w.slot && u.blk == w.blk && u.tid == w.tid && u.va == w.va) with
  | some (n, some u) => s.putWalk d n (some { u with suspended := false, destObj := w.destObj, sys := w.sys })
  | some (_, none) | none => s.modDie d fun x => { x with walkQueue := x.walkQueue ++ [w] }

/-- The first part of the checks of `pub` (R260, R286, R417): the place of its destination. -/
def pubCheck (s : State) (b : Block) (o : PubOp) (tid : Nat) (t : Thread) : Except Stop (Nat × Place) :=
  let va := t.ea o.a o.ofs
  let p := b.party s.cur.blk t.sys tid
  match s.checkAt p va 8 8 .write with
  | .error e => .error e
  | .ok pl => if s.winWrite pl.loc (leBytes 8 (t.get64 o.d.toNat).toNat) false then .error (stopAt .win va) else .ok (va, pl)

/-- `pub` (R260, R252): each lane's walk joins the reach walker of the issuing die, and the barge waits for all of them. -/
def execPub (o : PubOp) (s : State) : Outcome State Fault Refusal :=
  match s.block s.cur.blk with
  | none => .next s
  | some b =>
    match s.laneErrors o.g fun tid t => (pubCheck s b o tid t).map fun _ => () with
    | e :: l => guarded s o.g (e :: l) id
    | [] =>
      let acts := (s.actors o.g).filterMap fun x => (pubCheck s b o x.1 x.2).toOption.map fun y => (x.1, x.2, y)
      if acts = [] then .next (s.onLanes fun _ t => t.advance)
      else
        let ws := acts.map fun x => ({
          blk := s.cur.blk, tid := x.1, ticket := 0, ref := (x.2.1.get64 o.d.toNat).toNat,
          destObj := x.2.2.2.obj, va := x.2.2.1, base := (x.2.1.get64 o.a.toNat).toNat, checked := false, scope := o.scope,
          core := b.core, slot := b.slot, sys := x.2.1.sys, marked := [], stack := [(x.2.1.get64 o.d.toNat).toNat], spill := 0,
          blocked := none, wounded := none, ready := false, suspended := false, parked := none, lastPark := none } : Walk)
        .next ((ws.foldl (fun s w => s.askWalk (b.core / 96) w) s).onLanes fun _ t =>
          { t with status := .stalled .pub, pub := some (if t.guard o.g then .run else .skip) })

/-- Where a waiting `pub` stands in the order of acceptance (R251): its core, lane cluster and `$lane`. -/
def State.walkRank (s : State) (w : Walk) : Nat :=
  w.core * 128 + ((s.block w.blk).map fun b => b.clusterOf w.tid * 16).getD 0 + w.tid % 16
/-- The `pub` that a die's walker accepts next (R251): of those that wait, the first of the lowest rank; those of a killed context go. Of two of
one rank, lanes of different barges of one lane cluster, for which the rule gives no order, the one that came first (log 86). -/
def State.nextWalk (s : State) (d : Nat) : Option Walk :=
  ((s.die d).walkQueue.filter fun w => !(s.ctx w.slot).killing).foldl (fun (best : Option Walk) w =>
    match best with
    | none => some w
    | some u => if s.walkRank w < s.walkRank u then some w else best) none
/-- WALK_ACCEPT (R251): the die's walker takes a waiting `pub` into a free slot, with a ticket, and marks. -/
def execWalkAccept (d : Nat) (s : State) : Outcome State Fault Refusal :=
  match s.nextWalk d, (List.range 16).find? fun n => (s.walkAt d n).isNone with
  | some w, some n =>
    let s1 := s.modDie d fun x => { x with walkQueue := x.walkQueue.erase w }
    .next ((s1.putWalk d n (some { w with ticket := s.clock * 4 + d })).runWalk d n)
  | _, _ => .next s
/-- WALK_RESTART (R252): a walk that waited goes on. -/
def execWalkRestart (d n : Nat) (s : State) : Outcome State Fault Refusal := .next (s.runWalk d n)

/-- An object's dirty lines written back from the L1 of its owner's core, and PRV cleared (R252). -/
def State.publishLines (s : State) (lines : List Nat) : State :=
  lines.foldl (fun s l =>
    let s1 := s.fetchHome (l * 128)
    ({ s1 with prv := Tbl.put 0 s1.prv l 0 } : State)) s
/-- The lines of a marked object, translated as they stand now (R335); where they were found, if they cannot be. -/
def State.markLines (s : State) (w : Walk) (m : Nat × Nat × List Nat × Nat) : List Nat :=
  match s.lineNums w.party m.2.2.2 (hLen m.2.1) with
  | .ok l => l
  | .error _ => m.2.2.1
/-- The end of a walk whose objects are all marked (R252, R249): write-backs, headers, and the store of the reference, which in a page
without OBJ leaves tag 0. A store to another device's memory has then been acknowledged there (log 73). -/
def State.finishWalk (s : State) (w : Walk) (pl : Place) : State :=
  let s1 := if 2 ≤ scopeCode w.scope then w.marked.foldl (fun s m => s.publishLines (s.markLines w m)) s else s
  let s2 := w.marked.foldl (fun s m =>
    s.headerStore (s.markLoc w m) (mkHdr 2 (Nat.max (hScope m.2.1) (scopeCode w.scope)) (hOwn m.2.1) (hLen m.2.1) m.2.1)) s1
  let s3 := (s2.settled w.party [(w.va, pl, 8)]).homeStore w.core pl.loc (leBytes 8 w.ref)
  if paDram pl.loc then s3.writeTag w.core pl.loc pl.obj else s3
/-- WALK_COMPLETE (R252): the walk's marked point. The destination is translated as it stands now (R335), and the checks on it hold still
(R249, R255); else the walk faults, or waits as at any busy object. A store to another device, the host or an expander is acknowledged first,
or fails the walk with TIMEOUT (R366). -/
def execWalkComplete (d n : Nat) (s : State) : Outcome State Fault Refusal :=
  match s.walkAt d n with
  | none => .next s
  | some w0 =>
    if !w0.ready || w0.wounded.isSome || s.walkHolds w0 || s.walkBlocked w0 then .next s
    else
      match s.checkAt w0.party w0.va 8 8 .write with
      | .error e => .next (s.walkResult d n w0 (.stop e))
      | .ok pl =>
        let w := { w0 with destObj := pl.obj, blocked := none }
        match s.destCheck d n w (s.walkOwn w) with
        | .error (.busy loc) =>
          let x := s.meetBusy w loc (s.word loc 8)
          .next (x.1.walkResult d n x.2.1 x.2.2)
        | .error e => .next (s.walkResult d n w (.stop e))
        | .ok _ =>
          match s.acknowledged w.party w.va ⟨pl.loc, 8, .write, leBytes 8 w.ref⟩ with
          | .error e => .next (s.walkResult d n w (.stop e))
          | .ok r => .next (((s.finishWalk w { pl with ack := r }).putWalk d n none).pubSettled w (.ok w.va pl.loc))

end Sys2Proof.Machine
end

