-- ==== Sys2Proof/Machine/Service.lean ====
section
/-! DEFINITION. The device's own services: the end of parks (14_isolation.md R330-R332), evictions (09_memory_model.md R217), shootdowns
(R335), access counts (R337, R338), the fault and notification queues (R339, R340), and the end of a kill (17_faults_preemption.md R380). -/

namespace Sys2Proof.Machine

open Host (Outcome)

/-! ### Parks -/

/-- Threads, contexts, commands, walks and accesses of the dispatcher that wait for what p names go on (R331). -/
def State.wakeParked (s : State) (thr : Stall → Bool) (tile : TileWait → Bool) (line : Nat → Bool) : State :=
  { s with
    blocks := s.blocks.map fun e => (e.1, e.2.map fun b =>
      { b with
        threads := b.threads.map fun t => match t.status with
          | .stalled w => if thr w then { t with status := .active } else t
          | .active | .waiting _ | .asleep | .exited => t
        tile := if b.tile.wait.any tile then { b.tile with wait := none } else b.tile })
    cores := s.cores.map fun e => (e.1, { e.2 with chans := e.2.chans.map fun c => (c.1,
      { c.2 with cmds := c.2.cmds.map fun m => if m.parked.any line then { m with parked := none } else m }) })
    dies := s.dies.map fun e => (e.1, { e.2 with walks := e.2.walks.map fun w => (w.1, w.2.map fun w =>
      if w.parked.any line then { w with parked := none } else w) })
    parks := s.parks.map fun e => (e.1, e.2.map fun x => if line (x.1 / 128) then (x.1, false) else x) }
/-- Every cached entry dropped, which R328 lets the device do at any time: the next walks start at PTROOT. -/
def State.dropTlbs (s : State) : State :=
  { s with cores := s.cores.map fun e => (e.1, { e.2 with tlb := [] }), dies := s.dies.map fun e => (e.1, { e.2 with tlb := [] }) }
/-- A thread is parked on a line (R331): of a barge whose lanes parked on several, on each of them. -/
def Stall.parkedOn (w : Stall) (line : Nat) : Bool :=
  match w with
  | .park l _ => l.contains line
  | .parkNoMonitor _ | .channel _ | .fence | .tlbi | .pub | .remote _ => false
/-- A thread waits for a monitor of a die (R330), and so does a barge of whose lanes some found none. -/
def Stall.wantsMonitor (w : Stall) (d : Nat) : Bool :=
  match w with
  | .park _ full => full == some d
  | .parkNoMonitor k => k == d
  | .channel _ | .fence | .tlbi | .pub | .remote _ => false
/-- PARK_WAKE (R331): the line has been written, and its monitor is disarmed: every access parked on it replays its translation from
PTROOT. -/
def execParkWake (line : Nat) (s : State) : Outcome State Fault Refusal :=
  if (s.die (paDie (128 * line))).monitors.contains line || !s.heldLines.contains line then .next s
  else
    .next (s.dropTlbs.wakeParked (·.parkedOn line) (· == .park line) (· == line))
/-- PARK_MONITOR_FREED (R330): a monitor of the die is free, and the accesses that wait for one replay. -/
def execParkMonitorFreed (d : Nat) (s : State) : Outcome State Fault Refusal :=
  if 256 ≤ (s.die d).monitors.length then .next s
  else
    .next (s.wakeParked (·.wantsMonitor d) (· == .parkNoMonitor d) (fun _ => false))

/-! ### Evictions and shootdowns -/

/-- L1_EVICTION_WRITEBACK (R217): a line leaves an L1, a dirty one after its write-back. -/
def execL1EvictionWriteback (core line : Nat) (s : State) : Outcome State Fault Refusal :=
  .next ((s.writeBack core line).modCore core fun c => { c with l1 := c.l1.filter fun x => x.line != line })

/-- ACNT of a PTE raised by 1 at its home, saturating (R337). -/
def acntUp (e : Nat) : Nat := if e / 2 ^ 52 % 4096 = 4095 then e else e + 2 ^ 52
/-- A notification record (R340). -/
def notifyRec (asid : BitVec 16) (acnt page ptea : Nat) : List Byte :=
  leBytes 32 (1 + asid.toNat * 2 ^ 16 + acnt * 2 ^ 32 + page * 65536 % 2 ^ 56 * 2 ^ 64 + ptea % 2 ^ 52 * 2 ^ 128)
/-- A record written to a device queue with room, TAIL advanced, and the vector signalled (R339, R408). -/
def State.enqueue (s : State) (base recb lg tail : Nat) (l : List Byte) (vec : BitVec 3) : State :=
  let s1 := s.store (recb + l.length * (tail % 2 ^ lg)) l
  let s2 := s1.store (base + 12) (leBytes 4 (tail + 1))
  { s2 with vectors := s2.vectors ||| vec }
/-- A notification (R339): lost without a valid control block; with a full queue it counts in DROP. -/
def State.notify (s : State) (l : List Byte) : State :=
  match s.queueBlock s.nqbase 32 with
  | none => s
  | some (recb, lg, tail, head) =>
    if (tail + 2 ^ 32 - head) % 2 ^ 32 < 2 ^ lg then s.enqueue s.nqbase.toNat recb lg tail l 2#3
    else s.store (s.nqbase.toNat + 20) (leBytes 4 (s.word (s.nqbase.toNat + 20) 4 + 1))
/-- A held addition applied (R337), with the notification of a crossing (R338). -/
def State.applyCount (s : State) (x : Nat × Nat × BitVec 16) : State :=
  let old := s.word x.1 8
  let new := acntUp old
  let thr := s.cntthr.toNat
  let s1 : State := { s.store x.1 (leBytes 8 new) with notified := s.notified }
  if old / 2 ^ 52 % 4096 < thr && thr ≤ new / 2 ^ 52 % 4096 && !s.notified.contains x.1 then
    { s1.notify (notifyRec x.2.2 (new / 2 ^ 52 % 4096) x.2.1 x.1) with notified := s.notified ++ [x.1] }
  else s1
/-- Every held addition applied, oldest first. -/
def State.applyCounts (s : State) : State := ({ s with counts := [] } : State) |> fun s1 => s.counts.foldl State.applyCount s1
/-- ACCESS_COUNT_APPLY (R337): the oldest held addition is applied. -/
def execAccessCountApply (s : State) : Outcome State Fault Refusal :=
  match s.counts with
  | [] => .next s
  | x :: l => .next (({ s with counts := l } : State).applyCount x)

/-- The context of another block has a posted write in flight, held by a freeze or not, which was translated before now. A block's own context,
which stays frozen until the issuer returns, is not waited for: its writes translate again (log 74). -/
def State.postedWrites (s : State) (blk : Nat) : Bool :=
  s.blocks.any fun e => e.1 != blk && e.2.any fun b => !b.killed && b.tile.fly.any fun l => l.eff.kind == 4
/-- A write to another device, the host or an expander is not acknowledged. -/
def State.writesAway (s : State) (p : Nat → Bool) : Bool := s.remotes.any fun r => p r.blk && r.ask.kind != .read && !r.done && !r.failed
/-- The posted writes that a freeze holds in the issuer's own context translate again (R335, log 74): those whose address has a place a write may
go to now will land there. -/
def State.retranslate (s : State) (blk : Nat) : State :=
  s.modBlock blk fun b => { b with tile := { b.tile with fly := b.tile.fly.map fun l =>
    match l.eff with
    | .mem out => { l with eff := .mem (out.map fun o =>
        match s.place (b.engine blk l.slot) o.1 1 .write with
        | .ok pl => (o.1, pl.loc, o.2.2)
        | .error _ => o) }
    | .k _ _ | .q _ _ | .stream _ _ _ | .advance _ _ | .baseAdd _ _ | .ring _ _ | .ringFill _ _ | .ringEmpty _ _ | .push _ _ _ | .swap | .mask _ _ _
    | .mode _ _ | .xState _ | .beat _ _ _ _ | .tile _ _ | .amax _ _ | .view _ _ => l } }
/-- SHOOTDOWN_COMPLETE (R335): every write translated before has performed, the held access counts are applied, and the `tlbi` completes. A walk of
the reach walker translates its destination and the objects it has marked when it stores. -/
def execShootdownComplete (blk tid : Nat) (s : State) : Outcome State Fault Refusal :=
  match s.thread blk tid with
  | none => .next s
  | some t0 =>
    if t0.status != Status.stalled Stall.tlbi || s.postedWrites blk || s.writesAway (fun _ => true) then .next s
    else
      .next ((s.applyCounts.retranslate blk).modBlock blk fun b => { b with threads := b.threads.map fun t =>
        if t.barge = t0.barge && (t.status == .stalled .tlbi) then { t with status := .active } else t })

/-! ### The fault queue -/

/-- The oldest waiting record posted (R339), if the control block is valid and has room. -/
def State.postOne (s : State) : State :=
  match s.faultWait, s.queueBlock s.fqbase 64 with
  | r :: l, some (recb, lg, tail, head) =>
    if (tail + 2 ^ 32 - head) % 2 ^ 32 < 2 ^ lg then
      ({ s with faultWait := l } : State).enqueue s.fqbase.toNat recb lg tail (leBytes 64 r.toNat) 1#3
    else s
  | _, _ => s
/-- FAULT_RECORD_POST (R339, R384). -/
def execFaultRecordPost (s : State) : Outcome State Fault Refusal := .next s.postOne
/-- Waiting records posted while there is room. -/
def State.postAll (s : State) : State := (List.range s.faultWait.length).foldl (fun s _ => s.postOne) s
/-- FAULT_QUEUE_RETRY (R339): the control block is read again. -/
def execFaultQueueRetry (s : State) : Outcome State Fault Refusal := .next s.postAll
/-- FQBASE_WRITE (R339): the control block is read at each write. -/
def execFqbaseWrite (v : W64) (s : State) : Outcome State Fault Refusal := .next (sysEvent 0 .fqbase v s).postAll

/-! ### The end of a kill -/

/-- The walks of a context release their marks and end (R258). -/
def State.killWalks (s : State) (slot : Nat) : State :=
  let s1 := (List.range 4).foldl (fun (s : State) d => (List.range 16).foldl (fun (s : State) n =>
    match s.walkAt d n with
    | none => s
    | some w => if w.slot = slot then (s.releaseMarks w).putWalk d n none else s) s) s
  { s1 with dies := s1.dies.map fun e => (e.1, { e.2 with walkQueue := e.2.walkQueue.filter fun w => w.slot != slot }) }
/-- The commands of a context's blocks end as `cabort` ends them (R277). -/
def State.killCmds (s : State) (l : List (Nat × Block)) : State :=
  l.foldl (fun (s : State) (e : Nat × Block) => (List.range 8).foldl (fun (s : State) ch =>
    (((s.chan e.2.core ch).cmds.filter fun m => m.blk == e.1).foldl (fun (s : State) m => s.endCmd e.2.core ch { m with paused := false })
      (s.modChan e.2.core ch fun c => { c with cmds := c.cmds.map fun m => if m.blk = e.1 then { m with paused := false } else m })).completeCmds e.2.core ch) s) s
/-- The blocks of a context. -/
def State.blocksOf (s : State) (slot : Nat) : List (Nat × Block) :=
  s.blocks.filterMap fun e => e.2.bind fun b => if b.slot = slot then some (e.1, b) else none
/-- The commands of a context's blocks that an earlier command of another context still keeps from completing. -/
def State.killWaits (s : State) (l : List (Nat × Block)) : Bool := l.any fun e => s.cmdsOf e.1 e.2 != []
/-- KILL_COMPLETE (R380 steps 3 to 6): walks release their marks, parked accesses go, commands end, and, once every write made is acknowledged at
its home, the L1s write back, the blocks retire without counting, launches go, and KILLING clears. -/
def execKillComplete (slot : Nat) (s : State) : Outcome State Fault Refusal :=
  if 64 ≤ slot || !(s.ctx slot).killing then .next s
  else
    let l := s.blocksOf slot
    let s1 := ((s.killWalks slot).killCmds l).dropParks slot
    if s1.killWaits l || s1.writesAway fun k => l.any fun e => e.1 == k then .next (s1.disarmUnheld s)
    else
      let s2 := ((s1.cores.map Prod.fst).foldl State.flushCore s1)
      let s3 := l.foldl (fun (s : State) e => (s.postUnobserved e.1 e.2).release e.1 e.2) s2
      let s4 : State := { s3 with launches := s3.launches.filter fun e => !e.2.any fun x => x.slot == slot }
      .next ((s4.disarmUnheld s).modCtx slot fun c => { c with killing := false, halted := false, halt := none, stepped := none })

end Sys2Proof.Machine
end

