-- ==== Sys2Proof/Machine/Sha.lean ====
section
/-! DEFINITION. SHA-384, the digest that the boot ROM computes over an image (20_system_recovery.md R414). The function is the standard one of
that name, which the manual cites and does not define (log 22). -/

namespace Sys2Proof.Machine

/-- The words of the eight places of the digest in progress. -/
structure Sha where
  a : W64
  b : W64
  c : W64
  d : W64
  e : W64
  f : W64
  g : W64
  h : W64
  deriving DecidableEq, Repr

/-- The initial words. -/
def Sha.init : Sha :=
  { a := 0xcbbb9d5dc1059ed8#64, b := 0x629a292a367cd507#64, c := 0x9159015a3070dd17#64, d := 0x152fecd8f70e5939#64,
    e := 0x67332667ffc00b31#64, f := 0x8eb44a8768581511#64, g := 0xdb0c2e0d64f98fa7#64, h := 0x47b5481dbefa4fa4#64 }
/-- The constants of the rounds. -/
def shaConsts : List W64 :=
  [0x428a2f98d728ae22#64, 0x7137449123ef65cd#64, 0xb5c0fbcfec4d3b2f#64, 0xe9b5dba58189dbbc#64, 0x3956c25bf348b538#64,
   0x59f111f1b605d019#64, 0x923f82a4af194f9b#64, 0xab1c5ed5da6d8118#64, 0xd807aa98a3030242#64, 0x12835b0145706fbe#64,
   0x243185be4ee4b28c#64, 0x550c7dc3d5ffb4e2#64, 0x72be5d74f27b896f#64, 0x80deb1fe3b1696b1#64, 0x9bdc06a725c71235#64,
   0xc19bf174cf692694#64, 0xe49b69c19ef14ad2#64, 0xefbe4786384f25e3#64, 0x0fc19dc68b8cd5b5#64, 0x240ca1cc77ac9c65#64] ++
  [0x2de92c6f592b0275#64, 0x4a7484aa6ea6e483#64, 0x5cb0a9dcbd41fbd4#64, 0x76f988da831153b5#64, 0x983e5152ee66dfab#64,
   0xa831c66d2db43210#64, 0xb00327c898fb213f#64, 0xbf597fc7beef0ee4#64, 0xc6e00bf33da88fc2#64, 0xd5a79147930aa725#64,
   0x06ca6351e003826f#64, 0x142929670a0e6e70#64, 0x27b70a8546d22ffc#64, 0x2e1b21385c26c926#64, 0x4d2c6dfc5ac42aed#64,
   0x53380d139d95b3df#64, 0x650a73548baf63de#64, 0x766a0abb3c77b2a8#64, 0x81c2c92e47edaee6#64, 0x92722c851482353b#64] ++
  [0xa2bfe8a14cf10364#64, 0xa81a664bbc423001#64, 0xc24b8b70d0f89791#64, 0xc76c51a30654be30#64, 0xd192e819d6ef5218#64,
   0xd69906245565a910#64, 0xf40e35855771202a#64, 0x106aa07032bbd1b8#64, 0x19a4c116b8d2d0c8#64, 0x1e376c085141ab53#64,
   0x2748774cdf8eeb99#64, 0x34b0bcb5e19b48a8#64, 0x391c0cb3c5c95a63#64, 0x4ed8aa4ae3418acb#64, 0x5b9cca4f7763e373#64,
   0x682e6ff3d6b2b8a3#64, 0x748f82ee5defb2fc#64, 0x78a5636f43172f60#64, 0x84c87814a1f0ab72#64, 0x8cc702081a6439ec#64] ++
  [0x90befffa23631e28#64, 0xa4506cebde82bde9#64, 0xbef9a3f7b2c67915#64, 0xc67178f2e372532b#64, 0xca273eceea26619c#64,
   0xd186b8c721c0c207#64, 0xeada7dd6cde0eb1e#64, 0xf57d4f7fee6ed178#64, 0x06f067aa72176fba#64, 0x0a637dc5a2c898a6#64,
   0x113f9804bef90dae#64, 0x1b710b35131c471b#64, 0x28db77f523047d84#64, 0x32caab7b40c72493#64, 0x3c9ebe0a15c9bebc#64,
   0x431d67c49c100d4c#64, 0x4cc5d4becb3e42b6#64, 0x597f299cfc657e2a#64, 0x5fcb6fab3ad6faec#64, 0x6c44198c4a475817#64]
/-- A message with its padding: a one bit, zeros, and its length in bits as 16 bytes, the highest first. -/
def shaPad (l : List Byte) : List Byte :=
  l ++ 0x80#8 :: List.replicate ((239 - l.length % 128) % 128) 0#8 ++ (leBytes 16 (8 * l.length)).reverse
/-- The n-th word of a message, highest byte first. -/
def shaWord (l : List Byte) (n : Nat) : W64 := BitVec.ofNat 64 (leNat ((l.drop (8 * n)).take 8).reverse)
/-- The words of a block's schedule, latest first. -/
def shaSchedule (l : List Byte) : List W64 :=
  (List.range 64).foldl (fun w _ =>
    let x := w.getD 1 0#64
    let y := w.getD 14 0#64
    ((x.rotateRight 19 ^^^ x.rotateRight 61 ^^^ (x >>> 6)) + w.getD 6 0#64 + (y.rotateRight 1 ^^^ y.rotateRight 8 ^^^ (y >>> 7)) + w.getD 15 0#64) :: w)
    ((List.range 16).map (shaWord l)).reverse
/-- A round, with its constant and its word. -/
def Sha.round (s : Sha) (x : W64 × W64) : Sha :=
  let t := s.h + (s.e.rotateRight 14 ^^^ s.e.rotateRight 18 ^^^ s.e.rotateRight 41) + ((s.e &&& s.f) ^^^ (~~~s.e &&& s.g)) + x.1 + x.2
  let u := (s.a.rotateRight 28 ^^^ s.a.rotateRight 34 ^^^ s.a.rotateRight 39) + ((s.a &&& s.b) ^^^ (s.a &&& s.c) ^^^ (s.b &&& s.c))
  { a := t + u, b := s.a, c := s.b, d := s.c, e := s.d + t, f := s.e, g := s.f, h := s.g }
/-- A block of 128 bytes taken in. -/
def Sha.block (s : Sha) (l : List Byte) : Sha :=
  let x := (shaConsts.zip (shaSchedule l).reverse).foldl Sha.round s
  { a := s.a + x.a, b := s.b + x.b, c := s.c + x.c, d := s.d + x.d, e := s.e + x.e, f := s.f + x.f, g := s.g + x.g, h := s.h + x.h }
/-- The SHA-384 digest of a message, its first byte the highest. -/
def sha384 (l : List Byte) : BitVec 384 :=
  let m := shaPad l
  let x := (List.range (m.length / 128)).foldl (fun s i => s.block ((m.drop (128 * i)).take 128)) Sha.init
  x.a ++ x.b ++ x.c ++ x.d ++ x.e ++ x.f

end Sys2Proof.Machine
end

