-- ==== Sys2Proof/Machine/Trace.lean ====
section
/-! DEFINITION. Debug registers (18_observation.md R385-R388, R396; 15_system_instructions.md R359), breakpoint hits as an event
(R387), and trace samples (R397). -/

namespace Sys2Proof.Machine

open Host (Outcome)

/-! ### Debug registers -/

/-- The slot that the Ctx registers of a context reach: the one DSEL names, or its own (R385). -/
def State.dbgSlot (s : State) (slot : Nat) : Nat := if slot = 0 then (s.ctx 0).dsel.toNat else slot
/-- The core and the unit that a context's CNTSEL names (R385). -/
def State.cntCore (s : State) (slot : Nat) : Nat := ((s.ctx slot).cntsel.extractLsb' 0 9).toNat
/-- The unit that CNTSEL names. -/
def State.cntUnit (s : State) (slot : Nat) : Nat := ((s.ctx slot).cntsel.extractLsb' 9 4).toNat

/-- A debug register read from a context slot (R385); an index that the table does not list reads zero here, and raises ILL before. -/
def State.dbgVal (s : State) (slot n : Nat) : W64 :=
  let c := s.ctx (s.dbgSlot slot)
  let k := s.core (s.cntCore slot)
  if n = 0 then (s.ctx slot).dsel.setWidth 64
  else if n = 1 then c.dctl.setWidth 64
  else if n = 2 then c.dstat.setWidth 64
  else if 0x08 ≤ n && n < 0x10 then Tbl.get 0#64 c.bpa (n - 0x08)
  else if 0x10 ≤ n && n < 0x18 then Tbl.get 0#64 c.bpc (n - 0x10)
  else if 0x18 ≤ n && n < 0x20 then Tbl.get 0#64 c.wpa (n - 0x18)
  else if 0x20 ≤ n && n < 0x28 then Tbl.get 0#64 c.wpc (n - 0x20)
  else if 0x28 ≤ n && n < 0x30 then c.stop.extractLsb' (64 * (n - 0x28)) 64
  else if n = 0x30 then (s.ctx slot).cntsel.setWidth 64
  else if 0x40 ≤ n && n < 0x60 then s.counter (s.cntCore slot) (s.cntUnit slot) (n - 0x40)
  else if n = 0x60 then (s.die (s.cntCore slot / 96)).ecc
  else if n = 0x80 then c.trctl
  else if n = 0x81 then c.trbase
  else if n = 0x82 then k.trCount (s.dbgSlot slot)
  else if n = 0x83 then Tbl.get 0#64 k.trdrop (s.dbgSlot slot)
  else 0#64

/-- A breakpoint address that no breakpoint of a set can match (R386). -/
def badBreak (a : W64) (tile : Bool) : Bool := a.extractLsb' 56 8 != 0#8 || a.extractLsb' 0 2 != 0#2 || (!tile && a.getLsbD 2)
/-- A watchpoint control with a reserved bit set or a value out of range (R388). -/
def badWatch (v : W64) : Bool :=
  (v &&& ~~~(0x31FD#64)) != 0#64 || 24 < (v.extractLsb' 4 5).toNat || (v.getLsbD 0 && v.extractLsb' 2 2 == 0#2)
/-- A trace control with a reserved bit set or a value out of range, or whose buffer leaves region 0b000 (R396). -/
def badTrace (c : Ctx) (v : W64) : Bool :=
  let lg := (v.extractLsb' 32 4).toNat
  v.extractLsb' 36 28 != 0#28 || v.extractLsb' 8 8 != 0#8 || 12 < lg || 2 ^ 49 < c.trbase.toNat + 384 * 2 ^ (12 + lg)

/-- The value checks of a write (R385, R386, R388, R396): a reserved bit or a value out of range. A register that is only read ignores
writes. -/
def State.dbgBad (s : State) (slot n : Nat) (v : W64) : Bool :=
  let c := s.ctx (s.dbgSlot slot)
  if n = 0 then v.extractLsb' 6 58 != 0#58
  else if n = 1 || n = 2 then v.extractLsb' 2 62 != 0#62
  else if 0x08 ≤ n && n < 0x10 then badBreak v ((Tbl.get 0#64 c.bpc (n - 0x08)).getLsbD 1)
  else if 0x10 ≤ n && n < 0x18 then (v &&& ~~~(0xFF03#64)) != 0#64
  else if 0x20 ≤ n && n < 0x28 then badWatch v
  else if n = 0x30 then v.extractLsb' 13 51 != 0#51 || 383 < (v.extractLsb' 0 9).toNat || 10 < (v.extractLsb' 9 4).toNat
  else if n = 0x80 then badTrace c v
  else if n = 0x81 then v.extractLsb' 0 12 != 0#12 || v.extractLsb' 49 15 != 0#15
  else false
/-- A write that a context outside the management context may not make (R385): DSEL with another slot, CNTSEL with a core outside
its partition. -/
def State.dbgDenied (s : State) (slot n : Nat) (v : W64) : Bool :=
  slot != 0 &&
  ((n == 0 && (v.extractLsb' 0 6).toNat != slot) ||
   (n == 0x30 && (s.core (v.extractLsb' 0 9).toNat).part.toNat != (s.ctx slot).part.toNat))

/-- The steps that a tile context of a core has taken (R310): its unit's cycles of class 0. -/
def State.stepsOf (s : State) (core unit : Nat) : Nat := (Tbl.get 0#64 s.counters (counterAt core unit 0)).toNat
/-- The trace counts of a context slot start again (R396), and so do the steps of its samples (R397). -/
def State.restartTrace (s : State) (n : Nat) : State :=
  { s with cores := s.cores.map fun e => (e.1,
    { e.2 with trptr := Tbl.put 0#64 e.2.trptr n 0#64, trdrop := Tbl.put 0#64 e.2.trdrop n 0#64,
               sampled := [8, 9].foldl (fun t u => Tbl.put (0, 0) t (16 * n + u) (s.clock, s.stepsOf e.1 u)) e.2.sampled }) }
/-- TRCTL of a slot written (R396): an EN that it sets clears TRPTR and TRDROP. -/
def State.writeTrctl (s : State) (n : Nat) (v : W64) : State :=
  (if v.getLsbD 0 && !(s.ctx n).trctl.getLsbD 0 then s.restartTrace n else s).modCtx n fun c => { c with trctl := v, trsince := s.clock }
/-- Breakpoint i of a slot is armed (R387): it does not match a bundle that stands in the loop buffer of a context by now. -/
def State.armBreak (s : State) (slot i : Nat) : State :=
  let a := (Tbl.get 0#64 (s.ctx slot).bpa i).toNat
  { s with blocks := s.blocks.map fun e => (e.1, e.2.map fun b =>
    if b.slot ≠ slot then b
    else
      let held := b.tile.loops ≠ [] && b.tile.lbuf.any fun w => 4 * w.1 == a
      let bit : BitVec 8 := 1#8 <<< i
      { b with tile := { b.tile with exempt := if held then b.tile.exempt ||| bit else b.tile.exempt &&& ~~~bit } }) }

/-- A debug register written (R385). -/
def State.dbgWrite (s : State) (slot n : Nat) (v : W64) : State :=
  let m := s.dbgSlot slot
  if n = 0 then s.modCtx slot fun c => { c with dsel := v.setWidth 6 }
  else if n = 1 then s.modCtx m fun c => { c with dctl := v.setWidth 2 }
  else if n = 2 then s.modCtx m fun c => { c with dstat := c.dstat &&& ~~~(v.setWidth 2) }
  else if 0x08 ≤ n && n < 0x10 then (s.modCtx m fun c => { c with bpa := Tbl.put 0#64 c.bpa (n - 0x08) v }).armBreak m (n - 0x08)
  else if 0x10 ≤ n && n < 0x18 then (s.modCtx m fun c => { c with bpc := Tbl.put 0#64 c.bpc (n - 0x10) v }).armBreak m (n - 0x10)
  else if 0x18 ≤ n && n < 0x20 then s.modCtx m fun c => { c with wpa := Tbl.put 0#64 c.wpa (n - 0x18) v }
  else if 0x20 ≤ n && n < 0x28 then s.modCtx m fun c => { c with wpc := Tbl.put 0#64 c.wpc (n - 0x20) v }
  else if n = 0x30 then s.modCtx slot fun c => { c with cntsel := v.setWidth 13 }
  else if n = 0x80 then s.writeTrctl m v
  else if n = 0x81 then s.modCtx m fun c => { c with trbase := v }
  else s

/-- `dbgr.rd` (R359, R385): for system privilege only. -/
def execDbgrRd (o : DbgOp) (s : State) : Outcome State Fault Refusal :=
  match s.block s.cur.blk with
  | none => .next s
  | some b => privileged s (.next (s.lanes o.g fun _ t => t.set64 o.d.toNat (s.dbgVal b.slot o.n.toNat)))
/-- `dbgr.wr` (R359, R385): the lanes write in ascending order; nothing is written when some lane's check fails. -/
def execDbgrWr (o : DbgOp) (s : State) : Outcome State Fault Refusal :=
  match s.block s.cur.blk with
  | none => .next s
  | some b =>
    let n := o.n.toNat
    let check (t : Thread) : Except Stop Unit :=
      let v := t.get64 o.d.toNat
      if s.dbgDenied b.slot n v then .error (stopBare .priv) else if s.dbgBad b.slot n v then .error (stopBare .arg) else .ok ()
    privileged s <| guarded s o.g (s.laneErrors o.g fun _ t => check t) fun s0 =>
      (((s0.active o.g).filterMap fun tid => (s0.thread s0.cur.blk tid).map fun t => t.get64 o.d.toNat).foldl
        (fun (s : State) v => s.dbgWrite b.slot n v) s0).onLanes fun _ t => t.advance

/-- TRCTL_WRITE (R396): by the management side; a write that breaks R396 changes nothing. -/
def execTrctlWrite (n : Nat) (v : W64) (s : State) : Outcome State Fault Refusal :=
  if n < 64 && !badTrace (s.ctx n) v then .next (s.writeTrctl n v) else .next s

/-! ### Breakpoint hits as an event -/

/-- A thread that would issue next stands at an armed breakpoint (R387). -/
def State.breakThread (s : State) (blk tid : Nat) : Option State :=
  (s.block blk).bind fun b => (s.thread blk tid).bind fun t =>
    if b.issues && t.status == .active && t.entry.isNone && !(s.ctx b.slot).stops b blk t.barge then
      let l := b.candidates t.barge
      if minPc l = some t.pc then
        let s1 : State := { s with cur := { Cursor.idle with blk, lanes := (l.filter fun x => x.2.pc == t.pc).map Prod.fst, pc := t.pc, slot := 8, baddr := t.pc } }
        (s1.threadBreak b).map fun s2 => { s2 with cur := Cursor.idle }
      else none
    else none
/-- BREAKPOINT_HIT (R387): a barge stops before an instruction at an armed address; at a bundle's, the context is selected next, which
issues the slots that the breakpoint does not hold back. -/
def execBreakpointHit (blk tid : Nat) (tile : Bool) (s : State) : Outcome State Fault Refusal :=
  if tile then
    match s.block blk with
    | none => .next s
    | some b =>
      match b.cx, (s.ctx b.slot).bpMatch true b.tile.baddr with
      | some cx, some _ => if b.inLock then .next { s with agenda := .tile b.core cx :: s.agenda } else .next s
      | _, _ => .next s
  else .next ((s.breakThread blk tid).getD s)

/-! ### Samples -/

/-- A unit of a core runs for a context slot: a thread of it on the lane cluster, or its tile context, is not stopped (R397). -/
def State.unitRuns (s : State) (slot core unit : Nat) : Bool :=
  s.blocks.any fun e => e.2.any fun b =>
    b.slot == slot && b.core == core && b.life != .launched && b.life != .stopped &&
    (if unit < 8 then b.threads.zipIdx.any fun x => b.clusterOf x.2 == unit && x.1.status != .exited && !(s.ctx slot).stops b e.1 x.1.barge
     else b.cx == some (unit - 8) && !(s.ctx slot).stopsTile)
/-- The boundary of the period at which a unit of a core samples next for a context slot (R397): the first after its last and after the write of
TRCTL. -/
def State.nextSample (s : State) (slot core unit : Nat) : Nat :=
  let p := 64 * (s.ctx slot).period
  (Nat.max (Tbl.get (0, 0) (s.core core).sampled (16 * slot + unit)).1 (s.ctx slot).trsince / p + 1) * p
/-- A sample of a unit is due (R397): the context traces its TYPE, and a boundary has come. -/
def State.sampleDue (s : State) (slot core unit : Nat) : Bool :=
  unit < 10 && (s.ctx slot).period != 0 && (s.ctx slot).traces (if unit < 8 then 1 else 2) && s.nextSample slot core unit ≤ s.clock
/-- What a sample says of a unit (R397): its class, the address, and the lanes issued. Of a unit that other contexts share, what it does for this one
(log 83). -/
def State.sampleClass (s : State) (slot core unit : Nat) : Nat × Nat × Nat :=
  let x := s.chargedLast core unit
  if x.2.2.2 = some slot then (x.1, x.2.1, x.2.2.1)
  else
    let y := if unit < 8 then (lowest (s.clusterReasons core unit (some slot))).getD (1, 0)
      else match s.lockOf core (unit - 8) with
        | none => (1, 0)
        | some b => ((s.stepClass b).1, b.tile.baddr.toNat)
    (y.1, y.2, 0)
/-- TRACE_SAMPLE (R397): at a boundary of the period a unit of a core writes a sample for a context, unless it is stopped. -/
def execTraceSample (slot core unit : Nat) (s : State) : Outcome State Fault Refusal :=
  if !s.sampleDue slot core unit then .next s
  else
    let t := s.nextSample slot core unit
    let n := s.stepsOf core unit
    let s1 := s.modCore core fun k => { k with sampled := Tbl.put (0, 0) k.sampled (16 * slot + unit) (t, n) }
    if !s.unitRuns slot core unit then .next s1
    else
      let x := s.sampleClass slot core unit
      let r : Trace :=
        if unit < 8 then { typ := 1, slot := 8, info := x.1, unit, addr := x.2.1, info2 := x.2.2, time := some t }
        else { typ := 2, slot := 15, info := x.1, unit := unit - 8, addr := x.2.1, time := some t,
               info2 := Nat.min 255 (n - (Tbl.get (0, 0) (s.core core).sampled (16 * slot + unit)).2) }
      .next (s1.writeTrace slot core r)

end Sys2Proof.Machine
end

