-- ==== Sys2Proof/Machine/Device.lean ====
section
/-! DEFINITION. The world outside the cores: the host port and its registers (20_system_recovery.md R406-R409), the canal fabric (R410, R411, and
17_faults_preemption.md R366), reset, boot and attestation (R414, R415), and the thermal limits (R416). -/

namespace Sys2Proof.Machine

open Host (Outcome)

/-! ### Capabilities (R409, log 23) -/

/-- A capability record changed. -/
def State.modCap (s : State) (id : Nat) (f : Cap → Cap) : State := { s with caps := Tbl.put (Cap.reset id) s.caps id (f (s.cap id)) }
/-- What a change of a capability's expert registers does to the device: 0x0004 sets the fabric number, 0 to 575, and the domain size (R410). -/
def State.useCap (s : State) (id : Nat) : State :=
  if id = 4 then
    let v := (s.cap 4).value.toNat
    { s with fabricNum := if v % 1024 < 576 then v % 1024 else s.fabricNum, domain := v / 2 ^ 16 % 1024 }
  else s
/-- A record does not take a value: the cap of 0x0007 lies from 800 W to 2,000 W (R416). -/
def capBad (id : Nat) (v : W64) : Bool := id == 7 && (v.toNat < 800 || 2000 < v.toNat)
/-- The basic fields of a record written; a value that it does not take is ignored. -/
def State.writeBasic (s : State) (id : Nat) (v : W64) : State := if capBad id v then s else s.modCap id fun c => { c with basic := v }
/-- A write of 1 to APPLY (R409): the expert registers take the values of the basic fields, and EXPERT reads 0. -/
def State.applyCap (s : State) (id : Nat) : State := (s.modCap id fun c => { c with expert := c.basic, sel := false }).useCap id
/-- FUSESVN raised to the SVN of the running image (R414). -/
def State.raiseSvn (s : State) : State :=
  match s.image with
  | none => s
  | some (_, v) => { s with fuseSvn := if s.fuseSvn.toNat < v.toNat then v else s.fuseSvn }
/-- An expert register written (R409, R414): that of 0x0006 raises FUSESVN. -/
def State.writeExpert (s : State) (id : Nat) (v : W64) : State :=
  if capBad id v then s
  else
    let s1 := (s.modCap id fun c => { c with expert := v, sel := true }).useCap id
    if id = 6 then s1.raiseSvn else s1
/-- CAPABILITY_APPLY (R409). -/
def execCapabilityApply (id : Nat) (s : State) : Outcome State Fault Refusal :=
  if 1 ≤ id && id ≤ 7 then .next (s.applyCap id) else .next s
/-- FUSED_SVN_RAISE (R414). -/
def execFusedSvnRaise (s : State) : Outcome State Fault Refusal := .next s.raiseSvn

/-! ### Boot and reset (R414) -/

/-- A write of 1 to DOORBELL (R414): the pushed image is verified; ignored while STATUS is 0 or 1. -/
def State.ringDoorbell (s : State) : State :=
  if s.mailbox = 0#4 || s.mailbox = 1#4 then s else { s with mailbox := 0#4, bootPending := true, bootTries := s.bootTries + 1 }
/-- DOORBELL (R414). -/
def execDoorbell (s : State) : Outcome State Fault Refusal := .next s.ringDoorbell

/-- What the boot ROM finds in an image: its MAGIC is right, both signatures verify, its SVN, and its digest. -/
structure ImageCheck where
  magic : Bool
  signed : Bool
  svn : W32
  digest : BitVec 384
  deriving DecidableEq, Repr
/-- Bytes of the image that a verification reads (R414, log 22): of the boot flash at reset, and afterwards of what the host has placed at BAR2
offset 0. -/
def State.imageBytes (s : State) (o n : Nat) : List Byte :=
  if s.bootTries = 0 then (List.range n).map fun i => Config.flashByte (o + i) else s.bytes o n
/-- A 32-bit field of an image's header (R414). -/
def State.imageWord (s : State) (o : Nat) : Nat := leNat (s.imageBytes o 4)
/-- LEN and the offsets of the signatures lie inside an image of `size` bytes (R414): the header, the body, and where the signatures begin. -/
def State.imageFits (s : State) (size : Nat) : Bool :=
  256 + s.imageWord 12 ≤ size && s.imageWord 16 < size && s.imageWord 20 < size
/-- The SHA-384 digest of an image, over the first 128 bytes of its header and its body (R414). -/
def State.imageDigest (s : State) : BitVec 384 := sha384 (s.imageBytes 0 128 ++ s.imageBytes 256 (s.imageWord 12))
/-- What the n-th verification finds in its image (R414, log 22). -/
def State.checkImage (s : State) (n : Nat) : ImageCheck :=
  let size := Config.imageSize n
  let d := s.imageDigest
  { magic := (s.bootTries != 0 || Config.flashReads n) && s.imageWord 0 == 0x4E4C3842
    signed := s.imageFits size && Config.ecdsaVerifies d (s.imageBytes (s.imageWord 16) 96) &&
      Config.lmsVerifies d (s.imageBytes (s.imageWord 20) (size - s.imageWord 20))
    svn := BitVec.ofNat 32 (s.imageWord 8), digest := d }
/-- The STATUS that a verification leaves (R414). -/
def bootStatus (c : ImageCheck) (fuse : W32) : BitVec 4 :=
  if !c.magic then 3#4 else if !c.signed then 2#4 else if c.svn.toNat < fuse.toNat then 4#4 else 1#4
/-- BOOT_VERIFY_COMPLETE (R414): STATUS, and the image runs, or vector 2 is signalled and the ROM waits. -/
def execBootVerifyComplete (s : State) : Outcome State Fault Refusal :=
  if !s.bootPending then .next s
  else
    let c := s.checkImage s.free
    let st := bootStatus c s.fuseSvn
    .next { s with
      mailbox := st, bootPending := false, free := s.free + 1
      image := if st = 1#4 then some (c.digest, c.svn) else s.image
      vectors := if st = 1#4 then s.vectors else s.vectors ||| 4#3 }
/-- DEVICE_RESET (R414): every register at its reset value. The fuses and the expanders that are present stay, and so do the model's own
agenda and counters. -/
def execDeviceReset (s : State) : Outcome State Fault Refusal :=
  .next { State.reset with fuseSvn := s.fuseSvn, expanders := s.expanders, free := s.free, turn := s.turn, agenda := s.agenda }
/-- The bytes of a report (R415): the nonce, the image's digest, SVN, FUSESVN and the device's identity, and both signatures over these. -/
def reportBytes (nonce : BitVec 256) (digest : BitVec 384) (svn fuse : W32) : List Byte :=
  let l := leBytes 32 nonce.toNat ++ leBytes 48 digest.toNat ++ leBytes 4 svn.toNat ++ leBytes 4 fuse.toNat ++ leBytes 16 Config.identity.toNat
  l ++ leBytes 96 (Config.signEcdsa l).toNat ++ Config.signLms l
/-- ATTESTATION_REQUEST (R415): the report of the running image for a nonce, with its two signatures (log 22). While no image runs there is none
to report, and the latest report stays: the model's choice (log 22). -/
def execAttestationRequest (nonce : BitVec 256) (s : State) : Outcome State Fault Refusal :=
  match s.image with
  | none => .next { s with nonce }
  | some (d, svn) => .next { s with nonce, report := some (reportBytes nonce d svn s.fuseSvn) }

/-! ### Registers in BAR0 (R407) -/

/-- A launch queue's register block, word w of four, written by the host (R292, R293). -/
def Queue.write (x : Queue) (w : Nat) (v : W64) : Queue :=
  match w with
  | 0 => if x.en then x else { x with qbase := v.setWidth 56 &&& ~~~(127#56) }
  | 1 =>
    let y := { x with en := v.getLsbD 8, err := x.err && !v.getLsbD 10 }
    if x.en then y
    else
      { y with
        log2sz := if (v.extractLsb' 0 5).toNat ≤ 16 then v.extractLsb' 0 5 else x.log2sz
        src := v.getLsbD 9
        asid := v.extractLsb' 16 16 }
  | 2 => x.writeTail (v.extractLsb' 32 32)
  | _ => x
/-- A word of queue q's block written: the dispatcher reads the wait conditions again after a write of TAIL (R297). -/
def State.writeQueue (s : State) (q w : Nat) (v : W64) : State :=
  let s1 := s.modQueue q fun x => x.write w v
  if w = 2 then s1.pollAll else s1
/-- The partition byte of a core written (R318, R407): ignored while a block is resident there. -/
def State.writePart (s : State) (core : Nat) (v : Byte) : State :=
  if (7#8 < v && v != 0xFF#8) || (s.blocks.any fun e => e.2.any fun b => b.core == core && b.life != .launched) then s
  else s.modCore core fun c => { c with part := v }
/-- The context slot to which VF n is bound (R406, log 23). -/
def State.vfSlot (s : State) (n : Nat) : Option Nat :=
  let x := (s.cap 1).value.toNat / 2 ^ (8 * n) % 256
  if 128 ≤ x then some (x % 64) else none
/-- The j-th queue, in ascending order, of the ASID of a VF's slot (R407). -/
def State.vfQueue (s : State) (n j : Nat) : Option Nat :=
  match s.vfSlot n with
  | none => none
  | some slot => ((List.range 64).filter fun q => (s.queue q).asid == (s.ctx slot).asid)[j]?
/-- A debug register written as the management context reaches it (R385, R407). -/
def State.writeDebug (s : State) (n : Nat) (v : W64) : State := if s.dbgBad 0 n v then s else s.dbgWrite 0 n v
/-- Part i of the nonce written, of 8 bytes (R415). -/
def State.putNonce (s : State) (i : Nat) (v : W64) : State :=
  { s with nonce := (s.nonce &&& ~~~((BitVec.allOnes 64).setWidth 256 <<< (64 * i))) ||| (v.setWidth 256 <<< (64 * i)) }
/-- The state after an event that always answers a next state. -/
def stateOf (s : State) (o : Outcome State Fault Refusal) : State :=
  match o with
  | .next s1 => s1
  | .fault _ | .refused _ => s
/-- A capability record's words (R409, log 23): APPLY, and the basic fields. Those of 0x0006 are a nonce of 32 bytes, whose last part asks for the
report (R415). -/
def State.writeCap (s : State) (id o : Nat) (v : W64) : State :=
  if o = 8 then (if v.getLsbD 32 then s.applyCap id else s)
  else if id = 6 && 16 ≤ o && o < 48 && o % 8 = 0 then
    let s1 := s.putNonce ((o - 16) / 8) v
    if o = 40 then stateOf s1 (execAttestationRequest s1.nonce s1) else s1
  else if o = 16 then s.writeBasic id v
  else s
/-- A word of the MSI-X table at reset (R407, log 23): as PCI Express lays it out, an address and a data word a vector, the mask over the data set. -/
def msixReset (i : Nat) : W64 := if i % 2 = 1 then 0x100000000#64 else 0#64
/-- A word of the MSI-X table. -/
def State.msixWord (s : State) (i : Nat) : W64 := Tbl.get (msixReset i) s.msix i
/-- A word of the PF's BAR0 written (R407): a register that no row of the table names ignores it. -/
def State.writeBar0 (s : State) (off : Nat) (v : W64) : State :=
  if off < 0x1C0 then s.writeCap (off / 64 + 1) (off % 64) v
  else if 0x1000 ≤ off && off < 0x11C0 && off % 64 = 0 then s.writeExpert ((off - 0x1000) / 64 + 1) v
  else if 0x10000 ≤ off && off < 0x10800 && off % 8 = 0 then s.writeQueue ((off - 0x10000) / 32) (off % 32 / 8) v
  else if 0x20000 ≤ off && off < 0x20180 then s.writePart (off - 0x20000) (v.setWidth 8)
  else if 0x30000 ≤ off && off < 0x30030 && off % 8 = 0 then
    let i := (off - 0x30000) / 8
    { s with msix := Tbl.put (msixReset i) s.msix i v }
  else if 0x40000 ≤ off && off < 0x80000 && off % 8 = 0 then s.writeDebug ((off - 0x40000) / 8) v
  else if off = 0x80008 then (if v.getLsbD 0 then s.ringDoorbell else s)
  else s

/-- A word of a launch queue's block as the host reads it (R292). -/
def Queue.read (x : Queue) (w : Nat) : W64 :=
  match w with
  | 0 => x.qbase.setWidth 64
  | 1 => BitVec.ofNat 64 (x.log2sz.toNat + x.en.toNat * 2 ^ 8 + x.src.toNat * 2 ^ 9 + x.err.toNat * 2 ^ 10 + x.asid.toNat * 2 ^ 16)
  | 2 => BitVec.ofNat 64 (x.head.toNat + x.tail.toNat * 2 ^ 32)
  | _ => 0#64
/-- A word of a capability record as the host reads it (R409, R415, R416, log 23): ID, VER 1 and NEXT; EXPB and EXPERT, APPLY reading 0; and the
basic fields, which of 0x0007 hold the sensors after the cap. -/
def State.readCap (s : State) (id o : Nat) : W64 :=
  let x := s.sensors
  let word (l : List Nat) : W64 := BitVec.ofNat 64 (l.foldr (fun n a => n % 2 ^ 16 + 2 ^ 16 * a) 0)
  if o = 0 then BitVec.ofNat 64 (id + 2 ^ 16 + (if id < 7 then 64 * id else 0) * 2 ^ 32)
  else if o = 8 then BitVec.ofNat 64 (0x1000 + 64 * (id - 1) + (s.cap id).sel.toNat * 2 ^ 33)
  else if id = 6 then (if 16 ≤ o && o < 48 && o % 8 = 0 then s.nonce.extractLsb' (64 * ((o - 16) / 8)) 64 else 0#64)
  else if o = 16 then (s.cap id).basic
  else if id = 7 && o = 24 then BitVec.ofNat 64 (x.power % 2 ^ 32 + x.inlet % 2 ^ 16 * 2 ^ 32 + x.outlet % 2 ^ 16 * 2 ^ 48)
  else if id = 7 && o = 32 then word x.junction
  else 0#64
/-- A word of the PF's BAR0 as the host reads it (R407, R414, R415): what no row of the table names reads zero. -/
def State.readBar0 (s : State) (off : Nat) : W64 :=
  if off % 8 ≠ 0 then 0#64
  else if off < 0x1C0 then s.readCap (off / 64 + 1) (off % 64)
  else if 0x1000 ≤ off && off < 0x11C0 && off % 64 = 0 then (s.cap ((off - 0x1000) / 64 + 1)).expert
  else if 0x2000 ≤ off && off < 0x10000 then BitVec.ofNat 64 (leNat (((s.report.getD []).drop (off - 0x2000)).take 8))
  else if 0x10000 ≤ off && off < 0x10800 then (s.queue ((off - 0x10000) / 32)).read (off % 32 / 8)
  else if 0x20000 ≤ off && off < 0x20180 then
    BitVec.ofNat 64 (leNat ((List.range 8).map fun i => (s.core (off - 0x20000 + i)).part))
  else if 0x30000 ≤ off && off < 0x30030 then s.msixWord ((off - 0x30000) / 8)
  else if 0x40000 ≤ off && off < 0x80000 then s.dbgVal 0 ((off - 0x40000) / 8)
  else if off = 0x80000 then BitVec.ofNat 64 (s.mailbox.toNat + s.fuseSvn.toNat * 2 ^ 32)
  else 0#64
/-- A word of VF n's BAR0 as the host reads it (R406, R407): the register block of the queue it holds there. A VF bound to no slot reads zero. -/
def State.readVf (s : State) (n off : Nat) : W64 :=
  if off % 8 ≠ 0 then 0#64
  else match s.vfQueue n (off / 32) with
    | none => 0#64
    | some q => (s.queue q).read (off % 32 / 8)
/-- HOST_REGISTER_WRITE (R407): the PF's BAR0, or above it the VFs' 64 KiB each. -/
def execHostRegisterWrite (off : Nat) (v : W64) (s : State) : Outcome State Fault Refusal :=
  if off < 2 ^ 24 then .next (s.writeBar0 off v)
  else
    let o := (off - 2 ^ 24) % 65536
    if o % 8 ≠ 0 || 8 ≤ (off - 2 ^ 24) / 65536 then .next s
    else
      match s.vfQueue ((off - 2 ^ 24) / 65536) (o / 32) with
      | none => .next s
      | some q => .next (s.writeQueue q (o % 32 / 8) v)

/-! ### BAR2 (R408) -/

/-- Bytes written at their homes for the host or a peer (R408, R410): those outside the map of R24 are dropped. -/
def State.outerWrite (s : State) (pa : Nat) (l : List Byte) : State :=
  let s1 := s.fetchRange pa l.length
  if (List.range l.length).all fun i => paDram (pa + i) then s1.store pa l
  else l.zipIdx.foldl (fun (s : State) x => if paDram (pa + x.2) then s.store (pa + x.2) [x.1] else s) s1
/-- Bytes read at their homes for the host or a peer (R408, R410): those outside the map of R24 read all ones. -/
def State.outerRead (s : State) (pa n : Nat) : List Byte := (List.range n).map fun i => if paDram (pa + i) then s.byte (pa + i) else 0xFF#8
/-- HOST_BAR2_WRITE (R407, R408). -/
def execHostBar2Write (addr n v : Nat) (s : State) : Outcome State Fault Refusal := .next (s.outerWrite addr (leBytes n v))
/-- HOST_BAR2_READ (R407, R408). -/
def execHostBar2Read (addr n : Nat) (s : State) : Outcome State Fault Refusal :=
  let s1 := s.fetchRange addr n
  .next { s1 with hostData := leNat (s1.outerRead addr n) }

/-! ### The fabric (R410, R411) -/

/-- A canal port. -/
def State.port (s : State) (n : Nat) : Port := Tbl.get Port.reset s.ports n
/-- A port changed. -/
def State.modPort (s : State) (n : Nat) (f : Port → Port) : State := { s with ports := Tbl.put Port.reset s.ports n (f (s.port n)) }
/-- The bytes that an operation of a peer reads and writes, by the bytes of its operands (R216): an atomic takes one, a `cas` two. -/
def homeSize (op : HomeOp) (n : Nat) : Nat :=
  match op with
  | .atom _ => n
  | .cas => n / 2
  | .kvref | .kvrefClaim | .kvunref | .pin | .unpin => 16
/-- What an operation of a peer makes of the bytes at its home (R193, R194, R196, R261, R263); none where it writes nothing. -/
def homeResult (op : HomeOp) (old data : List Byte) : Option (List Byte) :=
  let n := homeSize op data.length
  let kv (unref claim : Bool) : Option (List Byte) :=
    (kvChange unref claim (leNat data) (descOf (leNat old))).bind fun x => if x.2 then none else some x.1.bytes
  match op with
  | .atom f => some (leBytes n (atomNew f (n == 8) (leNat old) (leNat data)).1)
  | .cas => if old = data.take n then some (data.drop n) else none
  | .kvref => kv false false
  | .kvrefClaim => kv false true
  | .kvunref => kv true false
  | .pin =>
    let d := descOf (leNat old)
    if d.free || 65535 ≤ d.pin then none else some ({ d with pin := d.pin + 1 } : Desc).bytes
  | .unpin => some (descOf (leNat old)).unpin.bytes
/-- REMOTE_ACCESS_REQUEST_FLIT (R410): the access of a peer performs at its home, and a response leaves by the same port. `data` holds the bytes
of a write or the operands of an atomic; a read asks for as many bytes as `data` has. An address outside the map of R24 is answered as the
host's is (log 12). -/
def execRemoteAccessRequestFlit (port : Nat) (kind : AwayKind) (pa : Nat) (data : List Byte) (s : State) : Outcome State Fault Refusal :=
  if 18 ≤ port || !(s.port port).up || 232 < data.length then .next s
  else
    let answer (s : State) (l : List Byte) : Outcome State Fault Refusal := .next { s with flitsOut := s.flitsOut ++ [.response port pa l] }
    match kind with
    | .read =>
      let s1 := s.fetchRange pa data.length
      answer s1 (s1.outerRead pa data.length)
    | .write => answer (s.outerWrite pa data) []
    | .rmw op =>
      let n := homeSize op data.length
      let s1 := s.fetchRange pa n
      let old := s1.outerRead pa n
      answer (match homeResult op old data with | none => s1 | some l => s1.outerWrite pa l) old
/-- An outstanding access ends, and the unit that waits for it goes on (R366). -/
def State.endRemote (s : State) (id : Nat) (f : Remote → Remote) : State :=
  ({ s with remotes := s.remotes.map fun r => if r.id = id then f r else r } : State).wakeParked
    (fun w => w == .remote id) (fun w => w == .remote id) (fun _ => false)
/-- RESPONSE_FLIT (R410): `data` are what the home of the access held, in the order of its request's flits; with the last the access is
acknowledged (log 12). Where no unit waits for it, that is its end. -/
def execResponseFlit (id : Nat) (data : List Byte) (s : State) : Outcome State Fault Refusal :=
  match s.remotes.find? fun r => r.id == id && !r.done && !r.failed with
  | none => .next s
  | some r =>
    if 1 < r.left then
      .next { s with remotes := s.remotes.map fun r => if r.id = id then { r with left := r.left - 1, got := r.got ++ data } else r }
    else .next (if r.who.isNone then s.consume [id] else s.endRemote id fun r => { r with left := 0, done := true, got := r.got ++ data })
/-- ACCESS_TIMEOUT (R366, R411): 2^24 cycles without an acknowledgement. A write that no unit holds for is kept for the fence that meets it
(log 70). -/
def execAccessTimeout (id : Nat) (s : State) : Outcome State Fault Refusal :=
  match s.remotes.find? fun r => r.id == id && !r.done && !r.failed with
  | none => .next s
  | some r =>
    if s.clock < r.since + 2 ^ 24 then .next s
    else .next (if r.who.isNone && r.ask.kind == .read then s.consume [id] else s.endRemote id fun r => { r with failed := true })
/-- HEARTBEAT_FLIT (R411). -/
def execHeartbeatFlit (port : Nat) (s : State) : Outcome State Fault Refusal :=
  if port < 18 then .next (s.modPort port fun p => { p with missed := 0 }) else .next s
/-- HEARTBEAT_TIMER (R411): every port sends a heartbeat; a heartbeat of its peer that has not come since the last counts as missed. -/
def execHeartbeatTimer (s : State) : Outcome State Fault Refusal :=
  let s1 := (List.range 18).foldl (fun (s : State) n => s.modPort n fun p => { p with missed := p.missed + 1 }) s
  .next { s1 with flitsOut := s1.flitsOut ++ (List.range 18).map fun n => .heartbeat n }
/-- What no response has answered of an access leaves again by another port (R411). -/
def State.resend (s : State) (id : Nat) : State :=
  match s.route, s.remotes.find? fun r => r.id == id with
  | some n, some r =>
    { s with
      remotes := s.remotes.map fun r => if r.id = id then { r with port := n } else r
      flitsOut := s.flitsOut ++ (r.ask.flits r.id n).drop ((r.ask.flits r.id n).length - r.left) }
  | _, _ => s
/-- PORT_DOWN (R411): a port that missed four heartbeats is down, and its traffic moves to the remaining routes. -/
def execPortDown (port : Nat) (s : State) : Outcome State Fault Refusal :=
  if 18 ≤ port || (s.port port).missed < 4 then .next s
  else
    let s1 := s.modPort port fun p => { p with up := false }
    .next ((s1.remotes.filter fun r => r.port == port && !r.done && !r.failed).foldl (fun (s : State) r => s.resend r.id) s1)

/-! ### Power and heat (R416) -/

/-- A die's junction has reached a temperature (R416). -/
def Sensors.hot (x : Sensors) (c : Nat) : Bool := x.junction.any fun t => c ≤ t
/-- The cap or 105 degrees is reached (R416). -/
def State.mustThrottle (s : State) : Bool := (s.cap 7).value.toNat ≤ s.sensors.power || s.sensors.hot 105
/-- THERMAL_THROTTLE (R416, R15): the clock is lowered; every count of cycles is unchanged. -/
def execThermalThrottle (s : State) : Outcome State Fault Refusal := .next (if s.mustThrottle then { s with throttled := true } else s)
/-- THERMAL_SHUTDOWN (R416): the module shuts down, and starts again only from reset. -/
def execThermalShutdown (s : State) : Outcome State Fault Refusal := .next (if s.sensors.hot 115 then { s with off := true } else s)

end Sys2Proof.Machine
end

