-- ==== Sys2Proof/Machine/Float.lean ====
section
/-! DEFINITION. The floating, conversion and special-function instructions of the thread set (05_thread_instructions.md
R121, R125-R138). -/

namespace Sys2Proof.Machine

open Host (Outcome)

/-- The element format of a float type (R125). -/
def ftyFmt : FTy → Fmt
  | .f32 => fmtF32
  | .h2f16 => fmtF16
  | .h2bf16 => fmtBf16

/-- Half i of a register (R125). -/
def half (v : W32) (i : Nat) : Nat := (v.extractLsb' (16 * i) 16).toNat
/-- Two halves joined, half 1 above half 0. -/
def joinHalves (hi lo : Nat) : W32 := BitVec.ofNat 16 hi ++ BitVec.ofNat 16 lo

/-- An operation on the elements of registers: on the whole register with `f32`, on the two halves independently with `h2`,
whose flags are merged (R125). -/
def perElem (ty : FTy) (f : Fmt → List Nat → Nat × Flags) (xs : List W32) : W32 × Flags :=
  match ty with
  | .f32 =>
    let r := f fmtF32 (xs.map BitVec.toNat)
    (BitVec.ofNat 32 r.1, r.2)
  | .h2f16 | .h2bf16 =>
    let r0 := f (ftyFmt ty) (xs.map (half · 0))
    let r1 := f (ftyFmt ty) (xs.map (half · 1))
    (joinHalves r1.1 r0.1, r0.2 ||| r1.2)

/-- A value and its flags as a pattern. -/
def encoded (f : Fmt) (r : FVal × Flags) : Nat × Flags := (f.encode r.1, r.2)

/-- d := the elementwise result over the named registers, with its flags merged. -/
def floatOp (g : Guard) (d : Reg) (ty : FTy) (src : List Reg) (f : Fmt → List Nat → Nat × Flags) (s : State) :
    Outcome State Fault Refusal :=
  lanesNext s g fun _ t =>
    let r := perElem ty f (src.map fun x => t.get x.toNat)
    (t.set d.toNat r.1).raise r.2

/-- Element i of a list of patterns. -/
def nth (l : List Nat) (i : Nat) : Nat := l.getD i 0

/-- A two-source operation on decoded values. -/
def float2 (o : F3) (f : Fmt → FVal → FVal → FVal × Flags) (s : State) : Outcome State Fault Refusal :=
  floatOp o.g o.d o.ty [o.a, o.b] (fun F l => encoded F (f F (F.decode (nth l 0)) (F.decode (nth l 1)))) s

/-- `fadd` (R126). -/
def execFadd (o : F3) (s : State) : Outcome State Fault Refusal := float2 o (fun F a b => fAdd F o.rm a b) s
/-- `fsub` (R126). -/
def execFsub (o : F3) (s : State) : Outcome State Fault Refusal := float2 o (fun F a b => fSub F o.rm a b) s
/-- `fmul` (R126). -/
def execFmul (o : F3) (s : State) : Outcome State Fault Refusal := float2 o (fun F a b => fMul F o.rm a b) s
/-- `fma` (R126). -/
def execFma (o : F4) (s : State) : Outcome State Fault Refusal :=
  floatOp o.g o.d o.ty [o.a, o.b, o.c]
    (fun F l => encoded F (fFma F o.rm (F.decode (nth l 0)) (F.decode (nth l 1)) (F.decode (nth l 2)))) s
/-- A pattern as a two's-complement integer of the format's width. -/
def patInt (F : Fmt) (n : Nat) : Int := if 2 ^ (F.width - 1) ≤ n then (n : Int) - (2 ^ F.width : Nat) else n
/-- `fscale` (R126). -/
def execFscale (o : F3) (s : State) : Outcome State Fault Refusal :=
  floatOp o.g o.d o.ty [o.a, o.b] (fun F l => encoded F (fScale F o.rm (F.decode (nth l 0)) (patInt F (nth l 1)))) s
/-- `fmin` (R127). -/
def execFmin (o : FMinOp) (s : State) : Outcome State Fault Refusal :=
  floatOp o.g o.d o.ty [o.a, o.b] (fun F l => fMinMax F false (nth l 0) (nth l 1)) s
/-- `fmax` (R127). -/
def execFmax (o : FMinOp) (s : State) : Outcome State Fault Refusal :=
  floatOp o.g o.d o.ty [o.a, o.b] (fun F l => fMinMax F true (nth l 0) (nth l 1)) s
/-- `fdot2` (R128): F32 from two halves of a and b, and c. -/
def execFdot2 (o : FDotOp) (s : State) : Outcome State Fault Refusal :=
  lanesNext s o.g fun _ t =>
    let F := if o.bf then fmtBf16 else fmtF16
    let a := t.get o.a.toNat
    let b := t.get o.b.toNat
    let r := fDot2 fmtF32 o.rm (F.decode (half a 0)) (F.decode (half b 0)) (F.decode (half a 1)) (F.decode (half b 1))
      (fmtF32.decode (t.get o.c.toNat).toNat)
    (t.set o.d.toNat (BitVec.ofNat 32 (fmtF32.encode r.1))).raise r.2
/-- `fclass` (R129). -/
def execFclass (o : FClassOp) (s : State) : Outcome State Fault Refusal :=
  floatOp o.g o.d o.ty [o.a] (fun F l => ((fClass F (nth l 0)).toNat, sigFlag [F.decode (nth l 0)])) s
/-- `frnd` (R130). -/
def execFrnd (o : FRndOp) (s : State) : Outcome State Fault Refusal :=
  floatOp o.g o.d o.ty [o.a] (fun F l => encoded F (fRnd o.rm o.x (F.decode (nth l 0)))) s
/-- `cmp` on floats (R121): any NaN operand sets invalid. -/
def execCmpFloat (o : CmpFOp) (s : State) : Outcome State Fault Refusal :=
  lanesNext s o.g fun _ t =>
    let F := ftyFmt o.ty
    let pick (v : W32) : FVal := F.decode (if o.ty = .f32 then v.toNat else half v o.hs.toNat)
    let a := pick (t.get o.a.toNat)
    let b := pick (t.get o.b.toNat)
    (t.setPreds o.pd o.pe (fCond o.cond a b)).raise (nanFlag [a, b])

/-- Element SEL of a register under a source type (R131). -/
def cvtElem (ts : Ty) (sel : Nat) (v : W32) : Nat :=
  match ts.bits with
  | 8 => (v.extractLsb' (8 * sel) 8).toNat
  | 16 => (v.extractLsb' (16 * sel) 16).toNat
  | _ => v.toNat
/-- The converted element as a register value (R131), with its flags. -/
def cvtVal (ts td : Ty) (rm : Rm) (ovf : Ovf) (v : FVal) : W32 × Flags :=
  if td.isFloat then
    let r := convFloat (fmtOf td) rm ovf (exactConv ts td) v
    (BitVec.ofNat 32 ((fmtOf td).encode r.1), r.2)
  else
    let r := convInt rm (intRange td).1 (intRange td).2 v
    (BitVec.ofInt 32 r.1, r.2)
/-- The destinations that record amax (R105, R131). -/
def cvtAmax (ts td : Ty) : Bool := ts.isFloat && (td == .f16 || td == .bf16 || td == .f8a || td == .f8b || td == .s8)
/-- `cvt` (R131). -/
def execCvt (o : CvtOp) (s : State) : Outcome State Fault Refusal :=
  lanesNext s o.g fun _ t =>
    let v := elemVal o.ts (cvtElem o.ts o.sel.toNat (t.get o.a.toNat))
    let r := cvtVal o.ts o.td o.rm o.ovf v
    let t := (t.set o.d.toNat r.1).raise r.2
    if cvtAmax o.ts o.td then t.amaxOver [v] else t
/-- `cvtf` (R132): two halves from a and b, or four bytes from a quad. -/
def execCvtf (o : CvtfOp) (s : State) : Outcome State Fault Refusal :=
  lanesNext s o.g fun _ t =>
    let src := if o.td.isF8 then t.getRun o.a.toNat 4 else [t.get o.a.toNat, t.get o.b.toNat]
    let vs := src.map fun x => fmtF32.decode x.toNat
    let rs := vs.map fun v => cvtVal .f32 o.td o.rm o.ovf v
    let d : W32 := rs.zipIdx.foldl (fun (acc : W32) (r : (W32 × Flags) × Nat) => acc ||| r.1.1 <<< (r.2 * o.td.bits)) 0#32
    ((t.set o.d.toNat d).raise (rs.foldl (fun f r => f ||| r.2) 0#5)).amaxOver vs
/-- The zero point of a quantised type in a register (R133, R134). -/
def zeroPoint (ty : Ty) (c : W32) : Int :=
  match ty with
  | .q8 => ((c.setWidth 8).toNat : Int)
  | .q4 => ((c.setWidth 4).toNat : Int)
  | .s8 | .z8 | .s16 | .z16 | .s32 | .z32 | .f32 | .f16 | .bf16 | .f8a | .f8b => 0
/-- The range of codes `quant` writes (R99). -/
def quantRange (ty : Ty) : Int × Int := if ty = .s8 then (-127, 127) else intRange ty
/-- `quant` (R133). -/
def execQuant (o : QuantOp) (s : State) : Outcome State Fault Refusal :=
  lanesNext s o.g fun _ t =>
    let x := fmtF32.decode (t.get o.a.toNat).toNat
    let r := quantCode o.rm x (fmtF32.decode (t.get o.b.toNat).toNat) (zeroPoint o.ty (t.get o.c.toNat))
      (quantRange o.ty).1 (quantRange o.ty).2
    ((t.set o.d.toNat (BitVec.ofInt 32 r.1)).raise r.2).amaxOver [x]
/-- The code of a quantised element in a register (R134). -/
def deqCode (ty : Ty) (a : W32) : Int :=
  match ty with
  | .q8 => ((a.setWidth 8).toNat : Int)
  | .q4 => ((a.setWidth 4).toNat : Int)
  | .s8 | .z8 | .s16 | .z16 | .s32 | .z32 | .f32 | .f16 | .bf16 | .f8a | .f8b => (a.setWidth 8).toInt
/-- `deq` (R134). -/
def execDeq (o : QuantOp) (s : State) : Outcome State Fault Refusal :=
  lanesNext s o.g fun _ t =>
    let b := t.get o.b.toNat
    let sc := if o.ty = .s8 then fmtF32.decode b.toNat else fmtF16.decode (half b 0)
    let r := deqVal o.rm sc (deqCode o.ty (t.get o.a.toNat)) (zeroPoint o.ty (t.get o.c.toNat))
    (t.set o.d.toNat (BitVec.ofNat 32 (fmtF32.encode r.1))).raise r.2
/-- `amax` (R135). -/
def execAmax (o : AmaxOp) (s : State) : Outcome State Fault Refusal :=
  lanesNext s o.g fun _ t =>
    let a := t.get o.a.toNat
    let vs := if o.ts = .f32 then [fmtF32.decode a.toNat]
      else [(fmtOf o.ts).decode (half a 0), (fmtOf o.ts).decode (half a 1)]
    ((t.set o.d.toNat (vs.foldl amaxMerge 0#32)).raise (nanFlag vs)).amaxOver vs

/-- A special function of an F32 register (R137). -/
def sfuOp (f : Sfu) (o : SfuOp) (s : State) : Outcome State Fault Refusal :=
  lanesNext s o.g fun _ t =>
    let r := f.eval o.rm (fmtF32.decode (t.get o.a.toNat).toNat)
    (t.set o.d.toNat (BitVec.ofNat 32 (fmtF32.encode r.1))).raise r.2
/-- `rcp` (R137). -/
def execRcp (o : SfuOp) (s : State) : Outcome State Fault Refusal := sfuOp .rcp o s
/-- `rsqrt` (R137). -/
def execRsqrt (o : SfuOp) (s : State) : Outcome State Fault Refusal := sfuOp .rsqrt o s
/-- `sqrt` (R137). -/
def execSqrt (o : SfuOp) (s : State) : Outcome State Fault Refusal := sfuOp .sqrt o s
/-- `exp2` (R137). -/
def execExp2 (o : SfuOp) (s : State) : Outcome State Fault Refusal := sfuOp .exp2 o s
/-- `log2` (R137). -/
def execLog2 (o : SfuOp) (s : State) : Outcome State Fault Refusal := sfuOp .log2 o s
/-- `sin` (R137). -/
def execSin (o : SfuOp) (s : State) : Outcome State Fault Refusal := sfuOp .sin o s
/-- `cos` (R137). -/
def execCos (o : SfuOp) (s : State) : Outcome State Fault Refusal := sfuOp .cos o s
/-- `tanh` (R137). -/
def execTanh (o : SfuOp) (s : State) : Outcome State Fault Refusal := sfuOp .tanh o s
/-- `sigm` (R137). -/
def execSigm (o : SfuOp) (s : State) : Outcome State Fault Refusal := sfuOp .sigm o s
/-- `erf` (R137). -/
def execErf (o : SfuOp) (s : State) : Outcome State Fault Refusal := sfuOp .erf o s

end Sys2Proof.Machine
end

