-- ==== Sys2Proof/Machine/TileS.lean ====
section
/-! DEFINITION. The S slots: keeper scalar operations (06_tile_set.md R165-R167). -/

namespace Sys2Proof.Machine

open Host (Outcome)

/-- Operand B (R166): kB, or UIMM6. -/
def Tile.kB (x : Tile) (r : KReg) (i : Bool) : W64 := if i then r.setWidth 64 else x.kreg r
/-- A shift amount (R166). -/
def kShift (b : W64) : Nat := (b.setWidth 7).toNat
/-- A scalar result lands at s + 1 (R156). -/
def scalarOp (w : Slot) (d : KReg) (f : Tile → W64) (s : State) : Outcome State Fault Refusal :=
  slotOp w.q (fun b s => .ok (s.emit 1 (.k d (f b.tile)) 0#5)) s
/-- An RR operation (R165). -/
def kOp (o : KOp) (f : W64 → W64 → W64) (s : State) : Outcome State Fault Refusal :=
  scalarOp o.w o.d (fun x => f (x.kreg o.a) (x.kB o.b o.i)) s

/-- `kadd` (R166). -/
def execKadd (o : KOp) (s : State) : Outcome State Fault Refusal := kOp o (· + ·) s
/-- `ksub` (R166). -/
def execKsub (o : KOp) (s : State) : Outcome State Fault Refusal := kOp o (· - ·) s
/-- `kmul` (R166). -/
def execKmul (o : KOp) (s : State) : Outcome State Fault Refusal := kOp o (· * ·) s
/-- `kand` (R166). -/
def execKand (o : KOp) (s : State) : Outcome State Fault Refusal := kOp o (· &&& ·) s
/-- `kor` (R166). -/
def execKor (o : KOp) (s : State) : Outcome State Fault Refusal := kOp o (· ||| ·) s
/-- `kxor` (R166). -/
def execKxor (o : KOp) (s : State) : Outcome State Fault Refusal := kOp o (· ^^^ ·) s
/-- `kshl` (R166). -/
def execKshl (o : KOp) (s : State) : Outcome State Fault Refusal := kOp o (fun a b => a <<< kShift b) s
/-- `kshr` (R166). -/
def execKshr (o : KOp) (s : State) : Outcome State Fault Refusal := kOp o (fun a b => shrVal o.x a (kShift b)) s
/-- `kmin` (R166). -/
def execKmin (o : KOp) (s : State) : Outcome State Fault Refusal :=
  kOp o (fun a b => if (if o.x then b.ult a else b.slt a) then b else a) s
/-- `kmax` (R166). -/
def execKmax (o : KOp) (s : State) : Outcome State Fault Refusal :=
  kOp o (fun a b => if (if o.x then a.ult b else a.slt b) then b else a) s
/-- `kaddi` (R166). -/
def execKaddi (o : KImm10) (s : State) : Outcome State Fault Refusal :=
  scalarOp o.w o.d (fun x => x.kreg o.a + o.imm.signExtend 64) s
/-- `kmovi` (R166). -/
def execKmovi (o : KImm16) (s : State) : Outcome State Fault Refusal := scalarOp o.w o.d (fun _ => o.imm.signExtend 64) s
/-- `kcmp` (R166): qD, and its complement in qE unless QE = 0. -/
def execKcmp (o : KCmpOp) (s : State) : Outcome State Fault Refusal :=
  slotOp o.w.q (fun b s =>
    let t := condHolds o.cond (b.tile.kreg o.a) (b.tile.kB o.b o.i)
    let s1 := s.emit 1 (.q o.qd t) 0#5
    .ok (if o.qe = 0#3 then s1 else s1.emit 1 (.q o.qe (!t)) 0#5)) s
/-- `ksel` (R166). -/
def execKsel (o : KSelOp) (s : State) : Outcome State Fault Refusal :=
  scalarOp o.w o.d (fun x => if x.qreg o.q != o.n then x.kreg o.a else x.kreg o.b) s

/-- The address of `kld` and `kst` (R166). -/
def Tile.kAddr (x : Tile) (o : KImm10) : Nat := (x.kreg o.a + (o.imm.signExtend 64 <<< 3)).toNat
/-- A byte as the `kld` of a slot reads it (R167): that of the context's latest earlier `kst`, else memory's. -/
def Tile.forward (x : Tile) (slot loc : Nat) (v : Byte) : Byte :=
  x.fly.foldl (fun v l =>
    match l.eff with
    | .mem out => if l.slot ≤ 1 && (l.issued < x.step || l.slot < slot) then out.foldl (fun v o => if o.2.1 = loc then o.2.2 else v) v else v
    | _ => v) v
/-- `kld` (R166, R167): the value lands at s + 4. -/
def execKld (o : KImm10) (s : State) : Outcome State Fault Refusal :=
  slotOp o.w.q (fun b s =>
    let va := b.tile.kAddr o
    match s.checkRead (b.engine s.cur.blk s.cur.slot) va 8 with
    | .error e => .error e
    | .ok pl =>
      let s1 := s.settle b s.cur.blk [(va, pl, 8)]
      let l := (s1.dataOf b.core pl 8).zipIdx.map fun x => b.tile.forward s.cur.slot (pl.loc + x.2) x.1
      .ok (((s1.afterLoad b.core pl.loc .none).emit 4 (.k o.d (BitVec.ofNat 64 (leNat l))) 0#5).watchTile b s.cur.slot s.cur.baddr
        [{ va := some va, pa := pl.loc, n := 8, rd := true, wr := false, eng := false }])) s
/-- `kst` (R166, R167): checked at issue; the context's streams and engines see it from s + 4, where it is posted (R158). -/
def execKst (o : KImm10) (s : State) : Outcome State Fault Refusal :=
  slotOp o.w.q (fun b s =>
    let va := b.tile.kAddr o
    let bs := leBytes 8 (b.tile.kreg o.d).toNat
    if va / 2 ^ 56 ≠ 0 then .error (xlatAt 3 va)
    else if va % 8 ≠ 0 then .error (stopAt .align va)
    else
      match s.postPlace (b.engine s.cur.blk s.cur.slot) va bs with
      | .error e => .error e
      | .ok x => .ok ((s.settle b s.cur.blk (pieceUses [x])).emit 4 (.mem (postBytes x)) 0#5)) s

end Sys2Proof.Machine
end

