-- ==== Sys2Proof/Machine/Dispatch.lean ====
section
/-! DEFINITION. The dispatch from an instruction to its meaning. -/

namespace Sys2Proof.Machine

/-- What an instruction does, or an event of the device's agents. -/
def exec (i : Instr) (s : State) : Host.Outcome State Fault Refusal :=
  match i with
  | .nop g => Sys2Proof.Machine.execNop g s
  | .add o => Sys2Proof.Machine.execAdd o s
  | .sub o => Sys2Proof.Machine.execSub o s
  | .mul o => Sys2Proof.Machine.execMul o s
  | .mulh o => Sys2Proof.Machine.execMulh o s
  | .mulw o => Sys2Proof.Machine.execMulw o s
  | .mad o => Sys2Proof.Machine.execMad o s
  | .and o => Sys2Proof.Machine.execAnd o s
  | .or o => Sys2Proof.Machine.execOr o s
  | .xor o => Sys2Proof.Machine.execXor o s
  | .andn o => Sys2Proof.Machine.execAndn o s
  | .shl o => Sys2Proof.Machine.execShl o s
  | .shr o => Sys2Proof.Machine.execShr o s
  | .rot o => Sys2Proof.Machine.execRot o s
  | .min o => Sys2Proof.Machine.execMin o s
  | .max o => Sys2Proof.Machine.execMax o s
  | .abs o => Sys2Proof.Machine.execAbs o s
  | .clz o => Sys2Proof.Machine.execClz o s
  | .popc o => Sys2Proof.Machine.execPopc o s
  | .brev o => Sys2Proof.Machine.execBrev o s
  | .bfx o => Sys2Proof.Machine.execBfx o s
  | .bfi o => Sys2Proof.Machine.execBfi o s
  | .addx o => Sys2Proof.Machine.execAddx o s
  | .subx o => Sys2Proof.Machine.execSubx o s
  | .add64 o => Sys2Proof.Machine.execAdd64 o s
  | .sub64 o => Sys2Proof.Machine.execSub64 o s
  | .shl64 o => Sys2Proof.Machine.execShl64 o s
  | .shr64 o => Sys2Proof.Machine.execShr64 o s
  | .mul64 o => Sys2Proof.Machine.execMul64 o s
  | .lea o => Sys2Proof.Machine.execLea o s
  | .idot4 o => Sys2Proof.Machine.execIdot4 o s
  | .idot8 o => Sys2Proof.Machine.execIdot8 o s
  | .addi o => Sys2Proof.Machine.execAddi o s
  | .andi o => Sys2Proof.Machine.execAndi o s
  | .ori o => Sys2Proof.Machine.execOri o s
  | .xori o => Sys2Proof.Machine.execXori o s
  | .shli o => Sys2Proof.Machine.execShli o s
  | .shri o => Sys2Proof.Machine.execShri o s
  | .movi o => Sys2Proof.Machine.execMovi o s
  | .movih o => Sys2Proof.Machine.execMovih o s
  | .cmpi o => Sys2Proof.Machine.execCmpi o s
  | .muli o => Sys2Proof.Machine.execMuli o s
  | .cmp o => Sys2Proof.Machine.execCmp o s
  | .cmpFloat o => Sys2Proof.Machine.execCmpFloat o s
  | .plog o => Sys2Proof.Machine.execPlog o s
  | .p2d o => Sys2Proof.Machine.execP2d o s
  | .d2p o => Sys2Proof.Machine.execD2p o s
  | .sel o => Sys2Proof.Machine.execSel o s
  | .fadd o => Sys2Proof.Machine.execFadd o s
  | .fsub o => Sys2Proof.Machine.execFsub o s
  | .fmul o => Sys2Proof.Machine.execFmul o s
  | .fma o => Sys2Proof.Machine.execFma o s
  | .fmin o => Sys2Proof.Machine.execFmin o s
  | .fmax o => Sys2Proof.Machine.execFmax o s
  | .fdot2 o => Sys2Proof.Machine.execFdot2 o s
  | .fclass o => Sys2Proof.Machine.execFclass o s
  | .fscale o => Sys2Proof.Machine.execFscale o s
  | .frnd o => Sys2Proof.Machine.execFrnd o s
  | .cvt o => Sys2Proof.Machine.execCvt o s
  | .cvtf o => Sys2Proof.Machine.execCvtf o s
  | .quant o => Sys2Proof.Machine.execQuant o s
  | .deq o => Sys2Proof.Machine.execDeq o s
  | .amax o => Sys2Proof.Machine.execAmax o s
  | .perm o => Sys2Proof.Machine.execPerm o s
  | .rcp o => Sys2Proof.Machine.execRcp o s
  | .rsqrt o => Sys2Proof.Machine.execRsqrt o s
  | .sqrt o => Sys2Proof.Machine.execSqrt o s
  | .exp2 o => Sys2Proof.Machine.execExp2 o s
  | .log2 o => Sys2Proof.Machine.execLog2 o s
  | .sin o => Sys2Proof.Machine.execSin o s
  | .cos o => Sys2Proof.Machine.execCos o s
  | .tanh o => Sys2Proof.Machine.execTanh o s
  | .sigm o => Sys2Proof.Machine.execSigm o s
  | .erf o => Sys2Proof.Machine.execErf o s
  | .mov o => Sys2Proof.Machine.execMov o s
  | .rds o => Sys2Proof.Machine.execRds o s
  | .shfl o => Sys2Proof.Machine.execShfl o s
  | .br o => Sys2Proof.Machine.execBr o s
  | .brx o => Sys2Proof.Machine.execBrx o s
  | .call o => Sys2Proof.Machine.execCall o s
  | .ret o => Sys2Proof.Machine.execRet o s
  | .brc o => Sys2Proof.Machine.execBrc o s
  | .reformDirect o => Sys2Proof.Machine.execReformDirect o s
  | .reformIndirect o => Sys2Proof.Machine.execReformIndirect o s
  | .rejoin g => Sys2Proof.Machine.execRejoin g s
  | .bar g => Sys2Proof.Machine.execBar g s
  | .gate o => Sys2Proof.Machine.execGate o s
  | .exit g => Sys2Proof.Machine.execExit g s
  | .trap o => Sys2Proof.Machine.execTrap o s
  | .brk o => Sys2Proof.Machine.execBrk o s
  | .ld o => Sys2Proof.Machine.execLd o s
  | .st o => Sys2Proof.Machine.execSt o s
  | .ldr o => Sys2Proof.Machine.execLdr o s
  | .str o => Sys2Proof.Machine.execStr o s
  | .pub o => Sys2Proof.Machine.execPub o s
  | .pref o => Sys2Proof.Machine.execPref o s
  | .tagld o => Sys2Proof.Machine.execTagld o s
  | .objinit o => Sys2Proof.Machine.execObjinit o s
  | .atom o => Sys2Proof.Machine.execAtom o s
  | .cas o => Sys2Proof.Machine.execCas o s
  | .fence o => Sys2Proof.Machine.execFence o s
  | .wait o => Sys2Proof.Machine.execWait o s
  | .qpush o => Sys2Proof.Machine.execQpush o s
  | .qpop o => Sys2Proof.Machine.execQpop o s
  | .qszCnt o => Sys2Proof.Machine.execQszCnt o s
  | .qszInit o => Sys2Proof.Machine.execQszInit o s
  | .qszFin o => Sys2Proof.Machine.execQszFin o s
  | .cpy o => Sys2Proof.Machine.execCpy o s
  | .cpn o => Sys2Proof.Machine.execCpn o s
  | .cwait o => Sys2Proof.Machine.execCwait o s
  | .cstat o => Sys2Proof.Machine.execCstat o s
  | .cabort o => Sys2Proof.Machine.execCabort o s
  | .barr o => Sys2Proof.Machine.execBarr o s
  | .barw o => Sys2Proof.Machine.execBarw o s
  | .bari o => Sys2Proof.Machine.execBari o s
  | .wopen o => Sys2Proof.Machine.execWopen o s
  | .wclose o => Sys2Proof.Machine.execWclose o s
  | .subsc o => Sys2Proof.Machine.execSubsc o s
  | .unsubsc o => Sys2Proof.Machine.execUnsubsc o s
  | .vwait o => Sys2Proof.Machine.execVwait o s
  | .kvref o => Sys2Proof.Machine.execKvref o s
  | .kvrefClaim o => Sys2Proof.Machine.execKvrefClaim o s
  | .kvunref o => Sys2Proof.Machine.execKvunref o s
  | .launch o => Sys2Proof.Machine.execLaunch o s
  | .accld o => Sys2Proof.Machine.execAccld o s
  | .accst o => Sys2Proof.Machine.execAccst o s
  | .tbw o => Sys2Proof.Machine.execTbw o s
  | .tba o => Sys2Proof.Machine.execTba o s
  | .sysr o => Sys2Proof.Machine.execSysr o s
  | .sysw o => Sys2Proof.Machine.execSysw o s
  | .eret g => Sys2Proof.Machine.execEret g s
  | .tlbiAll g => Sys2Proof.Machine.execTlbiAll g s
  | .tlbiAsid o => Sys2Proof.Machine.execTlbiAsid o s
  | .tlbiVa o => Sys2Proof.Machine.execTlbiVa o s
  | .cflush o => Sys2Proof.Machine.execCflush o s
  | .cflushAll g => Sys2Proof.Machine.execCflushAll g s
  | .cinval o => Sys2Proof.Machine.execCinval o s
  | .idle o => Sys2Proof.Machine.execIdle o s
  | .dbgrRd o => Sys2Proof.Machine.execDbgrRd o s
  | .dbgrWr o => Sys2Proof.Machine.execDbgrWr o s
  | .idleStep o => Sys2Proof.Machine.execIdleStep o s
  | .kadd o => Sys2Proof.Machine.execKadd o s
  | .ksub o => Sys2Proof.Machine.execKsub o s
  | .kmul o => Sys2Proof.Machine.execKmul o s
  | .kand o => Sys2Proof.Machine.execKand o s
  | .kor o => Sys2Proof.Machine.execKor o s
  | .kxor o => Sys2Proof.Machine.execKxor o s
  | .kshl o => Sys2Proof.Machine.execKshl o s
  | .kshr o => Sys2Proof.Machine.execKshr o s
  | .kmin o => Sys2Proof.Machine.execKmin o s
  | .kmax o => Sys2Proof.Machine.execKmax o s
  | .kaddi o => Sys2Proof.Machine.execKaddi o s
  | .kmovi o => Sys2Proof.Machine.execKmovi o s
  | .kcmp o => Sys2Proof.Machine.execKcmp o s
  | .ksel o => Sys2Proof.Machine.execKsel o s
  | .kld o => Sys2Proof.Machine.execKld o s
  | .kst o => Sys2Proof.Machine.execKst o s
  | .scfg o => Sys2Proof.Machine.execScfg o s
  | .sbase o => Sys2Proof.Machine.execSbase o s
  | .sadv o => Sys2Proof.Machine.execSadv o s
  | .sadvB o => Sys2Proof.Machine.execSadvB o s
  | .sgbt o => Sys2Proof.Machine.execSgbt o s
  | .sropeAdj o => Sys2Proof.Machine.execSropeAdj o s
  | .sropeHalf o => Sys2Proof.Machine.execSropeHalf o s
  | .sropeOff o => Sys2Proof.Machine.execSropeOff o s
  | .cbi o => Sys2Proof.Machine.execCbi o s
  | .cbw o => Sys2Proof.Machine.execCbw o s
  | .cbf o => Sys2Proof.Machine.execCbf o s
  | .cbaF o => Sys2Proof.Machine.execCbaF o s
  | .cbaE o => Sys2Proof.Machine.execCbaE o s
  | .sscale o => Sys2Proof.Machine.execSscale o s
  | .smask o => Sys2Proof.Machine.execSmask o s
  | .xpush o => Sys2Proof.Machine.execXpush o s
  | .xswap w => Sys2Proof.Machine.execXswap w s
  | .xshift o => Sys2Proof.Machine.execXshift o s
  | .xacc o => Sys2Proof.Machine.execXacc o s
  | .xdrain o => Sys2Proof.Machine.execXdrain o s
  | .xmask o => Sys2Proof.Machine.execXmask o s
  | .xmode o => Sys2Proof.Machine.execXmode o s
  | .yadd o => Sys2Proof.Machine.execYadd o s
  | .ymul o => Sys2Proof.Machine.execYmul o s
  | .yrsc o => Sys2Proof.Machine.execYrsc o s
  | .yexp o => Sys2Proof.Machine.execYexp o s
  | .yrmax o => Sys2Proof.Machine.execYrmax o s
  | .yrsum o => Sys2Proof.Machine.execYrsum o s
  | .ymov o => Sys2Proof.Machine.execYmov o s
  | .ycvt o => Sys2Proof.Machine.execYcvt o s
  | .ytr o => Sys2Proof.Machine.execYtr o s
  | .smst o => Sys2Proof.Machine.execSmst o s
  | .smrg o => Sys2Proof.Machine.execSmrg o s
  | .ybarArv o => Sys2Proof.Machine.execYbarArv o s
  | .ybarWt o => Sys2Proof.Machine.execYbarWt o s
  | .ccpy o => Sys2Proof.Machine.execCcpy o s
  | .ccpn o => Sys2Proof.Machine.execCcpn o s
  | .ccpnRing o => Sys2Proof.Machine.execCcpnRing o s
  | .cgath o => Sys2Proof.Machine.execCgath o s
  | .cscat o => Sys2Proof.Machine.execCscat o s
  | .ccwt o => Sys2Proof.Machine.execCcwt o s
  | .fbr o => Sys2Proof.Machine.execFbr o s
  | .fjmp o => Sys2Proof.Machine.execFjmp o s
  | .fjmpIndirect o => Sys2Proof.Machine.execFjmpIndirect o s
  | .fcall o => Sys2Proof.Machine.execFcall o s
  | .fret o => Sys2Proof.Machine.execFret o s
  | .floop o => Sys2Proof.Machine.execFloop o s
  | .gret q => Sys2Proof.Machine.execGret q s
  | .ftrap o => Sys2Proof.Machine.execFtrap o s
  | .fbrk o => Sys2Proof.Machine.execFbrk o s
  | .ffence o => Sys2Proof.Machine.execFfence o s
  | .fwait o => Sys2Proof.Machine.execFwait o s
  | .resultLanding core cx => Sys2Proof.Machine.execResultLanding core cx s
  | .streamReadReturn core cx => Sys2Proof.Machine.execStreamReadReturn core cx s
  | .ringWaitSatisfied core cx => Sys2Proof.Machine.execRingWaitSatisfied core cx s
  | .copyWaitSatisfied core cx => Sys2Proof.Machine.execCopyWaitSatisfied core cx s
  | .tileBarrierWaitSatisfied core cx => Sys2Proof.Machine.execTileBarrierWaitSatisfied core cx s
  | .tileBarrierArrival core cx => Sys2Proof.Machine.execTileBarrierArrival core cx s
  | .tbwWake blk tile => Sys2Proof.Machine.execTbwWake blk tile s
  | .commandAcceptAfterBackpressure core ch => Sys2Proof.Machine.execCommandAcceptAfterBackpressure core ch s
  | .drainPoint core cx => Sys2Proof.Machine.execDrainPoint core cx s
  | .basinAgeExpiry blk clu addr => Sys2Proof.Machine.execBasinAgeExpiry blk clu addr s
  | .memoryResultReturn blk tid => Sys2Proof.Machine.execMemoryResultReturn blk tid s
  | .memWaitWake blk tid => Sys2Proof.Machine.execMemWaitWake blk tid s
  | .memWaitTimeout blk tid => Sys2Proof.Machine.execMemWaitTimeout blk tid s
  | .vwaitWake blk tid => Sys2Proof.Machine.execVwaitWake blk tid s
  | .vwaitTimeout blk tid => Sys2Proof.Machine.execVwaitTimeout blk tid s
  | .idleWake blk tid => Sys2Proof.Machine.execIdleWake blk tid s
  | .idleTimeout blk tid => Sys2Proof.Machine.execIdleTimeout blk tid s
  | .queueWaitWake blk tid => Sys2Proof.Machine.execQueueWaitWake blk tid s
  | .cwaitWake blk tid => Sys2Proof.Machine.execCwaitWake blk tid s
  | .rootBroadcast cluster n => Sys2Proof.Machine.execRootBroadcast cluster n s
  | .barwWake blk tid => Sys2Proof.Machine.execBarwWake blk tid s
  | .gatherBlock core ch id => Sys2Proof.Machine.execGatherBlock core ch id s
  | .copyCommandComplete core ch id => Sys2Proof.Machine.execCopyCommandComplete core ch id s
  | .commandFault core ch id => Sys2Proof.Machine.execCommandFault core ch id s
  | .blockPreempt blk => Sys2Proof.Machine.execBlockPreempt blk s
  | .dpboundExpiry blk => Sys2Proof.Machine.execDpboundExpiry blk s
  | .launchQueueTailWrite q tail => Sys2Proof.Machine.execLaunchQueueTailWrite q tail s
  | .launchAccept q => Sys2Proof.Machine.execLaunchAccept q s
  | .launchWaitPoll l => Sys2Proof.Machine.execLaunchWaitPoll l s
  | .blockResidency l lin => Sys2Proof.Machine.execBlockResidency l lin s
  | .blockRetire blk => Sys2Proof.Machine.execBlockRetire blk s
  | .parkWake line => Sys2Proof.Machine.execParkWake line s
  | .parkMonitorFreed die => Sys2Proof.Machine.execParkMonitorFreed die s
  | .l1EvictionWriteback core line => Sys2Proof.Machine.execL1EvictionWriteback core line s
  | .shootdownComplete blk tid => Sys2Proof.Machine.execShootdownComplete blk tid s
  | .walkAccept die => Sys2Proof.Machine.execWalkAccept die s
  | .walkRestart die slot => Sys2Proof.Machine.execWalkRestart die slot s
  | .walkComplete die slot => Sys2Proof.Machine.execWalkComplete die slot s
  | .accessCountApply => Sys2Proof.Machine.execAccessCountApply s
  | .faultRecordPost => Sys2Proof.Machine.execFaultRecordPost s
  | .faultQueueRetry => Sys2Proof.Machine.execFaultQueueRetry s
  | .ctxstLoadedWrite slot v => Sys2Proof.Machine.execCtxstLoadedWrite slot v s
  | .ctxstKillWrite slot => Sys2Proof.Machine.execCtxstKillWrite slot s
  | .killComplete slot => Sys2Proof.Machine.execKillComplete slot s
  | .walkstkWrite slot v => Sys2Proof.Machine.execWalkstkWrite slot v s
  | .fqbaseWrite v => Sys2Proof.Machine.execFqbaseWrite v s
  | .xtrigHreqWrite slot => Sys2Proof.Machine.execXtrigHreqWrite slot s
  | .xtrigRreqWrite slot => Sys2Proof.Machine.execXtrigRreqWrite slot s
  | .breakpointHit blk tid tile => Sys2Proof.Machine.execBreakpointHit blk tid tile s
  | .haltComplete slot => Sys2Proof.Machine.execHaltComplete slot s
  | .nostopTimeout blk tid => Sys2Proof.Machine.execNostopTimeout blk tid s
  | .trctlWrite slot v => Sys2Proof.Machine.execTrctlWrite slot v s
  | .traceSample slot core unit => Sys2Proof.Machine.execTraceSample slot core unit s
  | .hostRegisterWrite off v => Sys2Proof.Machine.execHostRegisterWrite off v s
  | .hostBar2Write addr n v => Sys2Proof.Machine.execHostBar2Write addr n v s
  | .hostBar2Read addr n => Sys2Proof.Machine.execHostBar2Read addr n s
  | .capabilityApply id => Sys2Proof.Machine.execCapabilityApply id s
  | .castWriteFlit handle off data => Sys2Proof.Machine.execCastWriteFlit handle off data s
  | .versionAdvanceFlit handle v => Sys2Proof.Machine.execVersionAdvanceFlit handle v s
  | .remoteAccessRequestFlit port kind pa data => Sys2Proof.Machine.execRemoteAccessRequestFlit port kind pa data s
  | .responseFlit id data => Sys2Proof.Machine.execResponseFlit id data s
  | .heartbeatFlit port => Sys2Proof.Machine.execHeartbeatFlit port s
  | .heartbeatTimer => Sys2Proof.Machine.execHeartbeatTimer s
  | .portDown port => Sys2Proof.Machine.execPortDown port s
  | .accessTimeout id => Sys2Proof.Machine.execAccessTimeout id s
  | .deviceReset => Sys2Proof.Machine.execDeviceReset s
  | .bootVerifyComplete => Sys2Proof.Machine.execBootVerifyComplete s
  | .doorbell => Sys2Proof.Machine.execDoorbell s
  | .fusedSvnRaise => Sys2Proof.Machine.execFusedSvnRaise s
  | .attestationRequest nonce => Sys2Proof.Machine.execAttestationRequest nonce s
  | .thermalThrottle => Sys2Proof.Machine.execThermalThrottle s
  | .thermalShutdown => Sys2Proof.Machine.execThermalShutdown s
  | .writeAcknowledgedAtHome blk tid => Sys2Proof.Machine.execWriteAcknowledgedAtHome blk tid s
  | .preemptResidencyExpiry l => Sys2Proof.Machine.execPreemptResidencyExpiry l s
  | .ageWrite slot v => Sys2Proof.Machine.execAgeWrite slot v s
  | .pstatWrite blk tid v => Sys2Proof.Machine.execPstatWrite blk tid v s
  | .waitRemoteReread blk tid => Sys2Proof.Machine.execWaitRemoteReread blk tid s

end Sys2Proof.Machine
end

