-- ==== Sys2Proof/Machine/Agenda.lean ====
section
/-! DEFINITION. Which agent of the device moves next (log 3), what its turn does, and how a test places one instruction where the
next turn fetches it (log 20). -/

namespace Sys2Proof.Machine

open Host (Outcome)

/-- A barge can be selected (R37, R303): it has a lane to issue, nothing stops it, and neither a pending result nor a release holds its next
instruction. -/
def State.bargeReady (s : State) (blk key : Nat) : Bool :=
  (s.block blk).any fun b =>
    b.issues && (b.stallOf key).isNone && !(s.ctx b.slot).stops b blk key && (b.threads.any fun t => t.barge == key && t.status == .active) &&
    (s.heldClass b blk key).isNone
/-- The barge that each lane cluster of a core selects (R303). -/
def State.bargeTurns (s : State) (core : Nat) : List Turn :=
  (List.range 8).filterMap fun clu => (s.nextBarge core clu s.bargeReady).map fun x => .barge x.1 x.2
/-- The tile context of a block that is running its lock (R52). -/
def Block.tileTurns (b : Block) : List Turn :=
  match b.cx with
  | some cx => if b.inLock then [.tile b.core cx] else []
  | none => []
/-- The turns of lane clusters, core by core, and of tile contexts. -/
def State.issueTurns (s : State) : List Turn :=
  ((s.blocks.filterMap fun e => e.2.map (·.core)).dedup.flatMap s.bargeTurns) ++
  s.blocks.flatMap fun e => match e.2 with
    | some b => b.tileTurns
    | none => []

/-- An event that the device's own units bring about, named as the instruction of the opcode table that says what it does (log 3). -/
inductive Own where
  /-- STREAM_READ_RETURN (R158). -/
  | streamReadReturn (core : Nat) (cx : Nat)
  /-- RING_WAIT_SATISFIED (R170). -/
  | ringWaitSatisfied (core : Nat) (cx : Nat)
  /-- COPY_WAIT_SATISFIED (R281). -/
  | copyWaitSatisfied (core : Nat) (cx : Nat)
  /-- TILE_BARRIER_WAIT_SATISFIED (R183). -/
  | tileBarrierWaitSatisfied (core : Nat) (cx : Nat)
  /-- TILE_BARRIER_ARRIVAL (R183). -/
  | tileBarrierArrival (core : Nat) (cx : Nat)
  /-- TBW_WAKE (R209). -/
  | tbwWake (blk : Nat) (tile : Nat)
  /-- COMMAND_ACCEPT_AFTER_BACKPRESSURE (R269). -/
  | commandAcceptAfterBackpressure (core : Nat) (ch : Nat)
  /-- DRAIN_POINT (R54). -/
  | drainPoint (core : Nat) (cx : Nat)
  /-- BASIN_AGE_EXPIRY (R40). -/
  | basinAgeExpiry (blk : Nat) (clu : Nat) (addr : Addr)
  /-- MEMORY_RESULT_RETURN (R109). -/
  | memoryResultReturn (blk : Nat) (tid : Nat)
  /-- MEM_WAIT_WAKE (R265). -/
  | memWaitWake (blk : Nat) (tid : Nat)
  /-- MEM_WAIT_TIMEOUT (R265). -/
  | memWaitTimeout (blk : Nat) (tid : Nat)
  /-- VWAIT_WAKE (R287). -/
  | vwaitWake (blk : Nat) (tid : Nat)
  /-- VWAIT_TIMEOUT (R287). -/
  | vwaitTimeout (blk : Nat) (tid : Nat)
  /-- IDLE_WAKE (R358). -/
  | idleWake (blk : Nat) (tid : Nat)
  /-- IDLE_TIMEOUT (R358). -/
  | idleTimeout (blk : Nat) (tid : Nat)
  /-- QUEUE_WAIT_WAKE (R267). -/
  | queueWaitWake (blk : Nat) (tid : Nat)
  /-- CWAIT_WAKE (R277). -/
  | cwaitWake (blk : Nat) (tid : Nat)
  /-- ROOT_BROADCAST (R284). -/
  | rootBroadcast (cluster : Nat) (n : Nat)
  /-- BARW_WAKE (R283). -/
  | barwWake (blk : Nat) (tid : Nat)
  /-- GATHER_BLOCK (R203). -/
  | gatherBlock (core : Nat) (ch : Nat) (id : W32)
  /-- COPY_COMMAND_COMPLETE (R272). -/
  | copyCommandComplete (core : Nat) (ch : Nat) (id : W32)
  /-- COMMAND_FAULT (R271). -/
  | commandFault (core : Nat) (ch : Nat) (id : W32)
  /-- BLOCK_PREEMPT (R55). -/
  | blockPreempt (blk : Nat)
  /-- DPBOUND_EXPIRY (R55). -/
  | dpboundExpiry (blk : Nat)
  /-- LAUNCH_ACCEPT (R295). -/
  | launchAccept (q : Nat)
  /-- LAUNCH_WAIT_POLL (R297). -/
  | launchWaitPoll (l : Nat)
  /-- BLOCK_RESIDENCY (R299). -/
  | blockResidency (l : Nat) (lin : Nat)
  /-- BLOCK_RETIRE (R58). -/
  | blockRetire (blk : Nat)
  /-- PARK_WAKE (R331). -/
  | parkWake (line : Nat)
  /-- PARK_MONITOR_FREED (R330). -/
  | parkMonitorFreed (die : Nat)
  /-- SHOOTDOWN_COMPLETE (R335). -/
  | shootdownComplete (blk : Nat) (tid : Nat)
  /-- WALK_ACCEPT (R251). -/
  | walkAccept (die : Nat)
  /-- WALK_RESTART (R252). -/
  | walkRestart (die : Nat) (slot : Nat)
  /-- WALK_COMPLETE (R252). -/
  | walkComplete (die : Nat) (slot : Nat)
  /-- ACCESS_COUNT_APPLY (R337). -/
  | accessCountApply
  /-- FAULT_RECORD_POST (R339). -/
  | faultRecordPost
  /-- KILL_COMPLETE (R380). -/
  | killComplete (slot : Nat)
  /-- HALT_COMPLETE (R393). -/
  | haltComplete (slot : Nat)
  /-- NOSTOP_TIMEOUT (R394). -/
  | nostopTimeout (blk : Nat) (tid : Nat)
  /-- PORT_DOWN (R411). -/
  | portDown (port : Nat)
  /-- ACCESS_TIMEOUT (R366). -/
  | accessTimeout (id : Nat)
  /-- BOOT_VERIFY_COMPLETE (R414). -/
  | bootVerifyComplete
  /-- TRACE_SAMPLE (R397). -/
  | traceSample (slot core unit : Nat)
  /-- THERMAL_THROTTLE (R416). -/
  | thermalThrottle
  /-- THERMAL_SHUTDOWN (R416). -/
  | thermalShutdown
  /-- WRITE_ACKNOWLEDGED_AT_HOME (R264). -/
  | writeAcknowledgedAtHome (blk : Nat) (tid : Nat)
  /-- PREEMPT_RESIDENCY_EXPIRY (R301). -/
  | preemptResidencyExpiry (l : Nat)
  /-- WAIT_REMOTE_REREAD (R265). -/
  | waitRemoteReread (blk : Nat) (tid : Nat)
  /-- CAST_WRITE_FLIT (R287), in this device's own copies. -/
  | castWriteFlit (handle : W32) (off : Nat) (data : List Byte)
  /-- VERSION_ADVANCE_FLIT (R238), in this device's own copies. -/
  | versionAdvanceFlit (handle v : W32)
  deriving DecidableEq, Repr
/-- What an event of the device's own does. -/
def Own.run (o : Own) (s : State) : Outcome State Fault Refusal :=
  match o with
  | .streamReadReturn core cx => execStreamReadReturn core cx s
  | .ringWaitSatisfied core cx => execRingWaitSatisfied core cx s
  | .copyWaitSatisfied core cx => execCopyWaitSatisfied core cx s
  | .tileBarrierWaitSatisfied core cx => execTileBarrierWaitSatisfied core cx s
  | .tileBarrierArrival core cx => execTileBarrierArrival core cx s
  | .tbwWake blk tile => execTbwWake blk tile s
  | .commandAcceptAfterBackpressure core ch => execCommandAcceptAfterBackpressure core ch s
  | .drainPoint core cx => execDrainPoint core cx s
  | .basinAgeExpiry blk clu addr => execBasinAgeExpiry blk clu addr s
  | .memoryResultReturn blk tid => execMemoryResultReturn blk tid s
  | .memWaitWake blk tid => execMemWaitWake blk tid s
  | .memWaitTimeout blk tid => execMemWaitTimeout blk tid s
  | .vwaitWake blk tid => execVwaitWake blk tid s
  | .vwaitTimeout blk tid => execVwaitTimeout blk tid s
  | .idleWake blk tid => execIdleWake blk tid s
  | .idleTimeout blk tid => execIdleTimeout blk tid s
  | .queueWaitWake blk tid => execQueueWaitWake blk tid s
  | .cwaitWake blk tid => execCwaitWake blk tid s
  | .rootBroadcast cluster n => execRootBroadcast cluster n s
  | .barwWake blk tid => execBarwWake blk tid s
  | .gatherBlock core ch id => execGatherBlock core ch id s
  | .copyCommandComplete core ch id => execCopyCommandComplete core ch id s
  | .commandFault core ch id => execCommandFault core ch id s
  | .blockPreempt blk => execBlockPreempt blk s
  | .dpboundExpiry blk => execDpboundExpiry blk s
  | .launchAccept q => execLaunchAccept q s
  | .launchWaitPoll l => execLaunchWaitPoll l s
  | .blockResidency l lin => execBlockResidency l lin s
  | .blockRetire blk => execBlockRetire blk s
  | .parkWake line => execParkWake line s
  | .parkMonitorFreed die => execParkMonitorFreed die s
  | .shootdownComplete blk tid => execShootdownComplete blk tid s
  | .walkAccept die => execWalkAccept die s
  | .walkRestart die slot => execWalkRestart die slot s
  | .walkComplete die slot => execWalkComplete die slot s
  | .accessCountApply => execAccessCountApply s
  | .faultRecordPost => execFaultRecordPost s
  | .killComplete slot => execKillComplete slot s
  | .haltComplete slot => execHaltComplete slot s
  | .nostopTimeout blk tid => execNostopTimeout blk tid s
  | .portDown port => execPortDown port s
  | .accessTimeout id => execAccessTimeout id s
  | .bootVerifyComplete => execBootVerifyComplete s
  | .traceSample slot core unit => execTraceSample slot core unit s
  | .thermalThrottle => execThermalThrottle s
  | .thermalShutdown => execThermalShutdown s
  | .writeAcknowledgedAtHome blk tid => execWriteAcknowledgedAtHome blk tid s
  | .preemptResidencyExpiry l => execPreemptResidencyExpiry l s
  | .waitRemoteReread blk tid => execWaitRemoteReread blk tid s
  | .castWriteFlit handle off data => execCastWriteFlit handle off data s
  | .versionAdvanceFlit handle v => execVersionAdvanceFlit handle v s

/-- The end that a waiting thread looks for. -/
def Status.turns (blk tid : Nat) (x : Status) : List Own :=
  match x with
  | .waiting (.barw _ _) => [.barwWake blk tid]
  | .waiting (.mem _ _ _) => [.memWaitWake blk tid, .memWaitTimeout blk tid, .waitRemoteReread blk tid]
  | .waiting (.vwait _ _) => [.vwaitWake blk tid, .vwaitTimeout blk tid]
  | .waiting (.queue _ _ _) => [.queueWaitWake blk tid]
  | .waiting (.cwait _ _) => [.cwaitWake blk tid]
  | .waiting (.idle _) => [.idleWake blk tid, .idleTimeout blk tid]
  | .waiting (.tileBar tile) => [.tbwWake blk tile]
  | .waiting (.tba tile) => [.tbwWake blk tile]
  | .waiting .bar | .waiting .rejoin | .waiting .gate | .waiting (.basin _ _ _) => []
  | .stalled .fence => [.writeAcknowledgedAtHome blk tid]
  | .stalled .tlbi => [.shootdownComplete blk tid]
  | .stalled (.park l full) => l.map .parkWake ++ full.toList.map .parkMonitorFreed
  | .stalled (.parkNoMonitor d) => [.parkMonitorFreed d]
  | .stalled (.channel _) | .stalled .pub | .stalled (.remote _) => []
  | .active | .asleep | .exited => []
/-- The end that a waiting tile context of a block looks for. -/
def TileWait.turns (blk core cx : Nat) (x : TileWait) : List Own :=
  match x with
  | .ring => [.ringWaitSatisfied core cx]
  | .tileBar => [.tileBarrierArrival core cx, .tileBarrierWaitSatisfied core cx]
  | .copy => [.copyWaitSatisfied core cx]
  | .drain => [.drainPoint core cx]
  | .memRead => [.streamReadReturn core cx]
  | .fence | .leaving => [.writeAcknowledgedAtHome blk 0]
  | .channel ch => [.commandAcceptAfterBackpressure core ch]
  | .park l => [.parkWake l]
  | .parkNoMonitor d => [.parkMonitorFreed d]
  | .remote _ | .granted _ => []
/-- What is due in a block: the ends of its waits, results, pre-emption, retirement. -/
def Block.turns (blk : Nat) (b : Block) : List Own :=
  (b.threads.zipIdx.flatMap fun x =>
    x.1.status.turns blk x.2 ++ (if x.1.pend = [] then [] else [.memoryResultReturn blk x.2]) ++
    (match x.1.basin? with | some (k, _, _) => [.basinAgeExpiry blk (b.clusterOf x.2) k] | none => [])) ++
  (match b.cx, b.tile.wait with | some cx, some w => w.turns blk b.core cx | _, _ => []) ++
  (if b.preempt.isSome then [.blockPreempt blk, .dpboundExpiry blk] else []) ++
  (if b.life == .draining then [.blockRetire blk] else [])
/-- What is due on a core: its channels' commands, and the next block of the dispatcher. -/
def State.coreTurns (s : State) (core : Nat) : List Own :=
  ((s.core core).chans.flatMap fun e => .commandAcceptAfterBackpressure core e.1 :: e.2.cmds.flatMap fun m =>
    [.gatherBlock core e.1 m.id, .copyCommandComplete core e.1 m.id, .commandFault core e.1 m.id] ++
    (match m.parked with | some l => [.parkWake l] | none => [])) ++
  ((s.core core).leaves.filterMap fun e => if e.2.reported then some (.rootBroadcast (core / 8) e.1) else none) ++
  (match s.choice core with | some x => [.blockResidency x.1 x.2] | none => [])
/-- The samples of a context slot that are due (R397). -/
def State.sampleTurns (s : State) (slot : Nat) : List Own :=
  if !(s.ctx slot).traces 1 && !(s.ctx slot).traces 2 then []
  else (List.range 384).flatMap fun core => (List.range 10).filterMap fun unit =>
    if s.sampleDue slot core unit && s.unitRuns slot core unit then some (.traceSample slot core unit) else none
/-- What is due of the device's own units (log 3). -/
def State.ownTurns (s : State) : List Own :=
  (if s.bootPending then [.bootVerifyComplete] else []) ++
  (s.blocks.flatMap fun e => match e.2 with | some b => b.turns e.1 | none => []) ++
  ((List.range 384).flatMap s.coreTurns) ++
  (s.queues.filterMap fun e => if e.2.en && e.2.count != 0 then some (.launchAccept e.1) else none) ++
  (s.launches.flatMap fun e => match e.2 with
    | some x => (if x.released then [.preemptResidencyExpiry e.1] else [.launchWaitPoll e.1]) ++
                (if x.waitsWhole then [.blockResidency e.1 0] else [])
    | none => []) ++
  (s.dies.flatMap fun e => (if e.2.walkQueue = [] then [] else [.walkAccept e.1]) ++
    e.2.walks.flatMap fun w => match w.2 with
      | some x => [if x.ready && x.wounded.isNone then .walkComplete e.1 w.1 else .walkRestart e.1 w.1] ++ (match x.parked with | some l => [.parkWake l] | none => [])
      | none => []) ++
  (if s.counts = [] then [] else [.accessCountApply]) ++
  (if s.faultWait = [] then [] else [.faultRecordPost]) ++
  (s.ctxs.flatMap fun e => (if e.2.killing then [.killComplete e.1] else []) ++
    (if e.2.halt.isSome then .haltComplete e.1 :: s.blocks.flatMap (fun x => match x.2 with
      | some b => b.threads.zipIdx.filterMap fun t => if t.1.noStop && b.slot == e.1 then some (.nostopTimeout x.1 t.2) else none
      | none => []) else []) ++ s.sampleTurns e.1) ++
  (if s.sensors.hot 115 then [.thermalShutdown] else []) ++ (if s.mustThrottle && !s.throttled then [.thermalThrottle] else []) ++
  (s.ports.filterMap fun e => if e.2.up && 4 ≤ e.2.missed then some (.portDown e.1) else none) ++
  (s.remotes.filterMap fun r => if !r.done && !r.failed then some (.accessTimeout r.id) else none) ++
  (s.parks.filterMap fun e => match e.2 with | some (a, true) => some (.parkWake (a / 128)) | _ => none) ++
  s.casting.filterMap fun x => match x with
    | .castWrite h off data => some (.castWriteFlit h off data)
    | .version h v => some (.versionAdvanceFlit h v)
    | .request _ _ _ | .response _ _ _ | .heartbeat _ | .subscribe _ | .unsubscribe _ => none

/-- A turn that is due: one of the agenda's or of the issue stages, or an event of the device's own. -/
inductive Due where
  | turn (t : Turn)
  | own (o : Own)
  deriving DecidableEq, Repr
/-- The turn that is due: the agenda's first, or, with an empty agenda, the next of the device's own in round-robin order. Every barge has its
slot (R303). -/
def State.pickTurn (s : State) : Option Due × State :=
  match s.agenda with
  | t :: l => (some (.turn t), { s.slotBarges with agenda := l })
  | [] =>
    let s := s.slotBarges
    let l := s.issueTurns.map .turn ++ s.ownTurns.map .own
    (l[s.rr % l.length]?, { s with rr := s.rr + 1 })

/-- The unit whose turn it is, as its cycles are charged: its core, and its lane cluster or context (R309, R310). -/
def State.movingUnit (s : State) (t : Option Due) : Option (Nat × Nat) :=
  match t with
  | some (.turn (.barge blk key)) => (s.block blk).map fun b => (b.core, b.bargeCluster key)
  | some (.turn (.tile core cx)) => some (core, 8 + cx)
  | some (.turn (.event _)) | some (.own _) | none => none
/-- Errors that ECC has corrected are counted, each by its die (R382). -/
def State.countEcc (s : State) : State :=
  if s.corrected = [] then s
  else s.corrected.foldl (fun (s : State) d => s.modDie d fun x => { x with ecc := x.ecc + 1#64 }) { s with corrected := [] }
/-- What the sensors read in a turn (R416, log 90). -/
def sensorsAt (n : Nat) : Sensors :=
  { power := Config.power n, junction := (List.range 4).map (Config.junction n), inlet := Config.inlet n, outlet := Config.outlet n }
/-- Time passes before a turn (R15): one cycle, and any number more (log 4), charged to the units (R309-R311), and the sensors read anew. The cycle
of the unit whose turn it is is charged by what it does. -/
def State.tick (s : State) (t : Option Due) : State :=
  let s1 := s.countEcc.passTime (Config.cycles s.turn) (s.movingUnit t)
  { s1 with clock := s1.clock + 1 + Config.cycles s.turn, turn := s1.turn + 1, sensors := sensorsAt s.turn }

/-- A turn of the module while it is shut down (R416): only a device reset has an effect. -/
def offTurn (t : Option Due) (s : State) : Outcome State Fault Refusal :=
  match t with
  | some (.turn (.event .deviceReset)) => exec .deviceReset s
  | _ => .fault .shutDown

/-- What a turn does: a barge instruction, a bundle, or an event. With nothing to do, time passes. -/
def runTurn (t : Option Due) (s : State) : Outcome State Fault Refusal :=
  if s.off then offTurn t s
  else
    match t with
    | none => .next s
    | some (.turn (.barge blk key)) => issueBarge exec blk key s
    | some (.turn (.tile core cx)) => issueTile exec core cx s
    | some (.turn (.event i)) => exec i s
    | some (.own o) => o.run s

/-! ### Placing one instruction -/

/-- The page tables of a placed program (R323): three pointer tables, and one leaf that maps the first 64 MiB onto itself with every
permission. -/
def programTables (m : Memory) : Memory :=
  let w (m : Memory) (a v : Nat) : Memory := writeBytes m a (leBytes 8 v)
  w (w (w m 0x10000 0x20003) 0x20000 0x30003) 0x30000 0x103F
/-- The address of a placed program. -/
def programBase : Nat := 0x40000
/-- The block that runs a placed program: block `blk` of 16 threads on core 0 in context slot 0, with 256 registers, every tile, and
the primary context; a slot word finds it in its lock. -/
def programBlock (locked : Bool) : Block :=
  let base : Addr := BitVec.ofNat 56 programBase
  { launch := 0, lin := 0, bid := [0#32, 0#32, 0#32, 0#32], core := 0, lc := 0, slot := 0, owner := 0#19, life := .running, bsize := 16, nregs := 256,
    scrOff := 0, scrLen := 524288, accTiles := 64, cx := some 0, correction := false, tag := 0#16, serves := none, prio := 0, cosched := false,
    det := false, windows := [], gate := if locked then some base else none, gateOps := (0#8, 0#8, 0#8), inLock := locked, killed := false,
    preempt := none, since := 0, saved := false, savedLong := false, nextBarge := 64, nextFile := 0, nextCmd := 0, ringHold := [], syncs := [],
    threads := (List.range 16).map fun tid =>
      { Thread.fresh base tid with status := if locked then .asleep else .active },
    tile := { Tile.fresh with baddr := base }, freeze := none, stoppedFrom := none }
/-- A header that names one slot (R69), DP as given, neither scoped nor held. -/
def oneSlotHeader (n : Nat) (dp : Bool) : Nat := 2 ^ (31 - n) + (if dp then 2 ^ 23 else 0)
/-- The slot number of the first slot of a class (R69). -/
def firstSlot (k : SlotClass) : Nat :=
  match k with
  | .s => 0
  | .m => 2
  | .x => 4
  | .y => 5
  | .c => 6
  | .f => 7
/-- A word is a `gret`, which stands in a bundle with DP set (R54, R184). -/
def isGret (x : W32) : Bool :=
  match decodeSlot .f x with
  | .ok (.gret _) => true
  | _ => false
/-- The bytes of a placed instruction: a thread word, a header with no slots, or a header and one slot word. -/
def programBytes (nbits w : Nat) : List Byte :=
  if nbits = 64 then leBytes 8 w
  else
    let x : W32 := BitVec.ofNat 32 w
    match decodeEnc (.header x) with
    | .ok _ => leBytes 4 w
    | .error _ =>
      match classOf x with
      | none => leBytes 4 w
      | some k => leBytes 4 (oneSlotHeader (firstSlot k) (isGret x)) ++ leBytes 4 w
/-- A program of one instruction placed where the next turn fetches it (log 20): page tables, code, a block that is running it, and
its turn on the agenda. -/
def State.program (s : State) (nbits w : Nat) : State :=
  let locked := nbits ≠ 64
  { (s.modCtx 0 fun c => { c with ptroot := 0x10000#64, loaded := true }) with
    mem := writeBytes (programTables s.mem) programBase (programBytes nbits w)
    blocks := Tbl.insert s.nextBlock (some (programBlock locked)) s.blocks
    nextBlock := s.nextBlock + 1
    agenda := (if locked then .tile 0 0 else .barge s.nextBlock 0) :: s.agenda }

end Sys2Proof.Machine
end

