-- ==== Sys2Proof/Machine/Step.lean ====
section
/-! DEFINITION. One step of the device: one turn of one of its agents (log 3). -/

namespace Sys2Proof.Machine

/-- One step: time passes, and the agent whose turn it is moves. -/
def step (s : State) : Host.Outcome State Fault Refusal := runTurn s.pickTurn.1 (s.pickTurn.2.tick s.pickTurn.1)

/-- The state with an instruction of the opcode table placed where the next step fetches it (log 20). -/
def State.withFetchWord (s : State) (nbits w : Nat) : State := s.program nbits w

end Sys2Proof.Machine
end

