-- ==== Sys2Proof/Safety.lean ====
section
/-! DEFINITION. Safe runs, in the terms claims use: the canonical form that every step keeps, runs that never stop, and the words in
which the statements say what an instruction changes and what it leaves as it was. -/

namespace Sys2Proof.Safety

open Sys2Proof.Machine
open Host (Outcome)

/-- The canonical form of memory: addresses strictly rising, and no byte listed that reads as an unlisted one. -/
def MemoryCanonical (s : State) : Prop := s.mem.wf = true

/-- A run of n steps from a state goes on. -/
def runs (n : Nat) (s : State) : Prop :=
  match n with
  | 0 => True
  | n + 1 => ∃ t, step s = .next t ∧ runs n t

/-! ### What a thread instruction changes -/

/-- An instruction completes in a state of which P holds. -/
def Completes (i : Instr) (s : State) (P : State → Prop) : Prop := ∃ t, exec i s = .next t ∧ P t

/-- Every byte of memory reads as before. -/
def BytesKept (s t : State) : Prop := ∀ a, t.byte a = s.byte a
/-- Every byte of memory outside n bytes from a location reads as before. -/
def BytesKeptBut (s t : State) (loc n : Nat) : Prop := ∀ a, a < loc ∨ loc + n ≤ a → t.byte a = s.byte a
/-- Every byte reads at its home as before, that of a line private to a core where the core's L1 holds it (R220). -/
def HomeKept (s t : State) : Prop := ∀ a, t.homeBytes a 1 = s.homeBytes a 1
/-- Every field of the device but its blocks and the counter of undefined values is as before. -/
def DeviceKept (s t : State) : Prop := { t with blocks := s.blocks, free := s.free } = s ∧ BytesKept s t
/-- Every block but one is as before. -/
def OthersKept (s t : State) (blk : Nat) : Prop := ∀ n, n ≠ blk → t.block n = s.block n

/-- Of the issuing block only its threads change: an issued lane of which R says what becomes of it, and no other. -/
def LaneChange (s t : State) (R : Nat → Thread → Thread → Prop) : Prop :=
  ∀ b, s.block s.cur.blk = some b → ∃ c, t.block s.cur.blk = some c ∧ { c with threads := b.threads } = b ∧
    c.threads.length = b.threads.length ∧
    ∀ (tid : Nat) (x y : Thread), b.threads[tid]? = some x → c.threads[tid]? = some y →
      if tid ∈ s.cur.lanes then R tid x y else y = x
/-- The whole effect is on the issued lanes: R for those whose guard reads true, the next instruction for the others. -/
def LanesOnly (s t : State) (g : Guard) (R : Nat → Thread → Thread → Prop) : Prop :=
  DeviceKept s t ∧ OthersKept s t s.cur.blk ∧
  LaneChange s t fun tid x y => if x.guard g then R tid x y else y = x.advance

/-- The thread goes to the next instruction, and of its registers only those from d, as many as the list is long, change: they hold
the list. -/
def Writes (d : Nat) (l : List W32) (x y : Thread) : Prop :=
  y.pc = x.pc + 8#56 ∧ (∀ i, i < l.length → y.get (d + i) = l.getD i 0#32) ∧
  (∀ r, r < d ∨ d + l.length ≤ r → y.get r = x.get r) ∧ { y with regs := x.regs, pc := x.pc } = x
/-- The same for one register, with the flags merged and `$amax` as given. -/
def WritesFloat (d : Nat) (v : W32) (fl : Flags) (am : W32) (x y : Thread) : Prop :=
  y.pc = x.pc + 8#56 ∧ y.get d = v ∧ (∀ r, r ≠ d → y.get r = x.get r) ∧ y.flags = x.flags ||| fl ∧ y.amax = am ∧
  { y with regs := x.regs, pc := x.pc, flags := x.flags, amax := x.amax } = x
/-- The thread goes to the next instruction, and of its predicates only those of which `changed` holds change: they read as `v`. -/
def WritesPreds (changed : Pred → Prop) (v : Pred → Bool) (x y : Thread) : Prop :=
  y.pc = x.pc + 8#56 ∧ (∀ p, changed p → y.pred p = v p) ∧ (∀ p, ¬ changed p → y.pred p = x.pred p) ∧
  { y with preds := x.preds, pc := x.pc } = x
/-- A result t written to PD and, unless PE is 0, its complement to PE; p0 stays true, and with PD = PE the complement stands. -/
def WritesTest (pd pe : Pred) (t : Bool) (x y : Thread) : Prop :=
  WritesPreds (fun p => p ≠ 0#4 ∧ (p = pd ∨ p = pe)) (fun p => if p = pe then !t else t) x y
/-- A pair as two registers, the lower first. -/
def pair (v : W64) : List W32 := [v.setWidth 32, v.extractLsb' 32 32]
/-- Every field of a thread but its registers and its pc is as before. -/
def ThreadKept (x y : Thread) : Prop := { y with regs := x.regs, pc := x.pc } = x

/-! ### Float elements -/

/-- The elements of a register under a float type (05_thread_instructions.md R125): one, or two halves. -/
def elems (ty : FTy) (v : W32) : List Nat :=
  match ty with
  | .f32 => [v.toNat]
  | .h2f16 | .h2bf16 => [(v.extractLsb' 0 16).toNat, (v.extractLsb' 16 16).toNat]
/-- The format of those elements. -/
def elemFmt (ty : FTy) : Fmt :=
  match ty with
  | .f32 => fmtF32
  | .h2f16 => fmtF16
  | .h2bf16 => fmtBf16
/-- Element i of a register. -/
def elem (ty : FTy) (v : W32) (i : Nat) : Nat := (elems ty v).getD i 0
/-- An elementwise result: `rule i p fl` says that element i is the pattern p with the flags fl. -/
def Elementwise (ty : FTy) (d : Nat) (rule : Thread → Nat → Nat → Flags → Prop) (x y : Thread) : Prop :=
  ∃ (v : W32) (fl : Nat → Flags), (∀ i, i < (elems ty v).length → rule x i (elem ty v i) (fl i)) ∧
    WritesFloat d v (((List.range (elems ty v).length).map fl).foldl (· ||| ·) 0#5) x.amax x y

/-- An exact sum of terms, rounded once (04_number_formats.md R92, R97; 05_thread_instructions.md R125, R126, R128): an invalid
product is `none`, and `zero` is the sign of an exact zero sum. The result and the flags it sets. -/
def SumRuleWith (zero : Rm → List FVal → Bool) (F : Fmt) (m : Rm) (operands : List FVal) (terms : List (Option FVal)) (p : Nat)
    (fl : Flags) : Prop :=
  let sig := operands.any FVal.isSig
  if none ∈ terms then p = F.canonNan ∧ fl = fInvalid
  else if ∃ v ∈ operands, v.isNan then p = F.canonNan ∧ fl = if sig then fInvalid else 0#5
  else if some (.inf false) ∈ terms ∧ some (.inf true) ∈ terms then p = F.canonNan ∧ fl = fInvalid
  else if some (.inf false) ∈ terms then p = F.encode (.inf false) ∧ fl = 0#5
  else if some (.inf true) ∈ terms then p = F.encode (.inf true) ∧ fl = 0#5
  else
    let vs := terms.filterMap id
    let r := roundTo F m .sat (vs.map FVal.real).sum (zero m vs)
    p = F.encode r.1 ∧ fl = r.2
/-- The same with the sign of IEEE 754-2019 (R98): that of the terms where all have it, else minus under RDN alone. -/
def SumRule (F : Fmt) (m : Rm) (operands : List FVal) (terms : List (Option FVal)) (p : Nat) (fl : Flags) : Prop :=
  SumRuleWith (fun m vs => if vs.all FVal.neg then true else if vs.all fun v => !v.neg then false else m = .rdn) F m operands terms p fl
/-- The same with the sign of R128: minus where every term is -0, and under RDN. -/
def DotRule (F : Fmt) (m : Rm) (operands : List FVal) (terms : List (Option FVal)) (p : Nat) (fl : Flags) : Prop :=
  SumRuleWith (fun m vs => vs.all FVal.neg || m = .rdn) F m operands terms p fl
/-- The exact product of two operands; none for an infinity times a zero. -/
def product (a b : FVal) : Option FVal :=
  match a, b with
  | .nan _, _ => some (.nan false)
  | _, .nan _ => some (.nan false)
  | .inf n, .inf m => some (.inf (n != m))
  | .inf n, .fin m y => if y = 0 then none else some (.inf (n != m))
  | .fin n x, .inf m => if x = 0 then none else some (.inf (n != m))
  | .fin n x, .fin m y => some (.fin (n != m) (x * y))

/-! ### Checks of lanes, exceptions -/

/-- Every issued lane whose guard reads true passes a check. -/
def Passes (s : State) (g : Guard) (check : Nat → Thread → Prop) : Prop :=
  ∀ (tid : Nat) (x : Thread), tid ∈ s.active g → s.thread s.cur.blk tid = some x → check tid x
/-- The lanes `who` of the issuing block take an exception with a record, to resume at an address (17_faults_preemption.md R370). -/
def Takes (s t : State) (who : List Nat) (r : Rec) (rpc : Addr) : Prop := t = s.enterLanes s.cur.blk who r.bits rpc
/-- The same for a fault of the issuing instruction (R370, R366): its lanes take up no access to another device any more (log 12). -/
def Faults (s t : State) (who : List Nat) (r : Rec) (rpc : Addr) : Prop :=
  t = (s.abandon s.cur.blk s.cur.lanes.contains).enterLanes s.cur.blk who r.bits rpc
/-- The record of a fault of lanes of the issuing instruction with a code alone (R367). -/
def bareRec (s : State) (lanes : List Nat) (c : Code) : Rec := { s.threadRec lanes with code := c.num }
/-- Every thread keeps what is not named: a change of threads of any block, with the device as it was. -/
def ThreadsOnly (s t : State) (R : Nat → Nat → Thread → Thread → Prop) : Prop :=
  DeviceKept s t ∧ ∀ (n tid : Nat) (x : Thread), s.thread n tid = some x → ∃ y, t.thread n tid = some y ∧ R n tid x y

/-! ### Memory -/

/-- A result reaches the registers from d: at once, or as a pending result that returns later (05_thread_instructions.md R109). -/
def Delivers (d : Nat) (l : List W32) (fl : Flags) (load : Bool) (x y : Thread) : Prop :=
  (∃ z, Writes d l x z ∧ y = { z with flags := z.flags ||| fl }) ∨
  y = { x with pc := x.pc + 8#56, pend := x.pend ++ [{ dst := l.zipIdx.map fun v => (d + v.2, v.1), fl, load }] }
/-- The state once the accesses of the lanes of an instruction have used their translations (R329, R337): each lane's address, place and
bytes. Where a walk read memory, lines that an L1 held private are at their homes then (R220). -/
def Settled (s : State) (b : Block) (g : Guard) (va : Nat → Thread → Nat) (pl : Nat → Place) (n : Nat) : State :=
  s.settle b s.cur.blk ((s.actors g).map fun x => (va x.1 x.2, pl x.1, n))
/-- Memory is as it stands once the lanes have used their translations: where no walk read memory, as before. But for a trace record, which
only a context that traces stops writes. -/
def QuietBytes (s u t : State) (b : Block) (read : Prop) : Prop :=
  (s.ctx b.slot).traces 5 = false → BytesKept u t ∧ (¬ read → BytesKept s t)
/-- No block but the issuing one changes, of that only the threads, as R says; and memory as `QuietBytes` says. -/
def LanesOnlyQuiet (s u t : State) (b : Block) (g : Guard) (read : Prop) (R : Nat → Thread → Thread → Prop) : Prop :=
  OthersKept s t s.cur.blk ∧ LaneChange s t (fun tid x y => if x.guard g then R tid x y else y = x.advance) ∧ QuietBytes s u t b read
/-- A walk of one of the lanes read memory. -/
def SomeRead (s : State) (g : Guard) (pl : Nat → Place) : Prop := ∃ tid ∈ s.active g, (pl tid).read ≠ []
/-- Stores of lanes, one after another in order of `$lane`, each of bytes at a location (R151, R217, R245): those that `kept` marks stay in
the core's L1, to lines private to it, as every such store does while the L1 has room for its lines; the others are at their homes. -/
def StoresLand (u t : State) (core : Nat) (who : List Nat) (loc : Nat → Nat) (data : Nat → List Byte) : Prop :=
  let mine (tid : Nat) : Prop := l1May core (loc tid) = true ∧ u.ownedBy core (loc tid) = true
  ∃ kept : Nat → Bool, (∀ tid, kept tid = true → mine tid) ∧
    (((u.core core).l1.map (·.line)).Nodup → ((u.core core).l1.filter (·.dirty)).length + who.length ≤ l1Lines →
      ∀ tid ∈ who, mine tid → kept tid = true) ∧
    ∀ a, t.byte a = who.foldl (fun (v : Byte) tid =>
      if kept tid = false ∧ loc tid ≤ a ∧ a < loc tid + (data tid).length then (data tid).getD (a - loc tid) 0#8 else v) (u.byte a)
/-- The effective address of a thread access: the base pair plus a signed offset, modulo 2^64 (R62). -/
def effAddr (x : Thread) (a : Reg) (ofs : Int) : Nat := (((x.get64 a.toNat).toNat + ofs) % (2 ^ 64 : Nat)).toNat
/-- A little-endian pair of registers as a number. -/
def lePair (v : Nat) : List W32 := [BitVec.ofNat 32 v, BitVec.ofNat 32 (v / 2 ^ 32)]
/-- Every line that an L1 holds is whole: 128 bytes. -/
def L1LinesWhole (s : State) : Prop := ∀ c, ∀ l ∈ (s.core c).l1, l.data.length = 128
/-- The model's invariant: the canonical forms of memory and of the table of blocks, and whole lines in every L1. -/
def Invariant (s : State) : Prop := MemoryCanonical s ∧ L1LinesWhole s ∧ Tbl.wf none s.blocks = true
/-- Bytes of memory with n bytes of a number written at a location. -/
def written (m : Nat → Byte) (loc n v : Nat) : Nat → Byte :=
  fun a => if loc ≤ a ∧ a < loc + n then BitVec.ofNat 8 (v / 256 ^ (a - loc)) else m a
/-- Read-modify-writes of n bytes served one after another: the old value that each lane gets, and the bytes afterwards. Of a lane whose home
is not on this device, `ans` is the value that its home has answered. -/
def served (n : Nat) (new : Nat → Nat → Option Nat) (loc : Nat → Nat) (ans : Nat → Option Nat) :
    List Nat → (Nat → Byte) → (Nat → Nat) × (Nat → Byte)
  | [], m => (fun _ => 0, m)
  | tid :: l, m =>
    let here := leNat ((List.range n).map fun i => m (loc tid + i))
    let old := (ans tid).getD here
    let r := served n new loc ans l (if (ans tid).isSome then m else match new tid old with | none => m | some v => written m (loc tid) n v)
    (fun u => if u = tid then old else r.1 u, r.2)

/-! ### Parts of the device -/

/-- As `LaneChange`, where K says what else becomes of the issuing block. -/
def LaneChangeAnd (s t : State) (K : Block → Block → Prop) (R : Nat → Thread → Thread → Prop) : Prop :=
  ∀ b, s.block s.cur.blk = some b → ∃ c, t.block s.cur.blk = some c ∧ K b c ∧ c.threads.length = b.threads.length ∧
    ∀ (tid : Nat) (x y : Thread), b.threads[tid]? = some x → c.threads[tid]? = some y →
      if tid ∈ s.cur.lanes then R tid x y else y = x
/-- Every issued lane goes to the next instruction and keeps everything else. -/
def AllGoOn (s t : State) : Prop := LaneChange s t fun _ x y => y = { x with pc := x.pc + 8#56 }
/-- One thread of one block changes, and nothing else of the device. -/
def ThreadIs (s t : State) (blk tid : Nat) (y : Thread) : Prop :=
  DeviceKept s t ∧ OthersKept s t blk ∧ t.thread blk tid = some y ∧ ∀ u, u ≠ tid → t.thread blk u = s.thread blk u
/-- A wait ends: the thread goes on after its instruction, without a deadline. -/
def waitOver (x : Thread) : Thread := { x with status := .active, deadline := none, timedOut := false }

/-- The threads of a block that wait, as p says, at the instruction at which the thread x waits, in its barge, go on together to issue it
again, with their timeout come if `late`; nothing else changes. -/
def WakesBeside (s t : State) (blk : Nat) (b : Block) (x : Thread) (p : Wait → Bool) (late : Bool) : Prop :=
  let beside (y : Thread) : Prop := y.barge = x.barge ∧ y.pc = x.pc ∧ (match y.status with | .waiting w => p w | _ => false) = true
  DeviceKept s t ∧ OthersKept s t blk ∧ ∃ c, t.block blk = some c ∧ { c with threads := b.threads } = b ∧
    c.threads.length = b.threads.length ∧
    ∀ (tid : Nat) (y z : Thread), b.threads[tid]? = some y → c.threads[tid]? = some z →
      (beside y → z = { y with status := .active, timedOut := y.timedOut || late }) ∧ (¬ beside y → z = y)

/-! ### Tile contexts -/

/-- A slot operation of the issuing context whose guard q reads true (R72, R74). -/
def Issues (s : State) (q : QReg) (b : Block) : Prop := s.block s.cur.blk = some b ∧ (q = 0#3 ∨ b.tile.q.getLsbD q.toNat = true)
/-- Of the issuing block only the results in flight change: one is added for each entry (steps until it lands, effect, flags). -/
def Lands (s t : State) (b : Block) (l : List (Nat × Effect × Flags)) : Prop :=
  ∃ c, t.block s.cur.blk = some c ∧ { c with tile := { c.tile with fly := b.tile.fly } } = b ∧
    c.tile.fly.Perm (b.tile.fly ++ l.map fun x => ⟨b.tile.step + x.1, b.tile.step, s.cur.slot, s.cur.baddr, x.2.1, x.2.2⟩)
/-- A slot operation whose whole effect is the results that it puts in flight. -/
def Emits (s t : State) (b : Block) (l : List (Nat × Effect × Flags)) : Prop := DeviceKept s t ∧ OthersKept s t s.cur.blk ∧ Lands s t b l
/-- The same for one that uses translations: what memory reads at its homes changes at most by a trace record, which only a context that traces
stops writes. -/
def EmitsQuiet (s t : State) (b : Block) (l : List (Nat × Effect × Flags)) : Prop :=
  OthersKept s t s.cur.blk ∧ ((s.ctx b.slot).traces 5 = false → L1LinesWhole s → HomeKept s t) ∧ Lands s t b l
/-- What an effect makes of the stream register r as it lands; the other stream registers and the rest of the context stay. -/
def StreamEffect (e : Effect) (r : SReg) (f : Stream → Stream) : Prop :=
  ∀ (x : Tile) (free : Nat) (l : Landing), l.eff = e → let y := (x.apply free l).1
    streamOf (y.sraw r) = f (streamOf (x.sraw r)) ∧ (∀ q : SReg, q ≠ r → y.sraw q = x.sraw q) ∧ { y with s := x.s } = x
/-- The same of a ring register. -/
def RingEffect (e : Effect) (r : CReg) (f : Ring → Ring) : Prop :=
  ∀ (x : Tile) (free : Nat) (l : Landing), l.eff = e → let y := (x.apply free l).1
    ringOf (y.craw r) = f (ringOf (x.craw r)) ∧ (∀ q : CReg, q ≠ r → y.craw q = x.craw q) ∧ { y with c := x.c } = x
/-- The issuing slot notes a fault with a code, a cause and an address for its bundle, which then stops (R367, R372); the slot takes up no
access to another device any more (log 12). -/
def SlotFaults (s t : State) (b : Block) (c : Code) (cause va : Nat) : Prop :=
  t = { (s.found (.fault c cause va 0 0)).abandon s.cur.blk (· == 1024 + s.cur.slot) with
    cur := { s.cur with tileFault := some (s.cur.slot, ({ s.slotRec b with code := c.num, num := cause, va } : Rec).bits) } }
/-- The issuing context waits, and its bundle comes to issue again: nothing else changes. -/
def TileWaits (s t : State) (w : TileWait) : Prop :=
  DeviceKept s t ∧ OthersKept s t s.cur.blk ∧
  ∀ b, s.block s.cur.blk = some b → t.block s.cur.blk = some { b with tile := { b.tile with wait := some w } }

/-! ### Sums of the matrix array and of the vector unit -/

/-- The flags of several results together. -/
def orFlags (l : List Flags) : Flags := l.foldl (· ||| ·) 0#5
/-- An F32 pattern's value. -/
def f32 (p : Nat) : FVal := fmtF32.decode p
/-- A real number as a value; the sign of a zero plays no part where this stands. -/
def realVal (x : Rat) : FVal := .fin (decide (x < 0)) |x|
/-- CellSum and AddF32 (06_tile_set.md R174): a NaN, an invalid product (`none`) or infinities of both signs are invalid; an exact zero
is +0; else one rounding to nearest even. The pattern and the flags. -/
def ArraySum (terms : List (Option FVal)) (p : Nat) (fl : Flags) : Prop :=
  if none ∈ terms ∨ (terms.any fun v => v.any FVal.isNan) = true ∨ (some (.inf false) ∈ terms ∧ some (.inf true) ∈ terms) then
    p = 0x7FC00000 ∧ fl = fInvalid
  else if some (.inf false) ∈ terms then p = 0x7F800000 ∧ fl = 0#5
  else if some (.inf true) ∈ terms then p = 0xFF800000 ∧ fl = 0#5
  else
    let r := roundTo fmtF32 .rne .sat ((terms.filterMap id).map FVal.real).sum false
    p = fmtF32.encode r.1 ∧ fl = r.2
/-- A column of a beat (R174): the sums of its 32 cells, added in order. -/
def ColumnSum (cells : Nat → List (Option FVal)) (p : Nat) (fl : Flags) : Prop :=
  ∃ (c a : Nat → Nat) (f g : Nat → Flags), (∀ i, i < 32 → ArraySum (cells i) (c i) (f i)) ∧ a 0 = c 0 ∧
    (∀ i, i < 31 → ArraySum [some (f32 (a i)), some (f32 (c (i + 1)))] (a (i + 1)) (g i)) ∧ p = a 31 ∧
    fl = orFlags ((List.range 32).map f ++ (List.range 31).map g)
/-- A sum of the vector unit (R178): as `SumRule` under RNE, but every NaN sets invalid. -/
def UnitSum (F : Fmt) (operands : List FVal) (terms : List (Option FVal)) (p : Nat) (fl : Flags) : Prop :=
  if (operands.any FVal.isNan) = true then p = F.canonNan ∧ fl = fInvalid else SumRule F .rne operands terms p fl
/-- A product in F32 (R182). -/
def MulF32 (a b p : Nat) (fl : Flags) : Prop := UnitSum fmtF32 [f32 a, f32 b] [product (f32 a) (f32 b)] p fl
/-- A sum in F32 (R182). -/
def AddF32 (a b p : Nat) (fl : Flags) : Prop := UnitSum fmtF32 [f32 a, f32 b] [some (f32 a), some (f32 b)] p fl
/-- The factor of one side of a merge (R182): 1 where its maximum is the new one, else 2^(m - mn), rounded twice. -/
def FactorF32 (m mn p : Nat) (fl : Flags) : Prop :=
  if fEq (f32 m) (f32 mn) = true then p = 0x3F800000 ∧ fl = 0#5
  else ∃ d g, AddF32 m (mn ^^^ 0x80000000) d g ∧ let e := exp2To fmtF32 (f32 d)
    p = fmtF32.encode e.1 ∧ fl = g ||| e.2
/-- a × f1 + b × f2, each step rounded (R182). -/
def ScaledSum (a f1 b f2 p : Nat) (fl : Flags) : Prop :=
  ∃ x y g1 g2 g3, MulF32 a f1 x g1 ∧ MulF32 b f2 y g2 ∧ AddF32 x y p g3 ∧ fl = orFlags [g1, g2, g3]
/-- One row of a softmax state merged with a further record's (R182): 32 elements, m at 32 and l at 33. -/
def MergedRow (x y z : Nat → Nat) (fl : Flags) : Prop :=
  ∃ (f1 f2 : Nat) (gm g1 g2 : Flags) (g : Nat → Flags),
    (if (f32 (x 32)).isNan = true ∨ (f32 (y 32)).isNan = true then z 32 = 0x7FC00000 ∧ gm = fInvalid
     else z 32 = (if fLtZ (f32 (x 32)) (f32 (y 32)) then y 32 else x 32) ∧ gm = 0#5) ∧
    FactorF32 (x 32) (z 32) f1 g1 ∧ FactorF32 (y 32) (z 32) f2 g2 ∧
    (∀ c, c < 32 ∨ c = 33 → ScaledSum (x c) f1 (y c) f2 (z c) (g c)) ∧
    fl = orFlags ([gm, g1, g2, g 33] ++ (List.range 32).map g)
/-- An accumulator tile is the keeper's to use: no arrival of `ybar.arv` awaits its `ybar.wt` (R211). -/
def KeeperOwns (x : Tile) (t : Nat) : Prop := (x.accWord (accSide t 3)).getLsbD 0 = false

end Sys2Proof.Safety
end

