-- ==== Sys2Proof/Certificates/Slice0/Obligations.lean ====
section
/-! DEFINITION. The statements for the provers: what the numbered rules of the manual say of the instructions and of the machine, in
the order of its files. A statement about a value that the model chose names the log entry. -/

open Sys2Proof Sys2Proof.Machine Sys2Proof.Safety

/-! ### The thread set: integers, predicates, moves (05_thread_instructions.md) -/

/-- R113, R108, R12: the three-register integer instructions of 32 bits complete on every operand; on every issued lane whose guard reads
true register D holds the exact result modulo 2^32, and nothing else changes but the pc. -/
def Obligations.IntegerResults : Prop :=
  ∀ s : State,
    (∀ p ∈ ([(.add, fun a b => a.toNat + b.toNat), (.sub, fun a b => a.toNat - b.toNat), (.mul, fun a b => a.toNat * b.toNat),
        (.shl, fun a b => a.toNat * 2 ^ (b.toNat % 256))] : List ((R3 → Instr) × (W32 → W32 → Int))),
      ∀ o : R3, Completes (p.1 o) s fun t => LanesOnly s t o.g fun _ x y =>
        Writes o.d.toNat [BitVec.ofInt 32 (p.2 (x.get o.a.toNat) (x.get o.b.toNat))] x y) ∧
    (∀ p ∈ ([(.and, (· && ·)), (.or, (· || ·)), (.xor, Bool.xor), (.andn, fun a b => a && !b)] :
        List ((R3 → Instr) × (Bool → Bool → Bool))),
      ∀ o : R3, Completes (p.1 o) s fun t => LanesOnly s t o.g fun _ x y => ∃ v : W32,
        (∀ i, i < 32 → v.getLsbD i = p.2 ((x.get o.a.toNat).getLsbD i) ((x.get o.b.toNat).getLsbD i)) ∧
        Writes o.d.toNat [v] x y) ∧
    (∀ p ∈ ([(.mulh, fun u a b => if u then (a.toNat * b.toNat : Int) / 2 ^ 32 else a.toInt * b.toInt / 2 ^ 32),
        (.shr, fun ar a b => if ar then a.toInt / 2 ^ (b.toNat % 256) else (a.toNat : Int) / 2 ^ (b.toNat % 256)),
        (.min, fun u a b => if u then (Nat.min a.toNat b.toNat : Int) else Min.min a.toInt b.toInt),
        (.max, fun u a b => if u then (Nat.max a.toNat b.toNat : Int) else Max.max a.toInt b.toInt)] :
        List ((R3f → Instr) × (Bool → W32 → W32 → Int))),
      ∀ o : R3f, Completes (p.1 o) s fun t => LanesOnly s t o.g fun _ x y =>
        Writes o.d.toNat [BitVec.ofInt 32 (p.2 o.f (x.get o.a.toNat) (x.get o.b.toNat))] x y) ∧
    (∀ o : R3f, Completes (.rot o) s fun t => LanesOnly s t o.g fun _ x y => ∃ v : W32,
      (∀ i, i < 32 → v.getLsbD (if o.f then (i + 32 - (x.get o.b.toNat).toNat % 32) % 32 else (i + (x.get o.b.toNat).toNat % 32) % 32)
        = (x.get o.a.toNat).getLsbD i) ∧ Writes o.d.toNat [v] x y) ∧
    (∀ o : R4, Completes (.mad o) s fun t => LanesOnly s t o.g fun _ x y =>
      Writes o.d.toNat [BitVec.ofNat 32 ((x.get o.a.toNat).toNat * (x.get o.b.toNat).toNat + (x.get o.c.toNat).toNat)] x y)

/-- R113, R117: the integer instructions whose result is a pair, and R118: the dot products. R114, R115, R136: the one-source
instructions, the bit fields, the byte permutation, and `nop`, which changes nothing but the pc. -/
def Obligations.PairDotAndBitResults : Prop :=
  (∀ s : State,
     (∀ o : R3f, Completes (.mulw o) s fun t => LanesOnly s t o.g fun _ x y =>
       Writes o.d.toNat (pair (if o.f then BitVec.ofNat 64 ((x.get o.a.toNat).toNat * (x.get o.b.toNat).toNat)
         else BitVec.ofInt 64 ((x.get o.a.toNat).toInt * (x.get o.b.toNat).toInt))) x y) ∧
     (∀ p ∈ ([(.add64, fun a b => a.toNat + b.toNat), (.sub64, fun a b => a.toNat - b.toNat), (.mul64, fun a b => a.toNat * b.toNat)] :
         List ((R3 → Instr) × (W64 → W64 → Int))),
       ∀ o : R3, Completes (p.1 o) s fun t => LanesOnly s t o.g fun _ x y =>
         Writes o.d.toNat (pair (BitVec.ofInt 64 (p.2 (x.get64 o.a.toNat) (x.get64 o.b.toNat)))) x y) ∧
     (∀ o : R3, Completes (.shl64 o) s fun t => LanesOnly s t o.g fun _ x y =>
       Writes o.d.toNat (pair (BitVec.ofNat 64 ((x.get64 o.a.toNat).toNat * 2 ^ ((x.get o.b.toNat).toNat % 256)))) x y) ∧
     (∀ o : R3f, Completes (.shr64 o) s fun t => LanesOnly s t o.g fun _ x y =>
       Writes o.d.toNat (pair (BitVec.ofInt 64 ((if o.f then (x.get64 o.a.toNat).toInt else (x.get64 o.a.toNat).toNat) /
         2 ^ ((x.get o.b.toNat).toNat % 256)))) x y) ∧
     (∀ o : LeaOp, Completes (.lea o) s fun t => LanesOnly s t o.g fun _ x y =>
       Writes o.d.toNat (pair (BitVec.ofInt 64 ((x.get64 o.a.toNat).toNat +
         (if o.sx then (x.get o.b.toNat).toInt else (x.get o.b.toNat).toNat) * 2 ^ o.sh.toNat))) x y) ∧
     (∀ p ∈ ([(.idot4, 4, fun x r => (x.get r).setWidth 64), (.idot8, 8, Thread.get64)] :
         List ((DotOp → Instr) × Nat × (Thread → Nat → W64))),
       ∀ o : DotOp, Completes (p.1 o) s fun t => LanesOnly s t o.g fun _ x y =>
         let el (sx : Bool) (r : Nat) (i : Nat) : Int :=
           let e := (p.2.2 x r).extractLsb' (8 * i) 8
           if sx then e.toInt else e.toNat
         let sum := (x.get o.c.toNat).toInt + ((List.range p.2.1).map fun i => el o.sa o.a.toNat i * el o.sb o.b.toNat i).sum
         Writes o.d.toNat [BitVec.ofInt 32 (if o.sat then Max.max (-2147483648) (Min.min sum 2147483647) else sum)] x y)) ∧
  (∀ s : State,
     (∀ g : Guard, Completes (.nop g) s fun t => LanesOnly s t g fun _ x y => Writes 0 [] x y) ∧
     (∀ o : R2f, Completes (.abs o) s fun t => LanesOnly s t o.g fun _ x y =>
       Writes o.d.toNat [if x.get o.a.toNat = 0x80000000#32 ∧ o.f then 0x7FFFFFFF#32
         else BitVec.ofNat 32 (x.get o.a.toNat).toInt.natAbs] x y) ∧
     (∀ o : R2, Completes (.clz o) s fun t => LanesOnly s t o.g fun _ x y => ∃ n, n ≤ 32 ∧
       (∀ i, i < n → (x.get o.a.toNat).getLsbD (31 - i) = false) ∧ (n < 32 → (x.get o.a.toNat).getLsbD (31 - n) = true) ∧
       Writes o.d.toNat [BitVec.ofNat 32 n] x y) ∧
     (∀ o : R2, Completes (.popc o) s fun t => LanesOnly s t o.g fun _ x y =>
       Writes o.d.toNat [BitVec.ofNat 32 ((List.range 32).filter fun i => (x.get o.a.toNat).getLsbD i).length] x y) ∧
     (∀ o : R2, Completes (.brev o) s fun t => LanesOnly s t o.g fun _ x y => ∃ v : W32,
       (∀ i, i < 32 → v.getLsbD i = (x.get o.a.toNat).getLsbD (31 - i)) ∧ Writes o.d.toNat [v] x y) ∧
     (∀ o : R3f, Completes (.bfx o) s fun t => LanesOnly s t o.g fun _ x y =>
       let pos := (x.get o.b.toNat).toNat % 32
       let w := Nat.min (Nat.min ((x.get o.b.toNat).toNat / 256 % 64) 32) (32 - pos)
       let f := (x.get o.a.toNat).toNat / 2 ^ pos % 2 ^ w
       Writes o.d.toNat [if o.f ∧ 0 < w ∧ 2 ^ (w - 1) ≤ f then BitVec.ofInt 32 (f - 2 ^ w) else BitVec.ofNat 32 f] x y) ∧
     (∀ o : R4, Completes (.bfi o) s fun t => LanesOnly s t o.g fun _ x y => ∃ v : W32,
       (let pos := (x.get o.b.toNat).toNat % 32
        let len := Nat.min ((x.get o.b.toNat).toNat / 256 % 64) 32
        ∀ i, i < 32 → v.getLsbD i =
          if pos ≤ i ∧ i < pos + len then (x.get o.a.toNat).getLsbD (i - pos) else (x.get o.c.toNat).getLsbD i) ∧
       Writes o.d.toNat [v] x y) ∧
     (∀ o : R4, Completes (.perm o) s fun t => LanesOnly s t o.g fun _ x y => ∃ v : W32,
       (∀ i, i < 4 → v.extractLsb' (8 * i) 8 =
         let k := ((x.get o.c.toNat).extractLsb' (4 * i) 4).toNat
         if 8 ≤ k then 0#8 else if k < 4 then (x.get o.a.toNat).extractLsb' (8 * k) 8
         else (x.get o.b.toNat).extractLsb' (8 * (k - 4)) 8) ∧
       Writes o.d.toNat [v] x y))

/-- R119: the immediate instructions. R116: a chain of carries: the sum or difference with the carry that comes in, and the carry or
borrow that goes out. -/
def Obligations.ImmediateAndCarryResults : Prop :=
  (∀ s : State,
     (∀ p ∈ ([(.addi, fun a i => a.toNat + i.toNat), (.muli, fun a i => a.toNat * i.toNat)] :
         List ((ImmOp → Instr) × (W32 → W32 → Nat))),
       ∀ o : ImmOp, Completes (p.1 o) s fun t => LanesOnly s t o.g fun _ x y =>
         Writes o.d.toNat [BitVec.ofNat 32 (p.2 (x.get o.a.toNat) o.imm)] x y) ∧
     (∀ p ∈ ([(.andi, (· && ·)), (.ori, (· || ·)), (.xori, Bool.xor)] : List ((ImmOp → Instr) × (Bool → Bool → Bool))),
       ∀ o : ImmOp, Completes (p.1 o) s fun t => LanesOnly s t o.g fun _ x y => ∃ v : W32,
         (∀ i, i < 32 → v.getLsbD i = p.2 ((x.get o.a.toNat).getLsbD i) (o.imm.getLsbD i)) ∧ Writes o.d.toNat [v] x y) ∧
     (∀ o : ShiftImm, Completes (.shli o) s fun t => LanesOnly s t o.g fun _ x y =>
       Writes o.d.toNat [BitVec.ofNat 32 ((x.get o.a.toNat).toNat * 2 ^ o.n.toNat)] x y) ∧
     (∀ o : ShiftImm, Completes (.shri o) s fun t => LanesOnly s t o.g fun _ x y =>
       Writes o.d.toNat [BitVec.ofInt 32 ((if o.ar then (x.get o.a.toNat).toInt else (x.get o.a.toNat).toNat) / 2 ^ o.n.toNat)] x y) ∧
     (∀ o : MoviOp, Completes (.movi o) s fun t => LanesOnly s t o.g fun _ x y => Writes o.d.toNat [o.imm] x y) ∧
     (∀ o : MovihOp, Completes (.movih o) s fun t => LanesOnly s t o.g fun _ x y =>
       Writes o.d.toNat [BitVec.ofNat 32 (o.imm.toNat * 65536 + (x.get o.a.toNat).toNat % 65536)] x y)) ∧
  (∀ (s : State) (o : CarryOp),
     let ci (x : Thread) : Nat := if o.ce ∧ x.pred o.cin then 1 else 0
     let go (sum : Thread → Int) (co : Thread → Bool) (t : State) : Prop := LanesOnly s t o.g fun _ x y =>
       y.pc = x.pc + 8#56 ∧ y.get o.d.toNat = BitVec.ofInt 32 (sum x) ∧ (∀ r, r ≠ o.d.toNat → y.get r = x.get r) ∧
       (∀ p, y.pred p = if p = o.co ∧ p ≠ 0#4 then co x else x.pred p) ∧ { y with regs := x.regs, preds := x.preds, pc := x.pc } = x
     Completes (.addx o) s (go (fun x => (x.get o.a.toNat).toNat + (x.get o.b.toNat).toNat + ci x)
       fun x => 2 ^ 32 ≤ (x.get o.a.toNat).toNat + (x.get o.b.toNat).toNat + ci x) ∧
     Completes (.subx o) s (go (fun x => (x.get o.a.toNat).toNat - (x.get o.b.toNat).toNat - ci x)
       fun x => (x.get o.a.toNat).toNat < (x.get o.b.toNat).toNat + ci x))

/-- R77, R120-R123: comparisons and predicates. -/
def Obligations.PredicateResults : Prop :=
  ∀ s : State,
    let holds (c : Cond) (a b : W32) : Bool := match c with
      | .eq => a = b
      | .ne => a ≠ b
      | .lt => a.toInt < b.toInt
      | .ge => b.toInt ≤ a.toInt
      | .ltu => a.toNat < b.toNat
      | .geu => b.toNat ≤ a.toNat
      | .le => a.toInt ≤ b.toInt
      | .gt => b.toInt < a.toInt
    (∀ o : CmpiOp, Completes (.cmpi o) s fun t => LanesOnly s t o.g fun _ x y =>
      WritesTest o.pd o.pe (holds o.cond (x.get o.a.toNat) o.imm) x y) ∧
    (∀ o : CmpOp, Completes (.cmp o) s fun t => LanesOnly s t o.g fun _ x y =>
      WritesTest o.pd o.pe (holds o.cond (x.get o.a.toNat) (x.get o.b.toNat)) x y) ∧
    (∀ o : PlogOp, Completes (.plog o) s fun t => LanesOnly s t o.g fun _ x y =>
      WritesTest o.pd o.pe (o.tt.getLsbD ((if x.pred o.pa then 2 else 0) + if x.pred o.pb then 1 else 0)) x y) ∧
    (∀ o : P2dOp, Completes (.p2d o) s fun t => LanesOnly s t o.g fun _ x y => ∃ v : W32,
      (∀ i, i < 32 → v.getLsbD i = (decide (i < 16) && x.pred (BitVec.ofNat 4 i))) ∧ Writes o.d.toNat [v] x y) ∧
    (∀ o : D2pOp, Completes (.d2p o) s fun t => LanesOnly s t o.g fun _ x y =>
      WritesPreds (fun p => p ≠ 0#4 ∧ o.mask.getLsbD (p.toNat - 1)) (fun p => (x.get o.a.toNat).getLsbD p.toNat) x y)

/-- R124, R139: choices and moves, of a register or of a pair. R75, R140: `rds` reads a special register and, with CLR, clears it. -/
def Obligations.SelectMoveAndSpecialRegisters : Prop :=
  (∀ s : State,
     (∀ o : SelOp, Completes (.sel o) s fun t => LanesOnly s t o.g fun _ x y =>
       let r := if x.pred o.s = !o.n then o.a.toNat else o.b.toNat
       Writes o.d.toNat (if o.w then [x.get r, x.get (r + 1)] else [x.get r]) x y) ∧
     (∀ o : R2f, Completes (.mov o) s fun t => LanesOnly s t o.g fun _ x y =>
       Writes o.d.toNat (if o.f then [x.get o.a.toNat, x.get (o.a.toNat + 1)] else [x.get o.a.toNat]) x y)) ∧
  (∀ (s : State) (o : RdsOp) (b : Block), s.block s.cur.blk = some b →
     Completes (.rds o) s fun t => LanesOnly s t o.g fun tid x y =>
       let lane := 16 * ((b.lc + tid / 16) % 8) + tid % 16
       let v : List W32 := match o.name with
         | .tid => [BitVec.ofNat 32 tid]
         | .bid0 => [b.bid.getD 0 0#32]
         | .bid1 => [b.bid.getD 1 0#32]
         | .bid2 => [b.bid.getD 2 0#32]
         | .bid3 => [b.bid.getD 3 0#32]
         | .lane => [BitVec.ofNat 32 lane]
         | .clu => [BitVec.ofNat 32 (lane / 16)]
         | .core => [BitVec.ofNat 32 (b.core % 96)]
         | .die => [BitVec.ofNat 32 (b.core / 96)]
         | .dev => [BitVec.ofNat 32 s.fabricNum]
         | .scr => pair (BitVec.ofNat 64 (0x00FF000000000000 + if b.scrLen = 0 then 0 else b.scrOff))
         | .clock => pair (BitVec.ofNat 64 s.clock)
         | .amax => [x.amax]
         | .fflags => [x.flags.setWidth 32]
       y.pc = x.pc + 8#56 ∧ (∀ i, i < v.length → y.get (o.d.toNat + i) = v.getD i 0#32) ∧
       (∀ r, r < o.d.toNat ∨ o.d.toNat + v.length ≤ r → y.get r = x.get r) ∧
       y.amax = (if o.clr ∧ o.name = .amax then 0#32 else x.amax) ∧ y.flags = (if o.clr ∧ o.name = .fflags then 0#5 else x.flags) ∧
       { y with regs := x.regs, pc := x.pc, amax := x.amax, flags := x.flags } = x)

/-- R141, R42: `shfl` gives a thread in its home barge register A of the thread at the position that mode, segment and lane operand name.
To a thread outside its home barge, and from one, the value is undefined: it is some value (log 6). -/
def Obligations.LaneExchange : Prop :=
  ∀ (s : State) (o : ShflOp) (b : Block), s.block s.cur.blk = some b →
    Completes (.shfl o) s fun t => LanesOnly s t o.g fun tid x y => ∃ v : W32, Writes o.d.toNat [v] x y ∧
      let u := tid % 16
      let w := match o.seg with | .w16 => 16 | .w8 => 8 | .w4 => 4 | .w2 => 2 | .w1 => 1
      let base := u - u % w
      let e := if o.i then o.k.toNat else (x.get o.b.toNat).toNat
      let j : Nat := match o.mode with
        | .idx => base + e % w
        | .up => if (u : Int) - e < base then u else u - e
        | .down => if base + w ≤ u + e then u else u + e
        | .xor => base + Nat.xor u e % w
      ∀ z, b.threads[16 * (tid / 16) + j]? = some z → x.home = true → z.home = true → v = z.get o.a.toNat

/-! ### The thread set: floats, conversions, special functions -/

/-- R125, R126, R128 with R92, R97, R98: sums and products complete on every operand; each element is the exact value rounded once, and
the flags of the elements are merged. That a quiet NaN beside infinite products gives the canonical NaN without invalid is the model's choice
(log 77). -/
def Obligations.FloatArithmeticRoundsOnce : Prop :=
  ∀ s : State,
    let dec (ty : FTy) (x : Thread) (r : Reg) (i : Nat) : FVal := (elemFmt ty).decode (elem ty (x.get r.toNat) i)
    (∀ o : F3, Completes (.fadd o) s fun t => LanesOnly s t o.g fun _ x y =>
      Elementwise o.ty o.d.toNat (fun x i p fl => SumRule (elemFmt o.ty) o.rm [dec o.ty x o.a i, dec o.ty x o.b i]
        [some (dec o.ty x o.a i), some (dec o.ty x o.b i)] p fl) x y) ∧
    (∀ o : F3, Completes (.fsub o) s fun t => LanesOnly s t o.g fun _ x y =>
      Elementwise o.ty o.d.toNat (fun x i p fl => SumRule (elemFmt o.ty) o.rm [dec o.ty x o.a i, dec o.ty x o.b i]
        [some (dec o.ty x o.a i), some (dec o.ty x o.b i).negate] p fl) x y) ∧
    (∀ o : F3, Completes (.fmul o) s fun t => LanesOnly s t o.g fun _ x y =>
      Elementwise o.ty o.d.toNat (fun x i p fl => SumRule (elemFmt o.ty) o.rm [dec o.ty x o.a i, dec o.ty x o.b i]
        [product (dec o.ty x o.a i) (dec o.ty x o.b i)] p fl) x y) ∧
    (∀ o : F4, Completes (.fma o) s fun t => LanesOnly s t o.g fun _ x y =>
      Elementwise o.ty o.d.toNat (fun x i p fl =>
        SumRule (elemFmt o.ty) o.rm [dec o.ty x o.a i, dec o.ty x o.b i, dec o.ty x o.c i]
          [product (dec o.ty x o.a i) (dec o.ty x o.b i), some (dec o.ty x o.c i)] p fl) x y) ∧
    (∀ o : FDotOp, Completes (.fdot2 o) s fun t => LanesOnly s t o.g fun _ x y =>
      let ty : FTy := if o.bf then .h2bf16 else .h2f16
      ∃ (v : W32) (fl : Flags), WritesFloat o.d.toNat v fl x.amax x y ∧
        DotRule fmtF32 o.rm [dec ty x o.a 0, dec ty x o.b 0, dec ty x o.a 1, dec ty x o.b 1, dec .f32 x o.c 0]
          [product (dec ty x o.a 0) (dec ty x o.b 0), product (dec ty x o.a 1) (dec ty x o.b 1), some (dec .f32 x o.c 0)] v.toNat fl)

/-- R126 (`fscale`), R127, R129, R130: scaling by a power of two, the smaller and larger operand, the class mask, and rounding to an
integral value. -/
def Obligations.FloatScaleSelectClassRound : Prop :=
  ∀ s : State,
    let pat (ty : FTy) (x : Thread) (r : Reg) (i : Nat) : Nat := elem ty (x.get r.toNat) i
    (∀ o : F3, Completes (.fscale o) s fun t => LanesOnly s t o.g fun _ x y =>
      Elementwise o.ty o.d.toNat (fun x i p fl =>
        let F := elemFmt o.ty
        let b := pat o.ty x o.b i
        let k : Int := if 2 ^ (F.width - 1) ≤ b then (b : Int) - 2 ^ F.width else b
        match F.decode (pat o.ty x o.a i) with
        | .nan sig => p = F.canonNan ∧ fl = if sig then fInvalid else 0#5
        | .inf n => p = F.encode (.inf n) ∧ fl = 0#5
        | .fin n a => if a = 0 then p = F.encode (.fin n 0) ∧ fl = 0#5
          else p = F.encode (roundTo F o.rm .sat (sgn n a * pow2 k) n).1 ∧ fl = (roundTo F o.rm .sat (sgn n a * pow2 k) n).2) x y) ∧
    (∀ q ∈ ([(.fmin, false), (.fmax, true)] : List ((FMinOp → Instr) × Bool)), ∀ o : FMinOp, Completes (q.1 o) s fun t =>
      LanesOnly s t o.g fun _ x y => Elementwise o.ty o.d.toNat (fun x i p fl =>
        let F := elemFmt o.ty
        let a := F.decode (pat o.ty x o.a i)
        let b := F.decode (pat o.ty x o.b i)
        fl = (if a.isSig || b.isSig then fInvalid else 0#5) ∧
        (a.isNan = true → b.isNan = true → p = F.canonNan) ∧ (a.isNan = true → b.isNan = false → p = pat o.ty x o.b i) ∧
        (a.isNan = false → b.isNan = true → p = pat o.ty x o.a i) ∧
        (a.isNan = false → b.isNan = false →
          (p = pat o.ty x o.a i ∧ fLtZ (if q.2 then a else b) (if q.2 then b else a) = false) ∨
          (p = pat o.ty x o.b i ∧ fLtZ (if q.2 then b else a) (if q.2 then a else b) = false))) x y) ∧
    (∀ o : FClassOp, Completes (.fclass o) s fun t => LanesOnly s t o.g fun _ x y =>
      Elementwise o.ty o.d.toNat (fun x i p fl =>
        let F := elemFmt o.ty
        let v := F.decode (pat o.ty x o.a i)
        fl = (if v.isSig then fInvalid else 0#5) ∧ p = 2 ^ (match v with
          | .nan sig => if sig then 8 else 9
          | .inf n => if n then 0 else 7
          | .fin n a => if a = 0 then (if n then 3 else 4) else if a < pow2 F.emin then (if n then 2 else 5) else if n then 1 else 6)) x y) ∧
    (∀ o : FRndOp, Completes (.frnd o) s fun t => LanesOnly s t o.g fun _ x y =>
      Elementwise o.ty o.d.toNat (fun x i p fl =>
        let F := elemFmt o.ty
        match F.decode (pat o.ty x o.a i) with
        | .nan sig => p = F.canonNan ∧ fl = if sig then fInvalid else 0#5
        | .inf n => p = F.encode (.inf n) ∧ fl = 0#5
        | .fin n a =>
          let r := roundInt (sgn n a) o.rm
          p = F.encode (.fin n (r.1.natAbs : Rat)) ∧ fl = if o.x ∧ (r.1 : Rat) ≠ sgn n a then fInexact else 0#5) x y)

/-- R121: comparison of floats; any NaN operand sets invalid. -/
def Obligations.FloatComparison : Prop :=
  ∀ (s : State) (o : CmpFOp), Completes (.cmpFloat o) s fun t => LanesOnly s t o.g fun _ x y =>
    let pick (r : Reg) : FVal := (elemFmt o.ty).decode (elem o.ty (x.get r.toNat) (if o.ty ≠ .f32 ∧ o.hs then 1 else 0))
    let a := pick o.a
    let b := pick o.b
    let un := a.isNan || b.isNan
    let lt (a b : FVal) : Bool := match a, b with
      | .fin n x, .fin m y => sgn n x < sgn m y
      | .inf true, .inf false | .inf true, .fin _ _ | .fin _ _, .inf false => true
      | _, _ => false
    let eq : Bool := match a, b with
      | .fin n x, .fin m y => sgn n x = sgn m y
      | .inf n, .inf m => n = m
      | _, _ => false
    let r : Bool := match o.cond with
      | .eq => eq
      | .ne => un || !eq
      | .lt => lt a b
      | .ge => lt b a || eq
      | .uo => un
      | .ord => !un
      | .le => lt a b || eq
      | .gt => lt b a
    ∃ z : Thread, WritesTest o.pd o.pe r x z ∧ y = { z with flags := z.flags ||| if un then fInvalid else 0#5 }

/-- R131, R132, R94, R97, R99, R100, R105: conversions of one element and packing conversions, with their flags and `$amax`. A zero keeps
its sign (log 24). -/
def Obligations.ConversionResults : Prop :=
  ∀ s : State,
    let toFloat (ts td : Ty) (m : Rm) (ovf : Ovf) (v : FVal) (p : Nat) (fl : Flags) : Prop :=
      let F := fmtOf td
      let exact := ts.isFloat ∧ (ts = td ∨ td = .f32 ∨ (ts.isF8 ∧ (td = .f16 ∨ td = .bf16)))
      match v with
      | .nan _ => p = F.canonNan ∧ fl = fInvalid
      | .inf n => if exact ∨ td.isF8 = false ∨ ovf = .inf then p = F.encode (.inf n) ∧ fl = 0#5
        else fl = fOverflow ||| fInexact ∧ p = if ovf = .sat then F.encode (.fin n F.maxFin) else F.canonNan
      | .fin n a => if a = 0 ∨ exact then p = F.encode (.fin n a) ∧ fl = 0#5
        else p = F.encode (roundTo F m ovf (sgn n a) n).1 ∧ fl = (roundTo F m ovf (sgn n a) n).2
    let toInt (td : Ty) (m : Rm) (v : FVal) (c : Int) (fl : Flags) : Prop :=
      let lo := (intRange td).1
      let hi := (intRange td).2
      match v with
      | .nan _ => c = 0 ∧ fl = fInvalid
      | .inf n => c = (if n then lo else hi) ∧ fl = fInvalid
      | .fin n a =>
        let i := (roundInt (sgn n a) m).1
        if i < lo ∨ hi < i then c = (if i < lo then lo else hi) ∧ fl = fInvalid
        else c = i ∧ fl = if (i : Rat) = sgn n a then 0#5 else fInexact
    (∀ o : CvtOp, (Instr.cvt o).wf = true → Completes (.cvt o) s fun t => LanesOnly s t o.g fun _ x y =>
      let e : Nat := ((x.get o.a.toNat).toNat / 2 ^ (o.ts.bits * if o.ts.bits ≤ 16 then o.sel.toNat else 0)) % 2 ^ o.ts.bits
      let v := elemVal o.ts e
      ∃ (d : W32) (fl : Flags), WritesFloat o.d.toNat d fl (if cvtAmax o.ts o.td then amaxMerge x.amax v else x.amax) x y ∧
        if o.td.isFloat then ∃ p, toFloat o.ts o.td o.rm o.ovf v p fl ∧ d = BitVec.ofNat 32 p
        else ∃ c, toInt o.td o.rm v c fl ∧ d = BitVec.ofInt 32 c) ∧
    (∀ o : CvtfOp, (o.td = .f16 ∨ o.td = .bf16) → Completes (.cvtf o) s fun t => LanesOnly s t o.g fun _ x y =>
      let v (r : Reg) : FVal := fmtF32.decode (x.get r.toNat).toNat
      ∃ (p q : BitVec 16) (fp fq : Flags), toFloat .f32 o.td o.rm o.ovf (v o.a) p.toNat fp ∧
        toFloat .f32 o.td o.rm o.ovf (v o.b) q.toNat fq ∧
        WritesFloat o.d.toNat (q ++ p) (fp ||| fq) (amaxMerge (amaxMerge x.amax (v o.a)) (v o.b)) x y) ∧
    (∀ o : CvtfOp, (o.td = .f8a ∨ o.td = .f8b) → Completes (.cvtf o) s fun t => LanesOnly s t o.g fun _ x y =>
      let v (i : Nat) : FVal := fmtF32.decode (x.get (o.a.toNat + i)).toNat
      ∃ (p : Nat → BitVec 8) (fl : Nat → Flags), (∀ i, i < 4 → toFloat .f32 o.td o.rm o.ovf (v i) (p i).toNat (fl i)) ∧
        WritesFloat o.d.toNat (p 3 ++ p 2 ++ p 1 ++ p 0) (fl 0 ||| fl 1 ||| fl 2 ||| fl 3)
          ([v 0, v 1, v 2, v 3].foldl amaxMerge x.amax) x y)

/-- R99, R105, R133-R135: quantising, dequantising, and the largest magnitude of a register. The sign of an exact zero that `deq` gives
from a scale and a difference of unlike signs is open; it depends on the operands alone (R2; log 6, log 24). -/
def Obligations.QuantisationResults : Prop :=
  ∃ zeroNeg : Ty → W32 → W32 → W32 → Bool, ∀ s : State,
    let zp (ty : Ty) (c : W32) : Int := if ty = .q8 then (c.toNat % 256 : Nat) else if ty = .q4 then (c.toNat % 16 : Nat) else 0
    (∀ o : QuantOp, (o.ty = .s8 ∨ o.ty = .q8 ∨ o.ty = .q4) → Completes (.quant o) s fun t => LanesOnly s t o.g fun _ x y =>
      let v := fmtF32.decode (x.get o.a.toNat).toNat
      let z := zp o.ty (x.get o.c.toNat)
      let lo : Int := if o.ty = .s8 then -127 else 0
      let hi : Int := if o.ty = .s8 then 127 else if o.ty = .q8 then 255 else 15
      ∃ (c : Int) (fl : Flags), WritesFloat o.d.toNat (BitVec.ofInt 32 c) fl (amaxMerge x.amax v) x y ∧
        match fmtF32.decode (x.get o.b.toNat).toNat, v with
        | .fin m b, .fin n a =>
          if b = 0 then c = z ∧ fl = fInvalid
          else
            let i := (roundInt (sgn n a / sgn m b) o.rm).1
            if i + z < lo ∨ hi < i + z then c = (if i + z < lo then lo else hi) ∧ fl = fOverflow ||| fInexact
            else c = i + z ∧ fl = if (i : Rat) = sgn n a / sgn m b then 0#5 else fInexact
        | .fin m b, .inf n => if b = 0 then c = z ∧ fl = fInvalid else c = (if n = m then hi else lo) ∧ fl = fOverflow ||| fInexact
        | _, _ => c = z ∧ fl = fInvalid) ∧
    (∀ o : QuantOp, (o.ty = .s8 ∨ o.ty = .q8 ∨ o.ty = .q4) → Completes (.deq o) s fun t => LanesOnly s t o.g fun _ x y =>
      let code : Int := if o.ty = .s8 then ((x.get o.a.toNat).setWidth 8).toInt
        else ((x.get o.a.toNat).toNat % (if o.ty = .q8 then 256 else 16) : Nat)
      let sc := if o.ty = .s8 then fmtF32.decode (x.get o.b.toNat).toNat else fmtF16.decode ((x.get o.b.toNat).toNat % 65536)
      let df := code - zp o.ty (x.get o.c.toNat)
      ∃ (d : W32) (fl : Flags), WritesFloat o.d.toNat d fl x.amax x y ∧
        match sc with
        | .nan _ => d.toNat = fmtF32.canonNan ∧ fl = fInvalid
        | .inf n => if df = 0 then d.toNat = fmtF32.canonNan ∧ fl = fInvalid
          else d.toNat = fmtF32.encode (.inf (n != decide (df < 0))) ∧ fl = 0#5
        | .fin n a =>
          let unlike := n != decide (df < 0)
          let zero := unlike && ((a ≠ 0 && df ≠ 0) || zeroNeg o.ty (x.get o.a.toNat) (x.get o.b.toNat) (x.get o.c.toNat))
          d.toNat = fmtF32.encode (roundTo fmtF32 o.rm .sat (sgn n a * df) zero).1 ∧ fl = (roundTo fmtF32 o.rm .sat (sgn n a * df) zero).2) ∧
    (∀ o : AmaxOp, (o.ts = .f32 ∨ o.ts = .f16 ∨ o.ts = .bf16) → Completes (.amax o) s fun t => LanesOnly s t o.g fun _ x y =>
      let ty : FTy := if o.ts = .f32 then .f32 else if o.ts = .f16 then .h2f16 else .h2bf16
      let vs := (elems ty (x.get o.a.toNat)).map (elemFmt ty).decode
      WritesFloat o.d.toNat (vs.foldl amaxMerge 0#32) (if ∃ v ∈ vs, v.isNan then fInvalid else 0#5) (vs.foldl amaxMerge x.amax) x y)

/-- R137: the special functions complete on every operand, and write what the model computes for their function (log 15): for `rcp`, and
for `exp2` of an integer, the exact value rounded once. R138: the special functions of special operands, and the values of `sin` and
`cos` that its last lines give. -/
def Obligations.SpecialFunctions : Prop :=
  (∀ s : State, ∀ p ∈ ([(.rcp, Sfu.rcp), (.rsqrt, .rsqrt), (.sqrt, .sqrt), (.exp2, .exp2), (.log2, .log2), (.sin, .sin), (.cos, .cos),
       (.tanh, .tanh), (.sigm, .sigm), (.erf, .erf)] : List ((SfuOp → Instr) × Sfu)),
     ∀ o : SfuOp, Completes (p.1 o) s fun t => LanesOnly s t o.g fun _ x y =>
       let r := p.2.eval o.rm (fmtF32.decode (x.get o.a.toNat).toNat)
       WritesFloat o.d.toNat (BitVec.ofNat 32 (fmtF32.encode r.1)) r.2 x.amax x y ∧
       (∀ n a, p.2 = .rcp → fmtF32.decode (x.get o.a.toNat).toNat = .fin n a → a ≠ 0 → r = roundTo fmtF32 o.rm .sat (1 / sgn n a) n) ∧
       (∀ n a (k : Int), p.2 = .exp2 → fmtF32.decode (x.get o.a.toNat).toNat = .fin n a → sgn n a = k →
         r = roundTo fmtF32 o.rm .sat (pow2 k) false)) ∧
  (∀ m : Rm,
     let nan (v : FVal × Flags) (fl : Flags) : Prop := v = (.nan false, fl)
     let is (v : FVal × Flags) (n : Bool) (a : Rat) : Prop := v = (.fin n a, 0#5)
     (∀ (f : Sfu) (sig : Bool), nan (f.eval m (.nan sig)) (if sig then fInvalid else 0#5)) ∧
     (∀ n, Sfu.rcp.eval m (.fin n 0) = (.inf n, fDivZero) ∧ is (Sfu.rcp.eval m (.inf n)) n 0) ∧
     (∀ n, Sfu.rsqrt.eval m (.fin n 0) = (.inf n, fDivZero)) ∧ is (Sfu.rsqrt.eval m (.inf false)) false 0 ∧
     nan (Sfu.rsqrt.eval m (.inf true)) fInvalid ∧ nan (Sfu.sqrt.eval m (.inf true)) fInvalid ∧
     nan (Sfu.log2.eval m (.inf true)) fInvalid ∧
     (∀ a, 0 < a → nan (Sfu.rsqrt.eval m (.fin true a)) fInvalid ∧ nan (Sfu.sqrt.eval m (.fin true a)) fInvalid ∧
       nan (Sfu.log2.eval m (.fin true a)) fInvalid) ∧
     (∀ n, is (Sfu.sqrt.eval m (.fin n 0)) n 0) ∧ Sfu.sqrt.eval m (.inf false) = (.inf false, 0#5) ∧
     is (Sfu.exp2.eval m (.inf true)) false 0 ∧ Sfu.exp2.eval m (.inf false) = (.inf false, 0#5) ∧
     (∀ (n : Bool) (k : Nat),
       Sfu.exp2.eval m (.fin n k) = roundTo fmtF32 m .sat (pow2 (if n then -(k : Int) else k)) false) ∧
     (∀ n, Sfu.log2.eval m (.fin n 0) = (.inf true, fDivZero)) ∧ Sfu.log2.eval m (.inf false) = (.inf false, 0#5) ∧
     is (Sfu.log2.eval m (.fin false 1)) false 0 ∧
     (∀ n, nan (Sfu.sin.eval m (.inf n)) fInvalid ∧ nan (Sfu.cos.eval m (.inf n)) fInvalid) ∧
     (∀ (n : Bool) (k : Nat), is (Sfu.sin.eval m (.fin n (k / 2))) n 0) ∧
     (∀ (n : Bool) (k : Nat), is (Sfu.sin.eval m (.fin n (k + 1 / 4))) n 1 ∧ is (Sfu.sin.eval m (.fin n (k + 3 / 4))) (!n) 1) ∧
     (∀ (n : Bool) (k : Nat), is (Sfu.cos.eval m (.fin n (k + 1 / 4))) false 0 ∧ is (Sfu.cos.eval m (.fin n (k + 3 / 4))) false 0 ∧
       is (Sfu.cos.eval m (.fin n k)) false 1 ∧ is (Sfu.cos.eval m (.fin n (k + 1 / 2))) true 1) ∧
     (∀ n, is (Sfu.tanh.eval m (.inf n)) n 1 ∧ is (Sfu.tanh.eval m (.fin n 0)) n 0) ∧
     is (Sfu.sigm.eval m (.inf true)) false 0 ∧ is (Sfu.sigm.eval m (.inf false)) false 1 ∧
     (∀ n, is (Sfu.sigm.eval m (.fin n 0)) false (1 / 2)) ∧
     (∀ n, is (Sfu.erf.eval m (.inf n)) n 1 ∧ is (Sfu.erf.eval m (.fin n 0)) n 0) ∧
     (∀ p n a, fmtF32.decode p = .fin n a → 2 ^ 23 ≤ a → is (Sfu.sin.eval m (.fin n a)) n 0 ∧ is (Sfu.cos.eval m (.fin n a)) false 1) ∧
     Sfu.sin.eval m (.fin false (1 / 8)) = (fmtF32.decode (if m = .rup then 0x3F3504F4 else 0x3F3504F3), fInexact))

/-! ### Control and exceptions -/

/-- R142: the direct branches, the call with its link, and the counted branch. R143: `brx` and `ret` go to the address in a pair; when
that of a lane is no instruction address, ALIGN is raised at the branch, against the lanes of which it holds, and the whole
instruction is suppressed; that the record's VA is 0 is the model's choice (log 76). -/
def Obligations.BranchTargets : Prop :=
  (∀ s : State,
     let target (x : Thread) (off : W32) : Addr := BitVec.ofInt 56 (x.pc.toNat + 8 * off.toInt)
     (∀ o : BrOp, Completes (.br o) s fun t => LanesOnly s t o.g fun _ x y => y = { x with pc := target x o.off }) ∧
     (∀ o : BrDOp, Completes (.call o) s fun t => LanesOnly s t o.g fun _ x y =>
       y.pc = target x o.off ∧ y.get64 o.d.toNat = BitVec.ofNat 64 ((x.pc.toNat + 8) % 2 ^ 56) ∧
       (∀ r, r ≠ o.d.toNat ∧ r ≠ o.d.toNat + 1 → y.get r = x.get r) ∧ ThreadKept x y) ∧
     (∀ o : BrDOp, Completes (.brc o) s fun t => LanesOnly s t o.g fun _ x y =>
       let n := BitVec.ofInt 32 ((x.get o.d.toNat).toNat - 1)
       y.pc = (if n ≠ 0#32 then target x o.off else x.pc + 8#56) ∧ y.get o.d.toNat = n ∧
       (∀ r, r ≠ o.d.toNat → y.get r = x.get r) ∧ ThreadKept x y)) ∧
  (∀ (s : State) (o : RegOp), ∀ i ∈ [Instr.brx o, Instr.ret o],
     let bad := s.lanesWhere o.g fun x => decide (2 ^ 56 ≤ (x.get64 o.a.toNat).toNat ∨ (x.get64 o.a.toNat).toNat % 8 ≠ 0)
     (bad = [] → Completes i s fun t => LanesOnly s t o.g fun _ x y => y = { x with pc := BitVec.ofNat 56 (x.get64 o.a.toNat).toNat }) ∧
     (bad ≠ [] → Completes i s fun t => Faults s t (s.active o.g) (bareRec s bad .align) s.cur.pc))

/-- R144, R38: a lane that executes `reform` is out of its home barge and stands at its continuation address, filed in a basin of that
address or already in a barge formed from it; every register, predicate and flag of every thread is as before, and memory too. An indirect
`reform` to no instruction address raises ALIGN, with VA 0 by the model's choice (log 76). -/
def Obligations.ReformFilesLanes : Prop :=
  ∀ (s : State) (b : Block), s.block s.cur.blk = some b →
    let go (g : Guard) (key : Thread → Addr) (t : State) : Prop := ThreadsOnly s t fun n tid x y =>
      y.regs = x.regs ∧ y.preds = x.preds ∧ y.flags = x.flags ∧ y.amax = x.amax ∧ y.nest = x.nest ∧ y.sys = x.sys ∧
      if n = s.cur.blk ∧ tid ∈ s.active g then
        y.home = false ∧ y.pc = key x ∧ (y.status = .active ∨ ∃ f k, y.status = .waiting (.basin (key x) f k))
      else y.home = x.home ∧ y.pc = (if n = s.cur.blk ∧ tid ∈ s.cur.lanes then x.pc + 8#56 else x.pc) ∧
        (y.status = x.status ∨ ∃ k f n, x.status = .waiting (.basin k f n) ∧ y.status = .active)
    (∀ o : OffOp, Completes (.reformDirect o) s (go o.g fun x => BitVec.ofInt 56 (x.pc.toNat + 8 * o.off.toInt))) ∧
    (∀ o : RegOp, let bad := s.lanesWhere o.g fun x => decide (2 ^ 56 ≤ (x.get64 o.a.toNat).toNat ∨ (x.get64 o.a.toNat).toNat % 8 ≠ 0)
      (bad = [] → Completes (.reformIndirect o) s (go o.g fun x => BitVec.ofNat 56 (x.get64 o.a.toNat).toNat)) ∧
      (bad ≠ [] → Completes (.reformIndirect o) s fun t => Faults s t (s.active o.g) (bareRec s bad .align) s.cur.pc))

/-- R41, R145: a lane at `rejoin` waits until every live thread of its home barge waits at a `rejoin` or a gate, and then those at a `rejoin`
go on in their home barge; at `bar` it waits until every live thread of the block waits at one, and then all go on. No other thread
changes, but that the exited threads and those at a gate of a home barge that re-forms are in it too. The threads that go on are ordered
after every `tbw` that one of them was (R211, R227; log 75). -/
def Obligations.RejoinAndBarWaitForAll : Prop :=
  ∀ (s : State) (g : Guard) (b : Block), s.block s.cur.blk = some b →
    /- A thread once the lanes have arrived, before any goes on. -/
    let mid (w : Wait) (tid : Nat) (x : Thread) : Thread :=
      if tid ∈ s.cur.lanes then (if x.guard g then { x with status := .waiting w } else x.advance) else x
    let waits (w : Wait) (tid : Nat) : Prop := ∃ x, b.threads[tid]? = some x ∧ (mid w tid x).status = .waiting w
    let onward (w : Wait) (P : Nat → Prop) (x y : Thread) : Prop := y.pc = x.pc + 8#56 ∧ y.status = .active ∧
      ∀ i, y.tiles.getLsbD i = true ↔ ∃ v z, P v ∧ waits w v ∧ b.threads[v]? = some z ∧ z.tiles.getLsbD i = true
    let go (t : State) (R : Nat → Thread → Thread → Prop) : Prop := DeviceKept s t ∧ OthersKept s t s.cur.blk ∧
      ∃ c, t.block s.cur.blk = some c ∧ { c with threads := b.threads } = b ∧ c.threads.length = b.threads.length ∧
        ∀ (tid : Nat) (x y : Thread), b.threads[tid]? = some x → c.threads[tid]? = some y → R tid x y
    (Completes (.rejoin g) s fun t => go t fun tid x y =>
      let all := (∃ v ∈ s.active g, v / 16 = tid / 16) ∧ ∀ v z, v / 16 = tid / 16 → b.threads[v]? = some z →
        (mid .rejoin v z).status ∈ [Status.exited, .waiting .rejoin, .waiting .gate]
      (¬ all → y = mid .rejoin tid x) ∧
      (all → ¬ waits .rejoin tid → y = { mid .rejoin tid x with home := true, barge := tid / 16 }) ∧
      (all → waits .rejoin tid → onward .rejoin (fun v => v / 16 = tid / 16) x y ∧ y.home = true ∧ y.barge = tid / 16 ∧
        { y with pc := x.pc, status := x.status, home := x.home, barge := x.barge, tiles := x.tiles } = x)) ∧
    (Completes (.bar g) s fun t => go t fun tid x y =>
      let all := ∀ v z, b.threads[v]? = some z → (mid .bar v z).status ∈ [Status.exited, .waiting .bar]
      (¬ all ∨ ¬ waits .bar tid → y = mid .bar tid x) ∧
      (all → waits .bar tid → onward .bar (fun _ => True) x y ∧ { y with pc := x.pc, status := x.status, tiles := x.tiles } = x))

/-- R145, R57: at `exit` a lane's thread ends: loads still pending are discarded and its other results land, which is the model's choice (log
16). Where its home barge re-forms without it, it is in that barge (R41, R141); and of the tiles that it was ordered after a `tbw` of, which
are the model's form of R211 (log 75), none joins. When no thread of a block that no kill has stopped is left, the block drains. Where no
thread waits at a gate or a `tba`, which an exit may complete, every other thread goes on as it was, but that those of a re-formed home barge
are in it and that those at a `rejoin` or a `bar` which the exit completes go on; and nothing else of the device changes. -/
def Obligations.ExitEndsThreads : Prop :=
  ∀ (s : State) (g : Guard) (b : Block), s.block s.cur.blk = some b → Completes (.exit g) s fun t =>
    (∀ (tid : Nat) (x : Thread), tid ∈ s.active g → s.thread s.cur.blk tid = some x →
      ∃ (h : Bool) (k : Nat) (v : BitVec 64), ((h = x.home ∧ k = x.barge) ∨ (h = true ∧ k = tid / 16)) ∧
        (∀ i, v.getLsbD i = true → x.tiles.getLsbD i = true) ∧
        t.thread s.cur.blk tid = some { ({ x with pend := x.pend.filter fun p => !p.load } : Thread).land with
          status := .exited, deadline := none, home := h, barge := k, tiles := v }) ∧
    ((∀ (tid : Nat) (z : Thread), b.threads[tid]? = some z → z.status = .exited ∨ tid ∈ s.active g) →
      (∀ tid ∈ s.cur.lanes, tid ∈ s.active g) → b.killed = false → ∃ c, t.block s.cur.blk = some c ∧ c.life = .draining) ∧
    ((∀ z ∈ b.threads, z.status ≠ .waiting .gate ∧ ∀ i, z.status ≠ .waiting (.tba i)) →
      DeviceKept s t ∧ OthersKept s t s.cur.blk ∧ ∃ c, t.block s.cur.blk = some c ∧ { c with threads := b.threads, life := b.life } = b ∧
        (c.life = b.life ∨ c.life = .draining ∨ (b.life = .frozen ∧ c.life = .running)) ∧ c.threads.length = b.threads.length ∧
        ∀ (tid : Nat) (x y : Thread), b.threads[tid]? = some x → c.threads[tid]? = some y → tid ∉ s.active g →
          let m := if tid ∈ s.cur.lanes then { x with pc := x.pc + 8#56 } else x
          y = m ∨ y = { m with home := true, barge := tid / 16 } ∨
          ((m.status = .waiting .rejoin ∨ m.status = .waiting .bar) ∧ y.status = .active ∧ y.pc = m.pc + 8#56 ∧
            { y with pc := m.pc, status := m.status, home := m.home, barge := m.barge, tiles := m.tiles } = m))

/-- R43, R146, R79: a lane at `gate` waits there in its home barge, and the gate's address and operands are recorded; a gate at another
address than the first raises ILL, and else a lane at system privilege PRIV, against every issued lane, which R79 is read to say (log 39).
Where every live thread of the block then waits at the gate, a block without a context raises ILL against the lanes that came last; else
the lock is entered when the descriptor and the entry address pass their checks (R44-R48): the views are bound, k1 takes the argument, the
context starts at the entry address and the threads sleep. -/
def Obligations.GateEntersTheLock : Prop :=
  ∀ (s : State) (o : GateOp) (b : Block), s.block s.cur.blk = some b →
    let others := ∃ x ∈ b.threads, x.status = .waiting .gate
    let arrived := (waitLanes s o.g .gate).modBlock s.cur.blk fun b => (homesOf (s.active o.g)).foldl (fun b k => b.reformHome k)
      { b with gate := some s.cur.pc, gateOps := (o.a, o.b, o.c) }
    (s.active o.g ≠ [] → others → b.gate ≠ some s.cur.pc →
      Completes (.gate o) s fun t => Faults s t (s.active o.g) (bareRec s (s.active o.g) .ill) s.cur.pc) ∧
    ((s.active o.g ≠ [] → others → b.gate = some s.cur.pc) → s.lanesAt true ≠ [] →
      Completes (.gate o) s fun t => Faults s t s.cur.lanes (bareRec s s.cur.lanes .priv) s.cur.pc) ∧
    (s.lanesAt true = [] → s.active o.g = [] → Completes (.gate o) s fun t => LanesOnly s t o.g fun _ _ _ => True) ∧
    (s.lanesAt true = [] → s.active o.g ≠ [] → (others → b.gate = some s.cur.pc) →
      ∀ c, arrived.block s.cur.blk = some c →
        c.gate = some s.cur.pc ∧
        (c.allAtGate = false → Completes (.gate o) s fun t => t = arrived ∧
          ∀ (tid : Nat) (x y : Thread), tid ∈ s.active o.g → s.thread s.cur.blk tid = some x → t.thread s.cur.blk tid = some y →
            y.status = .waiting .gate ∧ y.pc = x.pc ∧ y.regs = x.regs) ∧
        (c.allAtGate = true → c.preempt = none → c.killed = false → c.inLock = false → c.cx = none → Completes (.gate o) s fun t =>
          let last : State := { arrived with cur := { s.cur with lanes := s.active o.g } }
          ∃ u, Faults last u (s.active o.g) (bareRec last (s.active o.g) .ill) s.cur.pc ∧ t = { u with cur := s.cur }) ∧
        (∀ views entry arg s', c.allAtGate = true → c.preempt = none → c.killed = false → c.inLock = false →
          arrived.gateCheck s.cur.blk c ((s.active o.g).headD 0) = .ok views entry arg s' → s'.block s.cur.blk = some c →
          Completes (.gate o) s fun t => ∃ d, t.block s.cur.blk = some d ∧ d.inLock = true ∧ d.tile.views = views ∧
            d.tile.baddr = entry ∧ d.tile.kreg 1#6 = arg ∧
            ∀ (tid : Nat) (x y : Thread), c.threads[tid]? = some x → d.threads[tid]? = some y →
              (x.status = .waiting .gate → y.status = .asleep) ∧ (x.status = .exited → y = x)))

/-- R370, R371: taking an exception. When TVEC is not 0, NEST is below 15 and the frame can be written, the thread goes on at TVEC with
system privilege, NEST one more, and the frame's address in d0-d1; its other registers, predicates, flags and `$amax` are kept, no
other thread changes, and memory is what writing the frame leaves. R370 step 1, R380, R367, R368: with TVEC 0 or NEST 15 the record is posted
with KIND 6, the privilege of the lane and no detail, and the context is killed: its blocks stop and drain. Where the frame cannot be written, R384, the same record has the code of
that fault as its detail, and an uncorrectable error gives it CODE ECC. That pending results land before the entry is the model's choice
(log 16). -/
def Obligations.ExceptionEntry : Prop :=
  (∀ (s u : State) (blk tid : Nat) (r : BitVec 512) (rpc : Addr) (b : Block) (x : Thread),
     s.block blk = some b → s.thread blk tid = some x → b.killed = false → (s.ctx b.slot).tvec.toNat % 2 ^ 56 / 8 ≠ 0 →
     x.nest ≠ 15#4 → u.block blk = some b →
     s.virtWrite (b.party blk true tid)
       ((s.ctx b.slot).frameb.toNat + 2 ^ 25 * (64 * b.core + (b.owner.toNat / 16) % 64) + 0x200000 + 0x4800 * tid + 0x480 * x.nest.toNat)
       (frameBytes x.land b.nregs (recPrv r x.sys) rpc) = .ok u →
     ∃ y, (s.enterLane blk tid r rpc).thread blk tid = some y ∧
       y.pc.toNat = (s.ctx b.slot).tvec.toNat % 2 ^ 56 / 8 * 8 ∧ y.sys = true ∧ y.nest = x.nest + 1#4 ∧ y.status = .active ∧
       y.get64 0 = BitVec.ofNat 64 ((s.ctx b.slot).frameb.toNat + 2 ^ 25 * (64 * b.core + (b.owner.toNat / 16) % 64) + 0x200000 +
         0x4800 * tid + 0x480 * x.nest.toNat) ∧
       (∀ q, 2 ≤ q → y.get q = x.land.get q) ∧ y.preds = x.preds ∧ y.flags = x.land.flags ∧ y.amax = x.amax ∧ y.home = x.home ∧
       (∀ n k, ¬ (n = blk ∧ k = tid) → (s.enterLane blk tid r rpc).thread n k = u.thread n k) ∧
       (s.enterLane blk tid r rpc).mem = u.mem) ∧
  (∀ (s : State) (blk tid : Nat) (r : BitVec 512) (rpc : Addr) (b : Block) (x : Thread),
     s.block blk = some b → s.thread blk tid = some x → b.killed = false →
     ((s.ctx b.slot).tvec.toNat % 2 ^ 56 / 8 = 0 ∨ x.nest = 15#4) →
     let t := s.enterLane blk tid r rpc
     (t.ctx b.slot).killing = true ∧ (∃ q, t.faultWait = s.faultWait ++ [q] ∧ recKindOf q = 6 ∧ ∀ i, i < 512 → ¬ (8 ≤ i ∧ i < 12) →
       q.getLsbD i = if i = 34 then x.sys else if 256 ≤ i ∧ i < 320 then false else r.getLsbD i) ∧
     (∀ n c, t.block n = some c → c.slot = b.slot → c.killed = true ∧ c.life = .draining) ∧ BytesKept s t) ∧
  (∀ (s : State) (blk tid : Nat) (r : BitVec 512) (rpc : Addr) (b : Block) (x : Thread) (f : Code) (num va pa d : Nat),
     s.block blk = some b → s.thread blk tid = some x → b.killed = false → (s.ctx b.slot).tvec.toNat % 2 ^ 56 / 8 ≠ 0 → x.nest ≠ 15#4 →
     s.virtWrite (b.party blk true tid)
       ((s.ctx b.slot).frameb.toNat + 2 ^ 25 * (64 * b.core + (b.owner.toNat / 16) % 64) + 0x200000 + 0x4800 * tid + 0x480 * x.nest.toNat)
       (frameBytes x.land b.nregs (recPrv r x.sys) rpc) = .error (.fault f num va pa d) →
     let t := s.enterLane blk tid r rpc
     (t.ctx b.slot).killing = true ∧ (∃ q, t.faultWait = s.faultWait ++ [q] ∧ recKindOf q = 6 ∧
       (∀ i, i < 8 → q.getLsbD i = if f = .ecc then f.num.testBit i else r.getLsbD i) ∧ ∀ i, 12 ≤ i → i < 512 →
       q.getLsbD i = if i = 34 then x.sys else if 256 ≤ i ∧ i < 320 then f.num.testBit (i - 256) else r.getLsbD i) ∧
     (∀ n c, t.block n = some c → c.slot = b.slot → c.killed = true ∧ c.life = .draining) ∧ BytesKept s t)

/-- R371: the trap frame of a depth of a thread lies in its block's frame region where the rule says; and a frame holds, byte by byte, at 0x00 the
record, at 0x40 the address to resume at, at 0x48 the word of the predicates with p0 as 1, the flags, HOME and PRIV, at 0x4C `$amax`, from
0x50 zero, and from 0x80 the registers, each with its least significant byte first; reading the frame back gives them, and p0 is ignored
when a thread is restored from it. -/
def Obligations.FrameLayoutRoundTrip : Prop :=
  (∀ (s : State) (b : Block) (tid n : Nat), 1 ≤ n → s.trapFrame b tid n =
    (s.ctx b.slot).frameb.toNat + 2 ^ 25 * (64 * b.core + b.owner.toNat / 2 ^ 4 % 2 ^ 6) + 0x200000 + 0x4800 * tid + 0x480 * (n - 1)) ∧
  ∀ (x : Thread) (nregs : Nat) (r : BitVec 512) (rpc : Addr),
    let l := frameBytes x nregs r rpc
    /- Byte i of the frame. -/
    let is (i : Nat) (v : Byte) : Prop := l[i]? = some v
    l.length = 128 + 4 * nregs ∧
    (∀ i, i < 64 → is i (r.extractLsb' (8 * i) 8)) ∧
    (∀ i, i < 7 → is (0x40 + i) (rpc.extractLsb' (8 * i) 8)) ∧ is 0x47 0#8 ∧
    (∃ w : W32, (∀ i, i < 4 → is (0x48 + i) (w.extractLsb' (8 * i) 8)) ∧
      ∀ i, i < 32 → w.getLsbD i = if i = 0 then true else if i < 16 then x.preds.getLsbD i else if i < 21 then x.flags.getLsbD (i - 16)
        else if i = 21 then x.home else if i = 22 then x.sys else false) ∧
    (∀ i, i < 4 → is (0x4C + i) (x.amax.extractLsb' (8 * i) 8)) ∧
    (∀ i, i < 48 → is (0x50 + i) 0#8) ∧
    (∀ k i, k < nregs → i < 4 → is (0x80 + 4 * k + i) ((x.get k).extractLsb' (8 * i) 8)) ∧
    let f := parseFrame nregs (frameBytes x nregs r rpc)
    f.record = r ∧ f.rpc = rpc.toNat ∧ f.amax = x.amax ∧ f.regs = (List.range nregs).map x.get ∧
    f.word % 2 ^ 16 = (x.preds ||| 1#16).toNat ∧ f.word / 2 ^ 16 % 32 = x.flags.toNat ∧ f.word / 2 ^ 21 % 2 = x.home.toNat ∧
    f.word / 2 ^ 22 = x.sys.toNat ∧
    /- p0 is ignored on restore. -/
    ∀ (t : Thread) (tid v : Nat), v / 2 = f.word / 2 → t.restore tid { f with word := v } = t.restore tid f

/-- R147, R370: a `trap` takes every lane whose guard reads true to the handler, to resume after it; its record has KIND 1 and its number.
A `brk` does so, with KIND 2 and to resume at it, unless the context's debug stop is enabled: then it stops the context. R354, R375:
A lane of `eret` with NEST 0 raises ILL, and else user privilege PRIV, against every issued lane, as R79 is read (log 39); a frame that fails the checks raises ARG, and then no lane
returns. With every frame passing its checks, each lane returns: registers, predicates, flags, `$amax`, HOME, PRIV and pc are the
frame's, results still pending are dropped, which is the model's choice (log 91), and NEST is one less; a thread of a gate frame sleeps again, and another whose HOME is 0 is
filed in the basin of its pc (R38). -/
def Obligations.TrapsAndExceptionReturn : Prop :=
  (∀ (s : State) (o : NumOp) (b : Block), s.block s.cur.blk = some b →
     let l := s.active o.g
     let passed := s.onLanes fun _ x => if x.guard o.g then x else { x with pc := x.pc + 8#56 }
     (Completes (.trap o) s fun t => Takes passed t l { s.threadRec l with kind := 1, num := o.n.toNat } (s.cur.pc + 8#56)) ∧
     (l = [] → Completes (.brk o) s fun t => LanesOnly s t o.g fun _ _ _ => True) ∧
     (l ≠ [] → (s.ctx b.slot).dse = false →
       Completes (.brk o) s fun t => Takes passed t l { s.threadRec l with kind := 2, num := o.n.toNat } s.cur.pc) ∧
     (l ≠ [] → (s.ctx b.slot).dse = true → Completes (.brk o) s fun t =>
       ((t.ctx b.slot).halted = true ∨ (t.ctx b.slot).halt ≠ none) ∧ (t.ctx b.slot).dstat.getLsbD 0 = true ∧
       ∀ (tid : Nat) (x : Thread), tid ∈ s.cur.lanes → s.thread s.cur.blk tid = some x →
         t.thread s.cur.blk tid = some { x with atBrk := true })) ∧
  (∀ (s : State) (g : Guard) (b : Block), s.block s.cur.blk = some b → s.cur.lanes.Nodup →
     let low := s.lanesWhere g fun x => x.nest == 0#4
     (low ≠ [] → Completes (.eret g) s fun t => Faults s t (s.active g) (bareRec s low .ill) s.cur.pc) ∧
     (low = [] → s.lanesAt false ≠ [] → Completes (.eret g) s fun t => Faults s t s.cur.lanes (bareRec s s.cur.lanes .priv) s.cur.pc) ∧
     (low = [] → s.lanesAt false = [] → ∀ frame : Nat → Frame,
       Passes s g (fun tid x => ∃ u, s.readFrame b s.cur.blk tid x = .ok (frame tid, u) ∧ s.frameOk b (frame tid) = true) →
       Completes (.eret g) s fun t => ∀ (tid : Nat) (x : Thread), tid ∈ s.active g → s.thread s.cur.blk tid = some x →
         let f := frame tid
         let home := f.word / 2 ^ 21 % 2 == 1
         let gate := f.record.getLsbD 33
         ∃ y, t.thread s.cur.blk tid = some y ∧ y.nest = x.nest - 1#4 ∧ y.pc = BitVec.ofNat 56 f.rpc ∧
           (∀ i, i < f.regs.length → y.get i = f.regs.getD i 0#32) ∧ y.pend = [] ∧
           y.preds = BitVec.ofNat 16 f.word &&& 0xFFFE#16 ∧ y.flags = BitVec.ofNat 5 (f.word / 2 ^ 16) ∧
           y.amax = f.amax ∧ y.home = home ∧ y.sys = (f.word / 2 ^ 22 % 2 == 1) ∧ (home = true → y.barge = tid / 16) ∧
           (gate = true → y.status = .asleep) ∧ (gate = false → home = true → y.status = .active) ∧
           (gate = false → home = false → y.status = .active ∨ ∃ n k, y.status = .waiting (.basin y.pc n k))) ∧
     (low = [] → s.lanesAt false = [] → ∀ bad : List Nat, bad ≠ [] → bad = (s.active g).filter (bad.contains ·) →
       (∀ tid x, tid ∈ s.active g → s.thread s.cur.blk tid = some x →
         ∃ f u, s.readFrame b s.cur.blk tid x = .ok (f, u) ∧ s.frameOk b f = decide (tid ∉ bad)) →
       Completes (.eret g) s fun t => Faults s t (s.active g) (bareRec s bad .arg) s.cur.pc))

/-! ### Memory instructions (05_thread_instructions.md, 11_memory_instructions.md) -/

/-- R148, R329: where the access of every lane passes its checks, `ld` delivers to each the value at its address, extended as the size says,
after the acquire of a first access through an entry that its walk read. R150: `pref` only goes on: it writes no register, and never
faults; memory reads as before where none of its walks reads memory. When a result reaches the registers, at once or as a
pending result, is the model's choice (log 16). -/
def Obligations.LoadsAndPrefetches : Prop :=
  (∀ (s : State) (o : LdOp) (b : Block) (pl : Nat → Place), s.block s.cur.blk = some b →
     let n := match o.size with | .s8 | .z8 => 1 | .s16 | .z16 => 2 | .w32 => 4 | .w64 => 8 | .w128 => 16
     Passes s o.g (fun tid x => s.checkRead (b.party s.cur.blk x.sys tid) (effAddr x o.a o.ofs.toInt) n = .ok (pl tid)) →
     let u := Settled s b o.g (fun _ x => effAddr x o.a o.ofs.toInt) pl n
     Completes (.ld o) s fun t => LanesOnlyQuiet s u t b o.g (SomeRead s o.g pl) fun tid x y =>
       let v := leNat (u.dataOf b.core (pl tid) n)
       let l : List W32 := match o.size with
         | .s8 => [BitVec.ofInt 32 (BitVec.ofNat 8 v).toInt]
         | .s16 => [BitVec.ofInt 32 (BitVec.ofNat 16 v).toInt]
         | .z8 | .z16 | .w32 => [BitVec.ofNat 32 v]
         | .w64 => lePair v
         | .w128 => lePair v ++ lePair (v / 2 ^ 64)
       Delivers o.d.toNat l 0#5 true x y) ∧
  (∀ (s : State) (o : PrefOp), Completes (.pref o) s fun t => OthersKept s t s.cur.blk ∧
     (LaneChange s t fun _ x y => y = { x with pc := x.pc + 8#56 }) ∧
     ∀ b, s.block s.cur.blk = some b →
       Passes s o.g (fun _ x => ∀ pl, s.checkAt (b.party s.cur.blk x.sys) (effAddr x o.a o.ofs.toInt) 1 1 .read = .ok pl → pl.read = []) →
       BytesKept s t)

/-- R149, R151: where every lane passes its checks, `st` stores the low bytes of its registers at its address, in order of lane; every
other byte of memory keeps its value. A store to a line that the core holds private stays in its L1 while that has room for its line
(R245; log 64). R5, R216: bytes stored at a home read back as stored, and every other byte reads as before. That a store is at its home
in its own step is the model's choice (log 7). -/
def Obligations.StoresWriteMemory : Prop :=
  (∀ (s : State) (o : LdOp) (b : Block) (pl : Nat → Place), s.block s.cur.blk = some b →
     let n := match o.size with | .s8 | .z8 => 1 | .s16 | .z16 => 2 | .w32 => 4 | .w64 => 8 | .w128 => 16
     let data (x : Thread) : List Byte := (List.range n).map fun i => (x.get (o.d.toNat + i / 4)).extractLsb' (8 * (i % 4)) 8
     Passes s o.g (fun tid x => s.checkWrite (b.party s.cur.blk x.sys tid) (effAddr x o.a o.ofs.toInt) (data x)
       (o.ord == some .fabric && o.size == .w32) = .ok (pl tid)) →
     let u := Settled s b o.g (fun _ x => effAddr x o.a o.ofs.toInt) pl n
     Completes (.st o) s fun t => OthersKept s t s.cur.blk ∧ LaneChange s t (fun _ x y => y = { x with pc := x.pc + 8#56 }) ∧
       (¬ SomeRead s o.g pl → BytesKept s u) ∧
       ((s.ctx b.slot).traces 5 = false → StoresLand u t b.core (s.active o.g) (fun tid => (pl tid).loc)
         fun tid => ((s.thread s.cur.blk tid).map data).getD [])) ∧
  (∀ (s : State) (loc : Nat) (l : List Byte), (s.store loc l).bytes loc l.length = l ∧ BytesKeptBut s (s.store loc l) loc l.length)

/-- R151, R370: when the accesses of some lanes of a load or a store fault, no lane commits: every issued lane whose guard reads true
enters the handler, with the fault of the first faulting lane in the record and every faulting lane in its lane mask. R383: the words of the
line in which a lane finds an uncorrectable error are poisoned then. -/
def Obligations.MemoryFaultIsPrecise : Prop :=
  ∀ (s : State) (o : LdOp) (b : Block) (e : Nat → Option Stop), s.block s.cur.blk = some b →
    let n := match o.size with | .s8 | .z8 => 1 | .s16 | .z16 => 2 | .w32 => 4 | .w64 => 8 | .w128 => 16
    let data (x : Thread) : List Byte := (List.range n).map fun i => (x.get (o.d.toNat + i / 4)).extractLsb' (8 * (i % 4)) 8
    let stop (r : Except Stop Place) : Option Stop := match r with | .ok _ => none | .error f => some f
    let faulting := (s.active o.g).filter fun tid => (e tid).any Stop.isFault
    let takes (i : Instr) : Prop := ∀ tid0 l c num va pa d, faulting = tid0 :: l → e tid0 = some (.fault c num va pa d) →
      let u := l.foldl (fun (u : State) tid => ((e tid).map u.found).getD u) s
      Completes i s fun t => Faults (u.found (.fault c num va pa d)) t (s.active o.g)
        { s.threadRec faulting with code := c.num, num, va, pa, detail := d } s.cur.pc
    (Passes s o.g (fun tid x => stop (s.checkRead (b.party s.cur.blk x.sys tid) (effAddr x o.a o.ofs.toInt) n) = e tid) → takes (.ld o)) ∧
    (Passes s o.g (fun tid x => stop (s.checkWrite (b.party s.cur.blk x.sys tid) (effAddr x o.a o.ofs.toInt) (data x)
      (o.ord == some .fabric && o.size == .w32)) = e tid) → takes (.st o))

/-- R261-R263, R216: atomics and `cas` are performed at the home one lane after another: each lane gets the old value, and the new one stands
in memory; a home of another device performs its own, and its answer is the old value (log 12). With `.nr` no register is written. R261: the new value of each atomic operation, signed or unsigned, of 4 or of 8 bytes;
`.fadd` rounds once to nearest even. That an atomic performs at its home in the turn of its instruction, and when the old values reach the
registers, is the model's choice (log 7, log 16). -/
def Obligations.AtomicsServeLanesInOrder : Prop :=
  (∀ (s : State) (b : Block) (pl : Nat → Place), s.block s.cur.blk = some b → L1LinesWhole s → s.cur.lanes.Nodup →
     let reg (w : Bool) (x : Thread) (r : Reg) : Nat := if w then (x.get64 r.toNat).toNat else (x.get r.toNat).toNat
     let th (tid : Nat) : Thread := (s.thread s.cur.blk tid).getD (Thread.fresh 0#56 0)
     let done (g : Guard) (a d : Reg) (w nr : Bool) (new : Nat → Nat → Option Nat) (fl : Nat → Nat → Flags) (t : State) : Prop :=
       let n := if w then 8 else 4
       /- What the home of another device has answered (R216). -/
       let ans (tid : Nat) : Option Nat := (pl tid).ack.map fun i => leNat i.2
       let u := ((s.active g).filter fun tid => (ans tid).isNone).foldl (fun (u : State) tid => u.fetchHome (pl tid).loc)
         (Settled s b g (fun _ x => (x.get64 a.toNat).toNat) pl n)
       let r := served n new (fun tid => (pl tid).loc) ans (s.active g) u.byte
       OthersKept s t s.cur.blk ∧ ((s.ctx b.slot).traces 5 = false → ∀ a, t.byte a = r.2 a) ∧
       LaneChange s t fun tid x y => if x.guard g then
           Delivers d.toNat (if nr then [] else if w then lePair (r.1 tid) else [BitVec.ofNat 32 (r.1 tid)]) (fl tid (r.1 tid)) false x y
         else y = x.advance
     let check (tid : Nat) (x : Thread) (a : Reg) (r : Rmw) := s.checkRmw (b.party s.cur.blk x.sys tid) (x.get64 a.toNat).toNat r
     (∀ o : AtomOpd, (Instr.atom o).wf = true →
       let f (tid old : Nat) : Nat × Flags := atomNew o.op o.w old (reg o.w (th tid) o.b)
       let n := if o.w then 8 else 4
       Passes s o.g (fun tid x => check tid x o.a ⟨n, fun old => some (f tid old).1, .atom o.op, leBytes n (reg o.w x o.b),
         o.op == .add || o.op == .xchg, !o.w && releases o.ord && o.scope == .fabric⟩ = .ok (pl tid)) →
       Completes (.atom o) s (done o.g o.a o.d o.w o.nr (fun tid old => some (f tid old).1) fun tid old => (f tid old).2)) ∧
     (∀ o : CasOp,
       let new (tid old : Nat) : Option Nat := if old = reg o.w (th tid) o.b then some (reg o.w (th tid) o.c) else none
       let n := if o.w then 8 else 4
       Passes s o.g (fun tid x => check tid x o.a ⟨n, new tid, .cas, leBytes n (reg o.w x o.b) ++ leBytes n (reg o.w x o.c), true,
         !o.w && releases o.ord && o.scope == .fabric⟩ = .ok (pl tid)) →
       Completes (.cas o) s (done o.g o.a o.d o.w false new fun _ _ => 0#5))) ∧
  (∀ (w : Bool) (old b : Nat), old < (if w then 2 ^ 64 else 2 ^ 32) → b < (if w then 2 ^ 64 else 2 ^ 32) →
     let k : Nat := if w then 2 ^ 64 else 2 ^ 32
     let sg (v : Nat) : Int := if 2 * v < k then v else (v : Int) - k
     let is (op : AtomOp) (v : Nat) : Prop := atomNew op w old b = (v, 0#5)
     is .xchg b ∧ is .inc (if b ≤ old then 0 else old + 1) ∧ is .minu (Nat.min old b) ∧ is .maxu (Nat.max old b) ∧
     is .min (if sg b < sg old then b else old) ∧ is .max (if sg old < sg b then b else old) ∧ is .add ((old + b) % k) ∧
     is .and (old &&& b) ∧ is .or (old ||| b) ∧ is .xor (old ^^^ b) ∧
     (w = false → ∃ p fl, atomNew .fadd w old b = (p, fl) ∧
       (let x := fmtF32.decode old
        let y := fmtF32.decode b
        if x.isNan ∨ y.isNan then p = fmtF32.canonNan ∧ fl = fInvalid
        else match x, y with
          | .inf n, .inf m => if n = m then p = fmtF32.encode x ∧ fl = 0#5 else p = fmtF32.canonNan ∧ fl = fInvalid
          | .inf _, _ => p = fmtF32.encode x ∧ fl = 0#5
          | _, .inf _ => p = fmtF32.encode y ∧ fl = 0#5
          | _, _ => p = fmtF32.encode (roundTo fmtF32 .rne .sat (x.real + y.real) false).1 ∧
              fl = (roundTo fmtF32 .rne .sat (x.real + y.real) false).2)))

/-- R264, R282: an acquire fence waits for the earlier loads of its lanes; with a release the barge waits while an earlier write of one of its
lanes is outstanding, and takes TIMEOUT (R366) for one that was not acknowledged in time; else it goes on. The event of an
acknowledgement puts a thread none of whose writes is outstanding back to its fence, and lets a context none of whose writes is outstanding
go on, or end its lock (R50). A fence writes no memory and no register. R109, R102: the oldest pending result of a thread returns: its
registers take their values and its flags merge. That a fence that waits issues again is the model's form (log 25), and so are pending
results, those that have not returned (log 16). -/
def Obligations.FencesAndPendingResults : Prop :=
  ((∀ (s : State) (o : FenceOp) (b : Block), s.block s.cur.blk = some b →
     (o.kind ≠ .rel → (∃ tid x, tid ∈ s.active o.g ∧ s.thread s.cur.blk tid = some x ∧ x.pend ≠ []) →
       Completes (.fence o) s fun t => t = s) ∧
     ((o.kind = .rel ∨ Passes s o.g fun _ x => x.pend = []) →
       let held := o.kind ≠ .acq ∧ ∃ tid ∈ s.active o.g, s.unacked s.cur.blk (· == tid) = true
       let late := if o.kind = .acq then [] else (s.active o.g).filter fun tid => s.unanswered s.cur.blk (· == tid) != []
       let u := s.dropLate s.cur.blk (s.active o.g).contains
       (held → Completes (.fence o) s fun t => DeviceKept s t ∧ OthersKept s t s.cur.blk ∧
         LaneChange s t fun _ x y => y = { x with status := .stalled .fence }) ∧
       (¬ held → late = [] → Completes (.fence o) s fun t => OthersKept s t s.cur.blk ∧ BytesKept s t ∧
         LaneChange s t fun _ x y => y = { x with pc := x.pc + 8#56 }) ∧
       (∀ tid l w, ¬ held → late = tid :: l → (s.unanswered s.cur.blk (· == tid)).head? = some w → Completes (.fence o) s fun t =>
         Faults u t (s.active o.g) { u.threadRec late with code := Code.timeout.num, pa := w.ask.pa } s.cur.pc))) ∧
   (∀ (s : State) (blk tid : Nat) (b : Block) (x : Thread), s.block blk = some b → b.threads[tid]? = some x → x.status = .stalled .fence →
     let out := s.unacked blk (· == tid)
     let left := s.unacked blk agentOfTile
     Completes (.writeAcknowledgedAtHome blk tid) s fun t => DeviceKept s t ∧ OthersKept s t blk ∧
       t.thread blk tid = some (if out then x else { x with status := .active }) ∧
       (left = true ∨ b.tile.wait ≠ some .leaving → (∀ u, u ≠ tid → t.thread blk u = s.thread blk u) ∧ ∃ c, t.block blk = some c ∧
         c.inLock = b.inLock ∧ c.tile = if left = false ∧ b.tile.wait = some .fence then { b.tile with wait := none } else b.tile) ∧
       (left = false → b.tile.wait = some .leaving → ∃ c, t.block blk = some c ∧ c.inLock = false ∧ c.gate = none ∧ c.tile.views = [] ∧
         c.tile.wait = none ∧ ∀ (u : Nat) (y z : Thread), b.threads[u]? = some y → c.threads[u]? = some z → u ≠ tid →
           z = if y.status = .asleep then { y with status := .active, pc := b.gate.getD y.pc + 8#56 } else y))) ∧
  (∀ (s : State) (blk tid : Nat) (x : Thread) (p : Pending) (l : List Pending), s.thread blk tid = some x → x.pend = p :: l →
     Completes (.memoryResultReturn blk tid) s fun t => DeviceKept s t ∧ OthersKept s t blk ∧ ∃ y, t.thread blk tid = some y ∧
       y.pend = l ∧ y.flags = x.flags ||| p.fl ∧ (∀ r, (∀ w ∈ p.dst, w.1 ≠ r) → y.get r = x.get r) ∧
       ((p.dst.map Prod.fst).Nodup → ∀ w ∈ p.dst, y.get w.1 = w.2) ∧ { y with regs := x.regs, pend := x.pend, flags := x.flags } = x)

/-- R265: a `wait` whose condition holds of the word at its home, or of the word of the answer of another device, delivers it with 0 above it; one whose timeout has passed, with 1; any
other lane waits in a scheduler-visible wait, with its deadline. A write that meets the condition, the time to read another device's word
again, and the timeout put its lane back before the instruction. That
a waiting lane issues its instruction again is the model's form of the wait (log 25). -/
def Obligations.WaitOnMemory : Prop :=
  (∀ (s : State) (o : WaitOp) (b : Block) (pl : Nat → Place), s.block s.cur.blk = some b →
    Passes s o.g (fun tid x => s.checkRead (b.party s.cur.blk x.sys tid) (x.get64 o.a.toNat).toNat 4 = .ok (pl tid)) →
    Completes (.wait o) s fun t => OthersKept s t s.cur.blk ∧ LaneChange s t fun tid x y =>
      if x.guard o.g then
        let v := s.waitedWord (pl tid)
        let late := x.timedOut = true ∨ ∃ d, x.deadline = some d ∧ d ≤ s.clock
        if condHolds o.cond v (x.get o.b.toNat) = true ∨ late then
          ∃ z, Writes o.d.toNat [v, if condHolds o.cond v (x.get o.b.toNat) then 0#32 else 1#32] x z ∧
            y = { z with status := .active, deadline := none, timedOut := false }
        else y.pc = x.pc ∧ y.status = .waiting (.mem (pl tid).loc o.cond (x.get o.b.toNat)) ∧ y.regs = x.regs ∧
          y.deadline = if x.get o.c.toNat = 0#32 ∨ x.deadline ≠ none then x.deadline else some (s.clock + (x.get o.c.toNat).toNat)
      else y = x.advance) ∧
  (∀ (s : State) (blk tid : Nat) (x : Thread) (loc : Nat) (cond : Cond) (v : W32), s.thread blk tid = some x →
    x.status = .waiting (.mem loc cond v) →
    let becomes (i : Instr) (y : Thread) : Prop := Completes i s fun t => ThreadIs s t blk tid y
    let here := homeHere loc = true
    let met := condHolds cond (BitVec.ofNat 32 (leNat (s.homeBytes loc 4))) v = true
    (here → met → becomes (.memWaitWake blk tid) { x with status := .active }) ∧ (¬ here ∨ ¬ met → becomes (.memWaitWake blk tid) x) ∧
    (¬ here → becomes (.waitRemoteReread blk tid) { x with status := .active }) ∧ (here → becomes (.waitRemoteReread blk tid) x) ∧
    (∀ d, x.deadline = some d → d ≤ s.clock → becomes (.memWaitTimeout blk tid) { x with status := .active, timedOut := true }))

/-- R260, R241, R248, R249: tagged accesses. `ldr` delivers a reference field, `str` writes one and sets its tag, where the word is DRAM;
`tagld` delivers the tag of a word of an OBJ page, of the line of the core's L1 that serves it or of the home, and 0 elsewhere. That `str`
performs its tagged write in its own step, and when a result reaches the registers, is the model's choice (log 7, log 16), and that a
private line stays in an L1 while that has room is log 64. -/
def Obligations.TaggedAccesses : Prop :=
  ∀ (s : State) (b : Block), s.block s.cur.blk = some b →
    let after (g : Guard) (f : Nat → FieldAt) : State :=
      (s.settleHeaders b ((s.active g).map fun tid => (tid, f tid))).settle b s.cur.blk
        ((s.active g).map fun tid => ((f tid).va, (f tid).pl, 8))
    let read (g : Guard) (f : Nat → FieldAt) : Prop := ∃ tid ∈ s.active g, (f tid).pl.read ≠ [] ∨ (f tid).hdr.read ≠ []
    (∀ (o : LdrOp) (f : Nat → FieldAt), Passes s o.g (fun tid x => ldrCheck s b o tid x = .ok (f tid)) →
      let u := after o.g f
      Completes (.ldr o) s fun t => LanesOnlyQuiet s u t b o.g (read o.g f) fun tid x y =>
        Delivers o.d.toNat (lePair (leNat (u.dataOf b.core (f tid).pl 8))) 0#5 true x y) ∧
    (∀ (o : LdrOp) (f : Nat → FieldAt), Passes s o.g (fun tid x => strCheck s b o tid x = .ok (f tid)) →
      let u := after o.g f
      Completes (.str o) s fun t => OthersKept s t s.cur.blk ∧ LaneChange s t (fun _ x y => y = { x with pc := x.pc + 8#56 }) ∧
        (∀ tid ∈ s.active o.g, paDram (f tid).pl.loc = true → t.tag (f tid).pl.loc = true) ∧
        (∀ a, (∀ tid ∈ s.active o.g, paDram (f tid).pl.loc = true → a / 8 ≠ (f tid).pl.loc / 8) → t.tag a = s.tag a) ∧
        (¬ read o.g f → BytesKept s u) ∧
        ((s.ctx b.slot).traces 5 = false → StoresLand u t b.core (s.active o.g) (fun tid => (f tid).pl.loc) fun tid =>
          ((s.thread s.cur.blk tid).map fun x => leBytes 8 (x.get64 o.d.toNat).toNat).getD [])) ∧
    (∀ (o : TagOp) (pl : Nat → Place),
      Passes s o.g (fun tid x => s.checkAt (b.party s.cur.blk x.sys tid) (effAddr x o.a o.ofs.toInt) 1 1 .read = .ok (pl tid)) →
      Completes (.tagld o) s fun t => OthersKept s t s.cur.blk ∧
        (let u := Settled s b o.g (fun _ x => effAddr x o.a o.ofs.toInt) pl 1
         ((s.ctx b.slot).traces 5 = false → BytesKept u t ∧ (¬ SomeRead s o.g pl → BytesKept s t)) ∧
         LaneChange s t fun tid x y =>
          if x.guard o.g then Delivers o.d.toNat [if (pl tid).obj ∧ u.tagSeen b.core (pl tid).loc then 1#32 else 0#32] 0#5 true x y
          else y = x.advance))

/-- R247, R260: `objinit` on whole lines of OBJ pages, no two lanes' objects sharing one: while a walk holds one of the objects busy the barge
holds its instruction (R258); else, of lanes at system privilege, or of one lane at user privilege that passes the checks of R247 on tag and
owner, each header word is written with its tag, STATE private, the owner, LEN and USER; every field word is zero with a clear tag; each
line is private to the core; every other tag is as before, and every other byte as it was at its home. A lane at user privilege that fails
those checks takes its fault and writes nothing. That it performs in its own step is the model's choice (log 7). -/
def Obligations.ObjectInitialisation : Prop :=
  ∀ (s : State) (o : TagOp) (b : Block) (pls : Nat → List Place), s.block s.cur.blk = some b → s.cur.lanes.Nodup →
    (s.ctx b.slot).traces 5 = false → L1LinesWhole s →
    Passes s o.g (fun tid x => objinitCheck s b o x = .ok (pls tid) ∧ (∀ p ∈ pls tid, p.loc % 128 = 0 ∧ p.loc < 2 ^ 52) ∧
      ((pls tid).map Place.loc).Nodup) →
    (∀ u v, u ∈ s.active o.g → v ∈ s.active o.g → u ≠ v → ∀ p ∈ pls u, ∀ q ∈ pls v, p.loc ≠ q.loc) →
    let len (x : Thread) : Nat := (x.get o.d.toNat).toNat % 2 ^ 20
    let user (x : Thread) : Nat := (x.get (o.d.toNat + 1)).toNat % 2 ^ 20
    let word (tid f : Nat) : Nat := (((pls tid)[f / 16]?).map Place.loc).getD 0 + 8 * (f % 16)
    let busy := ∃ tid ∈ s.active o.g, s.busyAt (word tid 0) = true
    let owned (tid : Nat) (x : Thread) : Except Stop Unit :=
      objinitOwner s b.owner.toNat (effAddr x o.a o.ofs.toInt) (len x) (pls tid)
    let made : Prop := Completes (.objinit o) s fun t => OthersKept s t s.cur.blk ∧ AllGoOn s t ∧
      Passes s o.g (fun tid x => t.word (word tid 0) 8 = 2 ^ 62 + b.owner.toNat * 2 ^ 40 + len x * 2 ^ 20 + user x ∧
        t.tag (word tid 0) = true ∧ (∀ f, 0 < f → f ≤ len x → t.word (word tid f) 8 = 0 ∧ t.tag (word tid f) = false) ∧
        ∀ p ∈ pls tid, t.ownedBy b.core p.loc = true) ∧
      /- A location in none of the objects' words. -/
      ∀ a, Passes s o.g (fun tid x => ∀ f, f ≤ len x → a / 8 ≠ word tid f / 8) →
        t.tag a = s.tag a ∧ (t.byte a = s.byte a ∨ [t.byte a] = s.homeBytes a 1)
    (busy → Completes (.objinit o) s fun t => t = s) ∧
    (¬ busy → Passes s o.g (fun _ x => x.sys = true) → (∀ tid ∈ s.active o.g, ∀ p ∈ pls tid, p.read = []) → made) ∧
    (∀ tid x, ¬ busy → s.active o.g = [tid] → s.thread s.cur.blk tid = some x → x.sys = true ∨ owned tid x = .ok () → made) ∧
    (∀ tid x c num va pa d, ¬ busy → s.active o.g = [tid] → s.thread s.cur.blk tid = some x → x.sys = false →
      owned tid x = .error (.fault c num va pa d) → Completes (.objinit o) s fun t =>
        Faults (s.found (.fault c num va pa d)) t [tid] { s.threadRec [tid] with code := c.num, num, va, pa, detail := d } s.cur.pc)

/-- R251, R252, R260, R417: `pub` hands the walk of each lane to the reach walker of the issuing die, and the barge waits for them. How
far the walker goes in one turn is the model's choice (log 17). -/
def Obligations.PublicationWaitsForWalks : Prop :=
  ∀ (s : State) (o : PubOp) (b : Block) (at_ : Nat → Nat × Place), s.block s.cur.blk = some b →
    Passes s o.g (fun tid x => pubCheck s b o tid x = .ok (at_ tid)) →
    (s.active o.g = [] → Completes (.pub o) s fun t => LanesOnly s t o.g fun _ _ _ => True) ∧
    (s.active o.g ≠ [] → (∀ e ∈ (s.die (b.core / 96)).walks, e.2.all fun u => !u.suspended) →
      Completes (.pub o) s fun t => OthersKept s t s.cur.blk ∧ BytesKept s t ∧
        LaneChange s t (fun _ x y => y = { x with status := .stalled .pub, pub := some (if x.guard o.g then .run else .skip) }) ∧
        ∃ l, (t.die (b.core / 96)).walkQueue = (s.die (b.core / 96)).walkQueue ++ l ∧ l.map Walk.tid = s.active o.g ∧
          ∀ w ∈ l, w.blk = s.cur.blk ∧ w.core = b.core ∧ w.slot = b.slot ∧ w.scope = o.scope ∧ w.va = (at_ w.tid).1 ∧
            w.destObj = (at_ w.tid).2.obj ∧ w.marked = [] ∧
            ∀ x, s.thread s.cur.blk w.tid = some x →
              w.base = (x.get64 o.a.toNat).toNat ∧ w.ref = (x.get64 o.d.toNat).toNat ∧ w.stack = [w.ref] ∧ w.sys = x.sys)

/-! ### Queues and the KV pool -/

/-- R266: `qsz.cnt` delivers the number of entries; `qsz.init` by the first lane opens an endpoint over a span of the block's scratchpad
and hands every lane its handle, with a new generation; `qsz.fin` closes a queue that is empty. R267, R237: lanes push in order while
the queue has room, each entry into the slot of the tail; lanes pop in order while it has entries, each the entry at the head; the lanes
that find it full or empty wait, in a scheduler-visible wait, and those of a barge that wait at one instruction go on together when the
queue can serve the one named. A push and a pop perform at the queue in their own step (log 7), the counters are one number each (log 30), and
a waiting lane issues its instruction again (log 25). -/
def Obligations.QueuesBetweenBlocks : Prop :=
  (∀ (s : State) (b : Block), s.block s.cur.blk = some b →
     (∀ o : EndOp, (s.endpoint b.core o.e.toNat).owner = some s.cur.blk →
       Completes (.qszCnt o) s fun t => LanesOnly s t o.g fun _ x y =>
         Writes o.d.toNat [BitVec.ofNat 32 ((s.endpoint b.core o.e.toNat).tail - (s.endpoint b.core o.e.toNat).head)] x y) ∧
     (∀ (o : QInitOp) (tid : Nat) (l : List Nat) (x : Thread), s.active o.g = tid :: l → s.thread s.cur.blk tid = some x →
       let a := (x.get64 o.a.toNat).toNat
       let v := (x.get o.b.toNat).toNat
       let p := s.endpoint b.core o.e.toNat
       a / 2 ^ 20 = 0x00FF000000000000 / 2 ^ 20 → a % 16 = 0 → v % 8 ≤ 4 → v / 8 % 32 = 0 → v / 2 ^ 16 = 0 → v / 256 ≠ 0 →
       b.scrLen ≠ 0 → b.scrOff ≤ a % 2 ^ 20 → a % 2 ^ 20 + 4 * 2 ^ (v % 8) * (v / 256) ≤ b.scrOff + b.scrLen →
       (p.owner = none ∨ p.owner = some s.cur.blk) → p.opened = false →
       Completes (.qszInit o) s fun t =>
         t.endpoint b.core o.e.toNat = ⟨some s.cur.blk, true, p.gen + 1#4, a % 2 ^ 20, 4 * 2 ^ (v % 8), v / 256, 0, 0⟩ ∧
         OthersKept s t s.cur.blk ∧ BytesKept s t ∧ LaneChange s t fun _ x y => if x.guard o.g then
           Writes o.d.toNat [BitVec.ofNat 32 (o.e.toNat + b.core % 96 * 2 ^ 4 + b.core / 96 * 2 ^ 11 + (p.gen + 1#4).toNat * 2 ^ 16)] x y
         else y = x.advance) ∧
     (∀ o : QFinOp, (s.endpoint b.core o.e.toNat).owner = some s.cur.blk →
       ((s.endpoint b.core o.e.toNat).opened = false ∨ (s.endpoint b.core o.e.toNat).head = (s.endpoint b.core o.e.toNat).tail) →
       s.active o.g ≠ [] → Completes (.qszFin o) s fun t =>
         t.endpoint b.core o.e.toNat = { s.endpoint b.core o.e.toNat with opened := false, owner := none } ∧
         OthersKept s t s.cur.blk ∧ BytesKept s t ∧ LaneChange s t fun _ x y => y = x.advance)) ∧
  (∀ (s : State) (b : Block), s.block s.cur.blk = some b → s.cur.lanes.Nodup →
     (∀ (o : R2) (core e : Nat) (x : Endpoint),
       Passes s o.g (fun _ th => s.handleEnd b (th.get o.a.toNat) = some (core, e, x)) → o.d.toNat + x.esz / 4 ≤ b.nregs →
       let k := ((List.range (s.active o.g).length).filter fun i => x.tail + i - x.head < x.nslot).length
       let loc (i : Nat) : Nat := 2 ^ 52 + 2 ^ 20 * core + (x.base + x.esz * ((x.tail + i) % x.nslot))
       Completes (.qpush o) s fun t => OthersKept s t s.cur.blk ∧
         (s.active o.g ≠ [] → t.endpoint core e = { x with tail := x.tail + k }) ∧
         (LaneChange s t fun tid th y => if th.guard o.g then
             if (s.active o.g).idxOf tid < k then y = waitOver th.advance else y = { th with status := .waiting (.queue core e true) }
           else y = th.advance) ∧
         ((s.ctx b.slot).traces 5 = false → ∀ a, (∀ i, i < k → a < loc i ∨ loc i + 4 * (x.esz / 4) ≤ a) → t.byte a = s.byte a) ∧
         ((s.ctx b.slot).traces 5 = false → k ≤ x.nslot → ∀ (i tid : Nat) (th : Thread), i < k → (s.active o.g)[i]? = some tid → s.thread s.cur.blk tid = some th →
           t.bytes (loc i) (4 * (x.esz / 4)) = ((List.range (x.esz / 4)).map fun j => th.get (o.d.toNat + j)).flatMap fun v => leBytes 4 v.toNat)) ∧
     /- Lanes that name several queues, each with room for all of them. -/
     (∀ (o : R2) (q : Nat → Nat × Nat × Endpoint),
       let n (tid : Nat) : Nat := ((s.active o.g).filter fun u => (q u).1 == (q tid).1 && (q u).2.1 == (q tid).2.1).length
       Passes s o.g (fun tid th => s.handleEnd b (th.get o.a.toNat) = some (q tid) ∧ o.d.toNat + (q tid).2.2.esz / 4 ≤ b.nregs ∧
         0 < (q tid).2.2.nslot ∧ (q tid).2.2.tail + n tid ≤ (q tid).2.2.nslot + (q tid).2.2.head) →
       Completes (.qpush o) s fun t => OthersKept s t s.cur.blk ∧
         (LaneChange s t fun _ th y => y = if th.guard o.g then waitOver th.advance else th.advance) ∧
         ∀ tid ∈ s.active o.g, t.endpoint (q tid).1 (q tid).2.1 = { (q tid).2.2 with tail := (q tid).2.2.tail + n tid }) ∧
     (∀ o : EndOp,
       let x := s.endpoint b.core o.e.toNat
       x.opened = true → x.owner = some s.cur.blk → o.d.toNat + x.esz / 4 ≤ b.nregs →
       (∀ i, x.head ≤ i → i < x.tail → s.entryRead b.core i x = .ok ()) →
       Completes (.qpop o) s fun t => OthersKept s t s.cur.blk ∧ ((s.ctx b.slot).traces 5 = false → BytesKept s t) ∧
         t.endpoint b.core o.e.toNat = { x with head := x.head + Nat.min (x.tail - x.head) (s.active o.g).length } ∧
         LaneChange s t fun tid th y =>
           let i := (s.active o.g).idxOf tid
           if th.guard o.g then
             if i < x.tail - x.head then ∃ z, Writes o.d.toNat ((List.range (x.esz / 4)).map fun k => BitVec.ofNat 32
                 (s.word (2 ^ 52 + 2 ^ 20 * b.core + (x.base + x.esz * ((x.head + i) % x.nslot)) + 4 * k) 4)) th z ∧ y = waitOver z
             else y = { th with status := .waiting (.queue b.core o.e.toNat false) }
           else y = th.advance)) ∧
  (∀ (s : State) (blk tid core e : Nat) (push : Bool) (b : Block) (x : Thread), s.block blk = some b → b.threads[tid]? = some x →
     x.status = .waiting (.queue core e push) →
     let p := s.endpoint core e
     let served := p.opened = false ∨ (push = true ∧ p.tail - p.head < p.nslot) ∨ (push = false ∧ p.head < p.tail)
     (¬ served → Completes (.queueWaitWake blk tid) s fun t => t = s) ∧
     (served → Completes (.queueWaitWake blk tid) s fun t => WakesBeside s t blk b x Wait.isQueue false))

/-- R193, R196, R216: the reference counts of KV pages. Where every lane names a page of the pool, each a page of its own, each descriptor
changes at its home as its instruction says, and its lane receives the resulting counts and marks; a claim of a page that is not free fails
without a change; a home of another device makes the change itself, and has answered the descriptor that it found (log 12). Every other
byte reads at its home as before. The changes are made in the instruction's own step (log 7), and the results return as pending ones (log
16). -/
def Obligations.KvReferenceCounts : Prop :=
  ∀ (s : State) (o : KvOp) (b : Block) (f : Nat → DescAt), s.block s.cur.blk = some b → s.cur.lanes.Nodup → L1LinesWhole s →
    (s.ctx b.slot).traces 5 = false →
    (∀ t u, t ∈ s.active o.g → u ∈ s.active o.g → t ≠ u → (f t).loc + 16 ≤ (f u).loc ∨ (f u).loc + 16 ≤ (f t).loc) →
    let n := o.n.toNat
    let go (i : Instr) (op : HomeOp) (ok : Desc → Prop) (new : Desc → Desc × Bool) : Prop :=
      Passes s o.g (fun tid x => (x.get64 o.a.toNat).toNat / 2 ^ 40 = 0 ∧
        s.descAt (b.party s.cur.blk x.sys tid) ((s.ctx b.slot).kvpool.toNat % 2 ^ 52) (x.get64 o.a.toNat).toNat op [BitVec.ofNat 8 n] =
          .ok (f tid)) →
      (∀ tid ∈ s.active o.g, ok (s.descFound (f tid))) →
      Completes i s fun t => OthersKept s t s.cur.blk ∧
        (∀ a, (∀ tid ∈ s.active o.g, (f tid).old = none → a < (f tid).loc ∨ (f tid).loc + 16 ≤ a) → t.homeBytes a 1 = s.homeBytes a 1) ∧
        (∀ tid ∈ s.active o.g, (f tid).old = none → t.desc (f tid).loc = (new (s.desc (f tid).loc)).1) ∧
        LaneChange s t fun tid x y => if x.guard o.g then
            let d := new (s.descFound (f tid))
            y = { x with pc := x.pc + 8#56, pend := x.pend ++ [⟨[(o.d.toNat, BitVec.ofNat 32 d.1.ref),
              (o.d.toNat + 1, BitVec.ofNat 32 (d.2.toNat * 2 ^ 31 + d.1.free.toNat * 2 ^ 17 + d.1.fp.toNat * 2 ^ 16 + d.1.pin))], 0#5, false⟩] }
          else y = x.advance
    go (.kvref o) .kvref (fun d => d.free = false ∧ d.ref + n < 2 ^ 32) (fun d => ({ d with ref := d.ref + n, fp := false }, false)) ∧
    go (.kvrefClaim o) .kvrefClaim (fun _ => True) (fun d => if d.free then ({ d with ref := n, free := false }, false) else (d, true)) ∧
    go (.kvunref o) .kvunref (fun d => n ≤ d.ref) (fun d =>
      if d.ref = n then (if d.pin = 0 then { d with ref := 0, free := true } else { d with ref := 0, fp := true }, false)
      else ({ d with ref := d.ref - n }, false))

/-! ### Barriers, tile barriers, windows (11_memory_instructions.md, 07_attention_kv.md) -/

/-- R283, R284: `bari` by lanes that agree configures a free leaf barrier; `barr` adds its lanes and bytes, and a leaf whose arrivals and
bytes meet their expectations flips its phase, or reports to the cluster root; `barw` passes a lane once the phase differs from the
one it saw, and the event of its wait looks again; the root's broadcast flips every leaf that has reported. A waiting lane issues its
instruction again (log 25). -/
def Obligations.BarrierTree : Prop :=
  (∀ (s : State) (b : Block), s.block s.cur.blk = some b →
    (∀ (o : BariOp) (tid : Nat) (l : List Nat) (x : Thread), s.active o.g = tid :: l → s.thread s.cur.blk tid = some x →
      let a := (x.get o.a.toNat).toNat
      let v := (x.get o.b.toNat).toNat
      let f := s.leaf b.core o.n.toNat
      0 < a → a < 2 ^ 16 → v / 2 % 2 ^ 7 = 0 → v / 2 ^ 11 = 0 →
      Passes s o.g (fun _ y => y.get o.a.toNat = x.get o.a.toNat ∧ y.get o.b.toNat = x.get o.b.toNat) →
      (f.owner = none ∨ f.owner = some s.cur.blk) → f.cnt = 0 → f.xb = 0 → f.ab = 0 →
      Completes (.bari o) s fun t => OthersKept s t s.cur.blk ∧ BytesKept s t ∧ AllGoOn s t ∧
        (∀ n, n ≠ o.n.toNat → t.leaf b.core n = s.leaf b.core n) ∧
        t.leaf b.core o.n.toNat = { f with owner := some s.cur.blk, exp := a, clu := v % 2 = 1, rc := v / 2 ^ 8 % 8 + 1 }) ∧
    (∀ o : BarrOp,
      let f := s.leaf b.core o.n.toNat
      f.owner = some s.cur.blk → f.cnt + (s.active o.g).length ≤ f.exp →
      let cnt := f.cnt + (s.active o.g).length
      let xb := f.xb + match o.x with
        | none => 0
        | some r => ((s.active o.g).map fun tid => ((s.thread s.cur.blk tid).map fun x => (x.get r.toNat).toNat).getD 0).sum
      let root := 16 * (b.core / 8) + o.n.toNat
      Completes (.barr o) s fun t => OthersKept s t s.cur.blk ∧ BytesKept s t ∧ AllGoOn s t ∧
        (∀ n, n ≠ o.n.toNat → t.leaf b.core n = s.leaf b.core n) ∧
        if f.reported = false ∧ cnt = f.exp ∧ f.ab = xb then
          if f.clu then t.leaf b.core o.n.toNat = { f with cnt, xb, reported := true } ∧ Tbl.get 0 t.roots root = Tbl.get 0 s.roots root + 1
          else t.leaf b.core o.n.toNat = { f with ph := !f.ph, cnt := 0, xb := 0, ab := 0 } ∧ t.roots = s.roots
        else t.leaf b.core o.n.toNat = { f with cnt, xb } ∧ t.roots = s.roots) ∧
    (∀ o : BarwOp, ((s.leaf b.core o.n.toNat).owner = some s.cur.blk ∨ s.active o.g = []) →
      let ph := (s.leaf b.core o.n.toNat).ph
      Completes (.barw o) s fun t => OthersKept s t s.cur.blk ∧ BytesKept s t ∧ LaneChange s t fun _ x y =>
        if x.guard o.g then
          let saw := (x.get o.a.toNat).getLsbD 0
          if saw = ph then y = { x with status := .waiting (.barw o.n.toNat saw) }
          else ∃ z, Writes o.d.toNat [if ph then 1#32 else 0#32] x z ∧ y = waitOver z
        else y = x.advance)) ∧
  (∀ (s : State) (blk tid n : Nat) (saw : Bool) (b : Block) (x : Thread), s.block blk = some b → b.threads[tid]? = some x →
    x.status = .waiting (.barw n saw) →
    Completes (.barwWake blk tid) s fun t => ThreadIs s t blk tid (if (s.leaf b.core n).ph = saw then x else { x with status := .active })) ∧
  (∀ (s : State) (clu n i : Nat), i < 8 → (s.leaf (8 * clu + i) n).reported = true →
    (s.leaf (8 * clu + i) n).rc ≤ Tbl.get 0 s.roots (16 * clu + n) →
    (∀ j, j < 8 → (s.leaf (8 * clu + j) n).reported = true → (s.leaf (8 * clu + j) n).rc = (s.leaf (8 * clu + i) n).rc) →
    Completes (.rootBroadcast clu n) s fun t => t.blocks = s.blocks ∧ BytesKept s t ∧ Tbl.get 0 t.roots (16 * clu + n) = 0 ∧
      ∀ j, j < 8 → let f := s.leaf (8 * clu + j) n
        t.leaf (8 * clu + j) n = if f.reported then { f with ph := !f.ph, cnt := 0, xb := 0, ab := 0, reported := false } else f)

/-- R208-R211, R288: `tbw` passes once the tile is with the correction block, else its threads wait, and the event of the wait lets them
look again; at `tba` the threads wait until every live thread of the block has come to it, and then CARR advances modulo 2^16 and they
go on; between the two, `accld` reads and `accst` writes the words of the tile for threads ordered after a `tbw`, and of words that
several lanes write a higher lane's stand. The words of a tile are numbered as in `accAt`, KARR and CARR are the words 1 and 2 of
`accSide`. Word 3, what orders a thread after a `tbw` and what stands in a tile outside the phases of R211 are the model's own (log 34, log
75), and so is that a waiting lane issues its `tbw` again (log 25). -/
def Obligations.TileHandover : Prop :=
  ∀ (s : State) (b : Block) (x : Nat) (y : Block), s.block s.cur.blk = some b → b.correction = true → s.served b = some (x, y) →
    x ≠ s.cur.blk →
    let karr (z : Block) (t : AReg) : W32 := z.tile.accWord (accSide t.toNat 1)
    let carr (z : Block) (t : AReg) : W32 := z.tile.accWord (accSide t.toNat 2)
    let mine (t : AReg) : Prop := t.toNat < y.accTiles ∧ (karr y t - carr y t).toNat % 2 ^ 16 = 1
    (∀ o : TileOp, s.active o.g ≠ [] → o.t.toNat < y.accTiles →
      (mine o.t → Completes (.tbw o) s fun t => BytesKept s t ∧
        (∃ z, t.block x = some z ∧ { z with tile := { z.tile with acc := y.tile.acc } } = y ∧
          ∀ i, i ≠ accSide o.t.toNat 3 → z.tile.accWord i = y.tile.accWord i) ∧
        LaneChange s t fun _ u v => v =
          if u.guard o.g then { waitOver u.advance with tiles := u.tiles ||| 1#64 <<< o.t.toNat } else u.advance) ∧
      (¬ mine o.t → Completes (.tbw o) s fun t => DeviceKept s t ∧ OthersKept s t s.cur.blk ∧
        LaneChange s t fun _ u v => v = if u.guard o.g then { u with status := .waiting (.tileBar o.t.toNat) } else u.advance) ∧
      ((∃ tid u, tid ∉ s.active o.g ∧ b.threads[tid]? = some u ∧ u.status ≠ .exited ∧ ∀ k, u.status ≠ .waiting (.tba k)) →
        Completes (.tba o) s fun t => DeviceKept s t ∧ OthersKept s t s.cur.blk ∧
          LaneChange s t fun _ u v => v = if u.guard o.g then { u with status := .waiting (.tba o.t.toNat) } else u.advance) ∧
      (mine o.t → s.active o.g = s.cur.lanes →
        (∀ (tid : Nat) (u : Thread), b.threads[tid]? = some u → tid ∈ s.active o.g ∨ u.status = .exited ∨ u.status = .waiting (.tba o.t.toNat)) →
        Completes (.tba o) s fun t => BytesKept s t ∧
          (∃ z, t.block x = some z ∧ { z with tile := { z.tile with acc := y.tile.acc } } = y ∧ karr z o.t = karr y o.t ∧
            (carr z o.t).toNat = ((carr y o.t).toNat + 1) % 2 ^ 16 ∧
            ∀ i, i ≠ accSide o.t.toNat 2 → i ≠ accSide o.t.toNat 3 → z.tile.accWord i = y.tile.accWord i) ∧
          ∀ (tid : Nat) (u : Thread), b.threads[tid]? = some u → t.thread s.cur.blk tid = some
            (let z := { u with tiles := u.tiles &&& ~~~(1#64 <<< o.t.toNat) }
             if tid ∈ s.active o.g ∨ u.status = .waiting (.tba o.t.toNat) then { z with pc := u.pc + 8#56, status := .active } else z))) ∧
    (∀ tile, (y.tile.accWord (accSide tile 1) - y.tile.accWord (accSide tile 2)).toNat % 2 ^ 16 = 1 →
      Completes (.tbwWake s.cur.blk tile) s fun t => DeviceKept s t ∧ OthersKept s t s.cur.blk ∧
        ∀ (tid : Nat) (u : Thread), b.threads[tid]? = some u →
          t.thread s.cur.blk tid = some (if u.status = .waiting (.tileBar tile) then { u with status := .active } else u)) ∧
    (∀ o : AccOp, mine o.t → (y.tile.accWord (accSide o.t.toNat 3)).getLsbD 1 = true →
      let n := match o.w with | .w1 => 1 | .w2 => 2 | .w4 => 4 | .w8 => 8
      let at_ (u : Thread) (i : Nat) : Nat := accAt o.t.toNat ((u.get o.a.toNat).toNat % 32) ((u.get o.a.toNat).toNat / 32 + i)
      o.d.toNat + n ≤ b.nregs → Passes s o.g (fun _ u => (u.get o.a.toNat).toNat / 32 + n ≤ 35 ∧ u.tiles.getLsbD o.t.toNat = true) →
      (Completes (.accld o) s fun t => LanesOnly s t o.g fun _ u v =>
        Writes o.d.toNat ((List.range n).map fun i => y.tile.accWord (at_ u i)) u v) ∧
      (s.active o.g ≠ [] → Completes (.accst o) s fun t => BytesKept s t ∧ AllGoOn s t ∧
        ∃ z, t.block x = some z ∧ { z with tile := { z.tile with acc := y.tile.acc } } = y ∧
          ∀ i, z.tile.accWord i = (s.active o.g).foldl (fun w tid => (List.range n).foldl (fun w k =>
            match s.thread s.cur.blk tid with
            | none => w
            | some u => if at_ u k = i then u.get (o.d.toNat + k) else w) w) (y.tile.accWord i)))

/-- R233, R234, R285: where every lane names 128 aligned bytes of the block's scratchpad, and the block has at most 16 windows then,
`wopen` opens its windows and delivers the address at which cluster peers reach each; `wclose` closes open windows, once no write of
another block's context is in flight to one (log 72). R238, R286, R287, R343, R410: `subsc` and `unsubsc` of one lane take up and end a
subscription, once the deliveries in flight of the window have performed; `vwait` passes a lane once the version of its copy has reached
the one it names, modulo 2^32, or its timeout has passed, and else waits (with TF = 1 the timeout raises RING instead, with the handle in
the detail word), until the event of its wait finds that version; the fabric's data and version flits are written to every copy of their
window, of a window of this device in the order of their sending. The version of a window that another device produces is a free value
(log 6); `vwait` without a subscription is no case of this statement (log 27). That a lane that waits issues its `vwait` again (log 25), what is
held of the fabric's deliveries (log 80), and that pair B of `subsc` is a physical address (log 82), are the model's choice. -/
def Obligations.ScratchpadAndCastWindows : Prop :=
  (∀ (s : State) (b : Block), s.block s.cur.blk = some b →
     let fits (va : Nat) : Prop := va / 2 ^ 20 = 0x00FF000000000000 / 2 ^ 20 ∧ va % 128 = 0 ∧ b.scrLen ≠ 0 ∧ b.scrOff ≤ va % 2 ^ 20 ∧
       va % 2 ^ 20 + 128 ≤ b.scrOff + b.scrLen
     let offs (g : Guard) (a : Reg) : List Nat :=
       (s.active g).filterMap fun tid => (s.thread s.cur.blk tid).map fun x => (x.get64 a.toNat).toNat % 2 ^ 20
     (∀ o : R2f, Passes s o.g (fun _ x => fits (x.get64 o.a.toNat).toNat) → (b.windows.map (·.off) ++ offs o.g o.a).dedup.length ≤ 16 →
       Completes (.wopen o) s fun t => DeviceKept s t ∧ OthersKept s t s.cur.blk ∧ LaneChangeAnd s t
         (fun b c => { c with threads := b.threads, windows := b.windows } = b ∧
           ∀ w, w ∈ c.windows ↔ if w.off ∈ offs o.g o.a then w.sw = o.f else w ∈ b.windows)
         fun _ x y => if x.guard o.g then
           Writes o.d.toNat (pair (BitVec.ofNat 64 (0x00FF010000000000 + b.core % 8 * 2 ^ 20 + (x.get64 o.a.toNat).toNat % 2 ^ 20))) x y
         else y = x.advance) ∧
     (∀ o : RegOp,
       Passes s o.g (fun _ x => fits (x.get64 o.a.toNat).toNat ∧ ∃ w ∈ b.windows, w.off = (x.get64 o.a.toNat).toNat % 2 ^ 20) →
       (s.windowsBusy s.cur.blk b (offs o.g o.a) = true → Completes (.wclose o) s fun t => t = s) ∧
       (s.windowsBusy s.cur.blk b (offs o.g o.a) = false →
         Completes (.wclose o) s fun t => DeviceKept s t ∧ OthersKept s t s.cur.blk ∧ LaneChangeAnd s t
           (fun b c => { c with threads := b.threads, windows := b.windows } = b ∧
             ∀ w, w ∈ c.windows ↔ w ∈ b.windows ∧ w.off ∉ offs o.g o.a)
           fun _ x y => y = x.advance))) ∧
  ((∀ (s : State) (b : Block) (tid : Nat) (x : Thread), s.block s.cur.blk = some b → s.thread s.cur.blk tid = some x →
     (∀ (o : R3) (z : Nat), s.active o.g = [tid] →
       let h := x.get o.a.toNat
       let base := (x.get64 o.b.toNat).toNat
       /- The deliveries in flight of the window have performed. -/
       let u := s.flushCasts h
       castGrant s.fabricNum h (s.ctx b.slot).casts = .ok z →
       base % z = 0 → paDram base = true → paDram (base + z - 1) = true →
       (∀ u ∈ (s.ctx b.slot).subs, u.handle ≠ h) → (s.ctx b.slot).subs.length < 64 → L1LinesWhole s →
       Completes (.subsc o) s fun t => OthersKept s t s.cur.blk ∧ (t.ctx b.slot).subs = (s.ctx b.slot).subs ++ [⟨h, base, z⟩] ∧
         (∀ a, a < base ∨ base + 4 ≤ a → t.homeBytes a 1 = u.homeBytes a 1) ∧
         ∃ v : W32, t.word base 4 = v.toNat ∧
           v = (match (s.ctxs.flatMap fun e => s.produced e.2).find? fun w => w.handle == h with
             | some w => BitVec.ofNat 32 (u.word w.base 4)
             | none => Config.freeBits s.free 32) ∧
           LaneChange s t fun _ u y => if u.guard o.g then Writes o.d.toNat [v] u y else y = u.advance) ∧
     (∀ (o : RegOp) (u : Sub), s.active o.g = [tid] → u ∈ (s.ctx b.slot).subs → u.handle = x.get o.a.toNat →
       Completes (.unsubsc o) s fun t => OthersKept s t s.cur.blk ∧ BytesKept (s.flushCasts (x.get o.a.toNat)) t ∧ AllGoOn s t ∧
         ∀ w, w ∈ (t.ctx b.slot).subs ↔ w ∈ (s.ctx b.slot).subs ∧ w.handle ≠ x.get o.a.toNat)) ∧
   (∀ (s : State) (b : Block) (o : VwaitOp) (sub : Nat → Sub), s.block s.cur.blk = some b →
     let late (x : Thread) : Prop := x.timedOut = true ∨ ∃ d, x.deadline = some d ∧ d ≤ s.clock
     let ver (tid : Nat) : W32 := BitVec.ofNat 32 (leNat (s.homeBytes (sub tid).base 4))
     Passes s o.g (fun tid x => ((s.ctx b.slot).subs.find? fun u => u.handle == x.get o.a.toNat) = some (sub tid) ∧
       s.versionRead (sub tid) = .ok (ver tid) ∧ (o.tf = true → late x → 0 ≤ (ver tid - x.get o.b.toNat).toInt)) →
     Completes (.vwait o) s fun t => OthersKept s t s.cur.blk ∧ ((s.ctx b.slot).traces 5 = false → BytesKept s t) ∧ LaneChange s t fun tid x y =>
       if x.guard o.g then
         if 0 ≤ (ver tid - x.get o.b.toNat).toInt then ∃ z, Writes o.d.toNat [ver tid, 0#32] x z ∧ y = waitOver z
         else if late x then ∃ z, Writes o.d.toNat [ver tid, 1#32] x z ∧ y = waitOver z
         else
           let d := if x.get o.c.toNat = 0#32 ∨ x.deadline ≠ none then x.deadline else some (s.clock + (x.get o.c.toNat).toNat)
           y = { x with status := .waiting (.vwait (x.get o.a.toNat) (x.get o.b.toNat)), deadline := d }
       else y = x.advance) ∧
   (∀ (s : State) (b : Block) (o : VwaitOp) (tid d : Nat) (x : Thread) (u : Sub), s.block s.cur.blk = some b → s.active o.g = [tid] →
     s.thread s.cur.blk tid = some x → ((s.ctx b.slot).subs.find? fun u => u.handle == x.get o.a.toNat) = some u →
     o.tf = true → x.deadline = some d → d ≤ s.clock → ∀ v : W32, s.versionRead u = .ok v → (v - x.get o.b.toNat).toInt < 0 →
     Completes (.vwait o) s fun t =>
       Faults s t [tid] { s.threadRec [tid] with code := Code.ring.num, detail := (x.get o.a.toNat).toNat } s.cur.pc) ∧
   (∀ (s : State) (blk tid : Nat) (b : Block) (x : Thread) (h v : W32), s.block blk = some b → b.threads[tid]? = some x →
     x.status = .waiting (.vwait h v) →
     let has (u : Sub) : Prop := 0 ≤ (BitVec.ofNat 32 (leNat (s.homeBytes u.base 4)) - v).toInt
     let becomes (y : Thread) : Prop := Completes (.vwaitWake blk tid) s fun t => ThreadIs s t blk tid y
     (∀ u, ((s.ctx b.slot).subs.find? fun u => u.handle == h) = some u →
       (has u → becomes { x with status := .active }) ∧ (¬ has u → becomes x)) ∧
     (((s.ctx b.slot).subs.find? fun u => u.handle == h) = none → becomes { x with status := .active }) ∧
     ∀ d, x.deadline = some d → d ≤ s.clock → Completes (.vwaitTimeout blk tid) s fun t =>
       ThreadIs s t blk tid { x with status := .active, timedOut := true }) ∧
   (∀ (s : State) (h v : W32) (off : Nat) (data : List Byte),
     let due (x : Flit) : Prop := if s.ownWindow h then x ∈ s.casting ∧ ∀ y ∈ s.casting.takeWhile (· != x), y.precedes x = false
       else s.route.isSome = true
     (¬ due (.castWrite h off data) ∨ 232 < data.length → Completes (.castWriteFlit h off data) s fun t => t = s) ∧
     (¬ due (.version h v) → Completes (.versionAdvanceFlit h v) s fun t => t = s) ∧
     ((s.copiesOf h).Pairwise (fun x y => x.base + x.size ≤ y.base ∨ y.base + y.size ≤ x.base) → (∀ x ∈ s.copiesOf h, 4 ≤ x.size) →
       (due (.castWrite h off data) → data.length ≤ 232 → Completes (.castWriteFlit h off data) s fun t => t.blocks = s.blocks ∧
         (∀ x ∈ s.copiesOf h, off + data.length ≤ x.size → t.bytes (x.base + off) data.length = data) ∧
         ∀ a, (∀ x ∈ s.copiesOf h, a < x.base + off ∨ x.base + off + data.length ≤ a) → t.byte a = s.byte a) ∧
       (due (.version h v) → Completes (.versionAdvanceFlit h v) s fun t => t.blocks = s.blocks ∧
         (∀ x ∈ s.copiesOf h, t.word x.base 4 = v.toNat) ∧
         ∀ a, (∀ x ∈ s.copiesOf h, a < x.base ∨ x.base + 4 ≤ a) → t.byte a = s.byte a))))

/-! ### Copy commands (11_memory_instructions.md R268-R281) -/

/-- R268-R271, R274, R275, R277: copy commands of threads. Where the channel is open to every lane and the checks pass, the lanes of a `cpy`
or `cpn` receive, in order, the next transfer IDs and their commands join the channel, as far as it has room; the lanes past that, and all
the lanes where it is shut to one, hold un-issued. `cwait` lets its lanes go on together once the ID of every lane is complete, raising
a fault that the channel keeps for them, and else they wait, till the event of the wait finds every ID complete; `cstat` delivers CB and
the commands in progress, with the fault that is to come, or raises one that has; `cabort` ends the commands of the block's threads, and
with K of its context too. R201, R268-R271, R278-R281, R102: copy commands of tile contexts. With room on the channel and the checks passed,
the command joins the channel with the next transfer ID, and the rows that it takes of a stream are passed over at the next step; else the
context waits. `ccwt` waits until at most N commands of the context on its channel are incomplete, `fwait` until none of an earlier bundle
is on any channel of its mask, and then the flags of the completed copies merge, or the fault of one is noted against the slot. That
`cabort` completes in its own step is the model's choice (log 7), and so is the form of the waits (log 25). -/
def Obligations.CopyCommands : Prop :=
  ((∀ (s : State) (b : Block), s.block s.cur.blk = some b → s.cur.lanes.Nodup →
     /- What becomes of the lanes of a copy instruction: `what` gives the movement that a lane asks for and its barrier. -/
     let issues (i : Instr) (g : Guard) (d : Reg) (ch : Nat) (scope : Scope) (what : Nat → Thread → CmdKind × Option (BitVec 4))
         (bytes : State → Prop) : Prop :=
       let c := s.chan b.core ch
       let k := 6 - c.cmds.length
       let who := (s.active g).take k
       Completes i s fun t => bytes t ∧ OthersKept s t s.cur.blk ∧
         (∀ core n, core ≠ b.core ∨ n ≠ ch → t.chan core n = s.chan core n) ∧
         (t.chan b.core ch).cb = c.cb ∧ (t.chan b.core ch).next = c.next + BitVec.ofNat 32 who.length ∧
         (t.chan b.core ch).cmds = c.cmds ++ (who.zipIdx.filterMap fun e => (s.thread s.cur.blk e.1).map fun x => {
           id := c.next + BitVec.ofNat 32 e.2, seq := b.nextCmd + e.2, blk := s.cur.blk, ctx := false, tid := e.1, scope,
           kind := (what e.1 x).1, sys := x.sys, baddr := s.cur.pc, ring := none, bar := (what e.1 x).2, next := 0, step := b.tile.step,
           pool := (s.ctx b.slot).kvpool.toNat % 2 ^ 52, pins := [], past := 0, rd := [], wr := [], finished := false, faulted := false,
           paused := false, slot0 := 0, fl := 0#5, parked := none, lastPark := none : Cmd }) ∧
         LaneChangeAnd s t (fun b c => { c with threads := b.threads, nextCmd := b.nextCmd } = b ∧ c.nextCmd = b.nextCmd + who.length)
           fun tid x y =>
             let n := (s.active g).idxOf tid
             if x.guard g then
               if n < k then Writes d.toNat [c.next + BitVec.ofNat 32 n] x y else y = { x with status := .stalled (.channel ch) }
             else y = x.advance
     let shut (g : Guard) (ch : Nat) : Prop := ∃ tid ∈ s.active g, s.chanShut b.core ch (b.clusterOf tid) = true
     let holds (i : Instr) (g : Guard) (ch : Nat) : Prop := shut g ch → Completes i s fun t => DeviceKept s t ∧ OthersKept s t s.cur.blk ∧
       LaneChange s t fun _ x y => y = { x with status := .stalled (.channel ch) }
     (∀ o : CpyOp,
       let a (x : Thread) : Nat := (x.get64 o.a.toNat).toNat
       let e (x : Thread) : Nat := (x.get64 o.b.toNat).toNat
       let n (x : Thread) : Nat := (x.get o.c.toNat).toNat
       let w (x : Thread) : W32 := x.get (o.c.toNat + 1)
       let ks := match o.cv with | some c => elemBytes c.ts 1 | none => 1
       let kd := match o.cv with | some c => elemBytes c.td 1 | none => 1
       let kind (x : Thread) : CmdKind := .nest (a x) (e x) (n x) [] o.cv
       let bar (x : Thread) : Option (BitVec 4) := if (w x).getLsbD 4 then some ((w x).setWidth 4) else none
       holds (.cpy o) o.g o.ch.toNat ∧
       (¬ shut o.g o.ch.toNat →
         Passes s o.g (fun tid x => a x < 2 ^ 56 ∧ e x < 2 ^ 56 ∧ a x % ks = 0 ∧ e x % kd = 0 ∧ 0 < n x ∧ (w x).toNat < 32 ∧
           s.askCheck b (b.party s.cur.blk x.sys tid) ⟨kind x, [extentOf (a x) (n x * ks)], [extentOf (e x) (n x * kd)],
             (some (a x), some (e x)), none, bar x, []⟩ = .ok ()) →
         issues (.cpy o) o.g o.d o.ch.toNat o.scope (fun _ x => (kind x, bar x)) (BytesKept s))) ∧
     (∀ (o : CpnOp) (d : Nat → NestDesc) (s1 : Nat → State) (k : Nat → Ask),
       holds (.cpn o) o.g o.ch.toNat ∧
       (¬ shut o.g o.ch.toNat →
         Passes s o.g (fun tid x => readNest s (b.party s.cur.blk x.sys tid) (x.get64 o.a.toNat).toNat = .ok (d tid, s1 tid) ∧
           nestAsk (d tid) 0 none = .ok (k tid) ∧ s.askCheck b (b.party s.cur.blk x.sys tid) (k tid) = .ok ()) →
         let nests (tid : Nat) (_ : Thread) : CmdKind × Option (BitVec 4) :=
           (.nest (d tid).sb (d tid).db (d tid).len (d tid).levels (d tid).cv, (d tid).bar)
         /- One lane; or lanes whose reads of their descriptors change nothing. -/
         (∀ tid, s.active o.g = [tid] → issues (.cpn o) o.g o.d o.ch.toNat o.scope nests fun t =>
           (s.ctx b.slot).traces 5 = false → BytesKept (s1 tid) t) ∧
         ((∀ tid ∈ s.active o.g, s1 tid = s) → issues (.cpn o) o.g o.d o.ch.toNat o.scope nests fun t =>
           (s.ctx b.slot).traces 5 = false → BytesKept s t))) ∧
     (∀ o : CwaitOp,
       let ch := o.ch.toNat
       let c := s.chan b.core ch
       Passes s o.g (fun _ x => ((c.next - 1#32) - x.get o.a.toNat).toNat < 2 ^ 31) →
       let all := ∀ (tid : Nat) (x : Thread), tid ∈ s.active o.g → s.thread s.cur.blk tid = some x → (c.cb - x.get o.a.toNat).toNat < 2 ^ 31
       /- The lanes to which a fault with a transfer ID belongs. -/
       let hit (id : W32) := (s.active o.g).filter fun tid =>
         (s.thread s.cur.blk tid).any fun x => decide ((x.get o.a.toNat - id).toNat < 2 ^ 31)
       (¬ all → Completes (.cwait o) s fun t => DeviceKept s t ∧ OthersKept s t s.cur.blk ∧
         LaneChange s t fun _ x y => y = if x.guard o.g then { x with status := .waiting (.cwait ch (x.get o.a.toNat)) } else x.advance) ∧
       (all → (∀ id r, (c.rec_ s.cur.blk false).flt = some (id, r) → hit id = []) → Completes (.cwait o) s fun t =>
         BytesKept s t ∧ OthersKept s t s.cur.blk ∧ LaneChange s t fun tid x y =>
           let mine := (c.rec_ s.cur.blk false).flags.filter fun f => f.2.1 == tid && decide ((x.get o.a.toNat - f.1).toNat < 2 ^ 31)
           y = { x with pc := x.pc + 8#56, flags := if x.guard o.g then x.flags ||| orFlags (mine.map fun f => f.2.2.2) else x.flags }) ∧
       (∀ id r, all → (c.rec_ s.cur.blk false).flt = some (id, r) → hit id ≠ [] → Completes (.cwait o) s fun t =>
         t = (s.clearFlt b.core ch s.cur.blk false).enterLanes s.cur.blk (s.active o.g) ((s.threadRec (hit id)).bits ||| recPrv r false)
           s.cur.pc)) ∧
     (∀ o : CstatOp,
       let c := s.chan b.core o.ch.toNat
       let flt := (c.rec_ s.cur.blk false).flt
       let n := (c.cmds.filter fun m => m.blk == s.cur.blk && !m.ctx).length % 256
       let gives (w : W32) : Prop := Completes (.cstat o) s fun t => BytesKept s t ∧ OthersKept s t s.cur.blk ∧
         LaneChange s t fun _ x y => if x.guard o.g then Writes o.d.toNat [c.cb, w] x y else y = x.advance
       (flt = none ∨ s.active o.g = [] → gives (BitVec.ofNat 32 n)) ∧
       (∀ id r, s.active o.g ≠ [] → flt = some (id, r) →
         (2 ^ 31 ≤ (c.cb - id).toNat → gives (BitVec.ofNat 32 (n + r.toNat % 256 * 2 ^ 16 + 2 ^ 31))) ∧
         ((c.cb - id).toNat < 2 ^ 31 → Completes (.cstat o) s fun t =>
           t = (s.clearFlt b.core o.ch.toNat s.cur.blk false).enterLanes s.cur.blk (s.active o.g)
             ((s.threadRec (s.active o.g)).bits ||| recPrv r false) s.cur.pc))) ∧
     (∀ o : CabortOp,
       let ch := o.ch.toNat
       let mine (m : Cmd) : Prop := m.blk = s.cur.blk ∧ (o.k = true ∨ m.ctx = false)
       Completes (.cabort o) s fun t => (s.active o.g = [] → t.cores = s.cores ∧ OthersKept s t s.cur.blk ∧ BytesKept s t) ∧
         (s.active o.g ≠ [] → (∀ m ∈ (t.chan b.core ch).cmds, mine m → m.finished = true ∧ m.faulted = true) ∧
           ((t.chan b.core ch).rec_ s.cur.blk false).flt = none ∧ (o.k = true → ((t.chan b.core ch).rec_ s.cur.blk true).flt = none) ∧
           (((s.chan b.core ch).cmds.map Cmd.id).Nodup → ∀ m ∈ (s.chan b.core ch).cmds, ¬ mine m → m.finished = false →
             m ∈ (t.chan b.core ch).cmds)) ∧
         (∀ n, n ≠ ch → t.chan b.core n = s.chan b.core n) ∧
         LaneChangeAnd s t (fun b c => { c with threads := b.threads, tile := b.tile, ringHold := b.ringHold } = b) fun _ x y => y = x.advance)) ∧
   (∀ (s : State) (blk tid ch : Nat) (n : W32) (b : Block) (x : Thread), s.block blk = some b → b.threads[tid]? = some x →
     x.status = .waiting (.cwait ch n) →
     let all := ∀ y ∈ b.threads, y.barge = x.barge → y.pc = x.pc → ∀ c k, y.status = .waiting (.cwait c k) →
       ((s.chan b.core c).cb - k).toNat < 2 ^ 31
     (all → Completes (.cwaitWake blk tid) s fun t => WakesBeside s t blk b x Wait.isCwait false) ∧
     (¬ all → Completes (.cwaitWake blk tid) s fun t => t = s))) ∧
  (∀ (s : State) (b : Block),
     let p := b.engine s.cur.blk s.cur.slot
     let go (i : Instr) (w : Slot) (ch : Nat) (ask : Except Stop (Ask × State)) (adv : List (SReg × Int)) (is : Ask → Prop) : Prop :=
       Issues s w.q b →
       let c := s.chan b.core ch
       let waits := 6 ≤ c.cmds.length ∨ (b.cx = some 1 ∧ s.channelCtx b.core ch 0 = true)
       (waits → Completes i s fun t => TileWaits s t (.channel ch)) ∧
       (∀ k s1, ¬ waits → ask = .ok (k, s1) → s1.askCheck b p k = .ok () → is k ∧ Completes i s fun t =>
         OthersKept s t s.cur.blk ∧ ((s1.ctx b.slot).traces 5 = false → BytesKept s1 t) ∧ (t.chan b.core ch).next = c.next + 1#32 ∧ (t.chan b.core ch).cb = c.cb ∧
         (∃ m : Cmd, (t.chan b.core ch).cmds = c.cmds ++ [m] ∧ m.id = c.next ∧ m.seq = b.nextCmd ∧ m.blk = s.cur.blk ∧
           m.ctx = true ∧ m.sys = false ∧ m.scope = s.cur.scope ∧ m.baddr = s.cur.baddr ∧ m.step = b.tile.step ∧
           m.pool = (s1.ctx b.slot).kvpool.toNat % 2 ^ 52 ∧ m.kind = k.kind ∧ m.bar = k.bar ∧ m.ring.map (fun r => (r.1, r.2.1)) = k.ring ∧
           m.next = 0 ∧ m.pins = [] ∧ m.finished = false ∧ m.faulted = false ∧ m.paused = false) ∧
         ∃ c, t.block s.cur.blk = some c ∧ { c with nextCmd := b.nextCmd, tile := { c.tile with fly := b.tile.fly } } = b ∧
           c.nextCmd = b.nextCmd + 1 ∧ c.tile.fly.Perm (b.tile.fly ++ adv.map fun x =>
             ⟨b.tile.step + 1, b.tile.step, s.cur.slot, s.cur.baddr, .advance x.1 x.2, 0#5⟩))
     /- Fields of the operand pair of a copy of streams (R278, R201, R280). -/
     let f (o : CcpyOp) (i n : Nat) : Nat := (b.tile.kreg o.a).toNat / 2 ^ i % 2 ^ n
     let raw (r : SReg) := b.tile.sraw r
     (∀ o : CcpyOp, go (.ccpy o) o.w o.ch.toNat (ccpyAsk o b p s)
       ((o.s, (f o 0 16 : Int)) :: if (streamOf (raw o.d)).rg then [] else [(o.d, (f o 0 16 : Int))]) fun k =>
         k.kind = .rows (raw o.s) (raw o.d) (f o 0 16) ∧ k.bar = (if f o 28 1 = 1 then some (BitVec.ofNat 4 (f o 24 4)) else none) ∧
         k.ring = if (streamOf (raw o.d)).rg then some ((streamOf (raw o.d)).ring, f o 16 8) else none) ∧
     (∀ o : CcpnOp, go (.ccpn o) o.w o.ch.toNat (ccpnAsk o.a b p s) [] fun k =>
       ∃ d s1, readNest s p (b.tile.kreg o.a).toNat = .ok (d, s1) ∧ k.kind = .nest d.sb d.db d.len d.levels d.cv ∧ k.bar = d.bar ∧
         k.ring = none) ∧
     (∀ o : CcpnRingOp, go (.ccpnRing o) o.w o.ch.toNat (ccpnRingAsk o.a o.c (o.n.toNat + 1) b p s) [] fun k =>
       ∃ d s1, readNest s p (b.tile.kreg o.a).toNat = .ok (d, s1) ∧
         k.kind = .nest d.sb (d.db + s.nextSlot b s.cur.blk o.c) d.len d.levels d.cv ∧ k.bar = d.bar ∧
         k.ring = some (o.c, o.n.toNat + 1)) ∧
     (∀ o : CcpyOp, go (.cgath o) o.w o.ch.toNat (cgathAsk o b p s) [] fun k =>
       (∃ fr, k.kind = .gather (raw o.s) (raw o.d) (f o 0 32) (f o 32 8) fr) ∧ k.bar = none ∧
         k.ring = some ((streamOf (raw o.d)).ring, f o 32 8)) ∧
     (∀ o : CcpyOp, go (.cscat o) o.w o.ch.toNat (cscatAsk o b p s) [(o.s, (16 * f o 32 8 : Nat))] fun k =>
       k.kind = .scatter (raw o.s) (raw o.d) (f o 0 32) (f o 32 8) ∧ k.bar = none ∧ k.ring = none) ∧
     (∀ (i : Instr) (q : QReg) (n : Nat) (chs : List Nat) (counts : Cmd → Bool), Issues s q b →
       ((∃ o : CcwtOp, i = .ccwt o ∧ q = o.w.q ∧ n = o.n.toNat ∧ chs = [o.ch.toNat] ∧ counts = fun _ => true) ∨
         (∃ o : FnumOp, i = .fwait o ∧ q = o.q ∧ n = 0 ∧ (chs = (List.range 8).filter fun c => o.n.getLsbD c) ∧
           counts = fun m => m.step != b.tile.step)) →
       let c (ch : Nat) : Chan := s.chan b.core ch
       let left (ch : Nat) : Nat := ((c ch).cmds.filter fun m => m.blk == s.cur.blk && m.ctx && counts m).length
       let raises (ch : Nat) (r : BitVec 512) : Prop :=
         ∃ id, ((c ch).rec_ s.cur.blk true).flt = some (id, r) ∧ ((c ch).cb - id).toNat < 2 ^ 31
       ((∃ ch ∈ chs, n < left ch) → Completes i s fun t => TileWaits s t .copy) ∧
       ((∀ ch ∈ chs, left ch ≤ n) → (∀ ch ∈ chs, ∀ r, ¬ raises ch r) → Completes i s fun t =>
         BytesKept s t ∧ OthersKept s t s.cur.blk ∧ (∀ ch ∈ chs, ((t.chan b.core ch).rec_ s.cur.blk true).flags = []) ∧
         ∃ z, t.block s.cur.blk = some z ∧ { z with tile := { z.tile with fflags := b.tile.fflags, capt := b.tile.capt } } = b ∧
           (∀ j, j ≠ 4 → Tbl.get 0#64 z.tile.fflags j = Tbl.get 0#64 b.tile.fflags j) ∧
           (Tbl.get 0#64 z.tile.fflags 4).extractLsb' 0 5 = (Tbl.get 0#64 b.tile.fflags 4).extractLsb' 0 5 |||
             orFlags (chs.flatMap fun ch => ((c ch).rec_ s.cur.blk true).flags.map fun e => e.2.2.2)) ∧
       (∀ pre ch post r, (∀ ch ∈ chs, left ch ≤ n) → chs = pre ++ ch :: post → (∀ e ∈ pre, ∀ r, ¬ raises e r) → raises ch r →
         Completes i s fun t =>
           t = { s.clearFlt b.core ch s.cur.blk true with
             cur := { s.cur with tileFault := some (s.cur.slot, (s.slotRec b).bits ||| recPrv r false) } })))

/-- R268-R272, R274, R203, R280: what the copy channels do. A command whose movement meets no fault completes in order of ID: CB takes its
ID; the bytes of a copy inside the block's scratchpad, with source and destination apart, arrive as they stood. A gather or scatter
takes its blocks one by one, first pinning the page of a block and then moving its rows. A command of which an access meets a watchpoint
pauses with what it has done (R389). A fault is kept for the observer of the channel; and with room again, the first issuer that waits for the channel comes to issue: the primary context, the secondary, then the lane
clusters, an entry granted to a context being its own. Commands move as a whole at the event of their completion, which is the model's
choice (log 10). -/
def Obligations.CopyChannels : Prop :=
  (∀ (s : State) (core ch : Nat) (m : Cmd) (l : List Cmd) (b : Block) (so de n : Nat),
    (s.chan core ch).cmds = m :: l → m.finished = false → m.paused = false → m.parked = none → m.past = 0 → m.rd = [] → m.wr = [] →
    s.block m.blk = some b → b.core = core → b.killed = false → (s.ctx b.slot).killing = false → b.stoppedExited = false →
    (∀ x ∈ l, x.finished = false ∧ x.id ≠ m.id) → m.ring = none →
    m.kind = .nest (0x00FF000000000000 + so) (0x00FF000000000000 + de) n [] none →
    0 < n → b.scrOff ≤ so → b.scrOff ≤ de → so + n ≤ b.scrOff + b.scrLen → de + n ≤ b.scrOff + b.scrLen → b.scrOff + b.scrLen ≤ 2 ^ 20 →
    (so + n ≤ de ∨ de + n ≤ so) → (∀ e ∈ s.ctxs, s.produced e.2 = []) → (s.ctx b.slot).wpc = [] → (s.ctx b.slot).traces 6 = false →
    (∀ i, i < n → Tbl.get 0 s.poison ((2 ^ 52 + 2 ^ 20 * core + so + i) / 16) = 0 ∧
      Tbl.get 0 s.bad ((2 ^ 52 + 2 ^ 20 * core + so + i) / 16) = 0) →
    Completes (.copyCommandComplete core ch m.id) s fun t =>
      (t.chan core ch).cb = m.id ∧ (t.chan core ch).cmds = l ∧
      t.bytes (2 ^ 52 + 2 ^ 20 * core + de) n = s.bytes (2 ^ 52 + 2 ^ 20 * core + so) n ∧ BytesKeptBut s t (2 ^ 52 + 2 ^ 20 * core + de) n) ∧
  (∀ (s : State) (core ch : Nat) (id : W32) (m : Cmd) (b : Block), s.running core ch id = some (m, b) →
    (∀ (mv : Move) (l : List Cmd), s.moveCmd b m = .ok (some mv) → (s.chan core ch).cmds = m :: l → (∀ x ∈ l, x.finished = false ∧ x.id ≠ id) →
      (s.ctx b.slot).wpc = [] → m.faulted = false → b.stoppedExited = false →
      Completes (.copyCommandComplete core ch id) s fun t => (t.chan core ch).cb = id ∧ (t.chan core ch).cmds = l) ∧
    (∀ s1, s.nextBlockStep b m = some (.ok (.wait s1)) → Completes (.gatherBlock core ch id) s fun t => t = s1) ∧
    (∀ x d mv, s.nextBlockStep b m = some (.ok (.pinned x d mv)) → (s.chan core ch).cmds = [m] → mv.hit = none →
      Completes (.gatherBlock core ch id) s fun t => BytesKept mv.st t ∧ t.blocks = mv.st.blocks ∧
        (t.chan core ch).cmds = [{ m with pins := [(x, d)], past := 0, lastPark := none }]) ∧
    (∀ mv, s.nextBlockStep b m = some (.ok (.done mv)) → (s.chan core ch).cmds = [m] →
      (mv.hit = none → Completes (.gatherBlock core ch id) s fun t => BytesKept mv.st t ∧ (t.chan core ch).cmds =
        [{ m with next := m.next + 1, past := 0, pins := [], rd := mv.rd, wr := mv.wr, lastPark := none, fl := m.fl ||| mv.fl }]) ∧
      (∀ h, mv.hit = some h → Completes (.gatherBlock core ch id) s fun t => (t.chan core ch).cmds =
        [{ m with past := mv.seen, rd := mv.rd, wr := mv.wr, paused := true }] ∧
        ((t.ctx b.slot).halted = true ∨ (t.ctx b.slot).halt ≠ none))) ∧
    (∀ c num va pa d, s.nextBlockStep b m = none → s.moveCmd b m = .error (.fault c num va pa d) →
      ((s.chan core ch).rec_ m.blk m.ctx).flt = none → Completes (.commandFault core ch id) s fun t =>
        ∃ r, ((t.chan core ch).rec_ m.blk m.ctx).flt = some (id, r) ∧ (r.setWidth 8).toNat = c.num)) ∧
  (∀ (s : State) (core ch : Nat), (s.chan core ch).cmds.length < 6 →
    (∀ (blk cx : Nat) (b : Block), s.block blk = some b → b.core = core → b.cx = some cx → b.tile.wait = some (.channel ch) → s.mayIssue b = true →
      cx = 0 ∨ (cx = 1 ∧ s.channelCtx core ch 0 = false) →
      Completes (.commandAcceptAfterBackpressure core ch) s fun t => BytesKept s t ∧ t.cores = s.cores ∧
        t.block blk = some { b with tile := { b.tile with wait := some (.granted ch) } }) ∧
    (∀ (clu blk key : Nat), s.channelCtx core ch 0 = false → s.channelCtx core ch 1 = false → clu < 8 →
      s.channelBarge core ch clu = some (blk, key) → (∀ c, c < clu → s.channelBarge core ch c = none) →
      Completes (.commandAcceptAfterBackpressure core ch) s fun t => DeviceKept s t ∧ OthersKept s t blk ∧
        ∀ tid x, s.thread blk tid = some x → t.thread blk tid = some
          (if x.barge = key ∧ x.status = .stalled (.channel ch) then { x with status := .active } else x)))

/-! ### System registers, debug registers, maintenance (15_system_instructions.md, 14_isolation.md, 18_observation.md) -/

/-- R101, R103, R346-R351, R353: `sysr` delivers the register that its code names, of the context slot that a management thread gives or
of the thread's own; `sysw` of one lane whose value passes its checks changes that register's writable fields, and nothing else of the
slot. The events that the opcode table lists for the writes of CTXST, AGE, PSTAT, WALKSTK and FQBASE do the same. Which values a write
refuses where R346-R351 are silent is the model's choice (log 36). -/
def Obligations.SystemRegisters : Prop :=
  let value (s : State) (x : Thread) (n : Nat) (tile : Option Tile) (c : SysReg) : Nat :=
    let k := s.ctx n
    let ff (i : Nat) : Nat := (tile.map fun u => (Tbl.get 0#64 u.fflags i).toNat).getD 0
    match c with
    | .pstat => x.sys.toNat + 2 * x.noStop.toNat + 16 * x.nest.toNat
    | .tvec => k.tvec.toNat | .frameb => k.frameb.toNat | .ctxid => n | .asid => k.asid.toNat | .ptroot => k.ptroot.toNat
    | .ctxst => k.loaded.toNat + 4 * k.killing.toNat + 256 * k.part.toNat
    | .dpbound => k.dpbound.toNat | .age => k.age.toNat | .detmode => k.det.toNat | .kvpool => k.kvpool.toNat
    | .walkstk => k.walkstk.toNat | .casttb => k.casttb.toNat | .xtrig => 4 * k.halted.toNat + 8 * k.dse.toNat
    | .fflags0 => ff 0 | .fflags1 => ff 1 | .fflags2 => ff 2 | .fflags3 => ff 3 | .fflags4 => ff 4 | .fflags5 => ff 5
    | .cntthr => s.cntthr.toNat | .nqbase => s.nqbase.toNat | .fqbase => s.fqbase.toNat
  let secret (c : SysReg) : Prop := c ∈ [SysReg.tvec, .frameb, .ptroot, .kvpool, .walkstk, .casttb, .xtrig, .nqbase, .fqbase]
  let flag (c : SysReg) : Prop := c ∈ [SysReg.fflags0, .fflags1, .fflags2, .fflags3, .fflags4, .fflags5]
  /- What a write that changes only a slot's fields leaves. -/
  let slotIs (s t : State) (n : Nat) (c : Ctx) : Prop :=
    t.ctx n = c ∧ (∀ m, m ≠ n → t.ctx m = s.ctx m) ∧ BytesKept s t ∧ t.cores = s.cores ∧ t.cntthr = s.cntthr ∧ t.nqbase = s.nqbase ∧
      t.fqbase = s.fqbase
  (∀ (s : State) (b : Block), s.block s.cur.blk = some b →
    let slot (o : SysOp) (x : Thread) : Nat := match o.x with | none => b.slot | some r => (x.get r.toNat).toNat
    let tile : Option Tile := (s.flagBlock s.cur.blk b).bind fun n => (s.block n).map (·.tile)
    (∀ o : SysOp, (o.x.isSome → b.slot = 0) → (secret o.code → s.lanesAt false = []) → (flag o.code → tile ≠ none) →
      Passes s o.g (fun _ x => slot o x ≤ 63) → Completes (.sysr o) s fun t => LanesOnly s t o.g fun _ x y =>
        Writes o.d.toNat (pair (BitVec.ofNat 64 (value s x (slot o x) tile o.code))) x y) ∧
    (∀ (o : SysOp) (tid : Nat) (x : Thread), s.active o.g = [tid] → s.thread s.cur.blk tid = some x → s.lanesAt false = [] →
      (o.x.isSome → b.slot = 0) → slot o x ≤ 63 →
      let n := slot o x
      let k := s.ctx n
      let v := x.get64 o.d.toNat
      let sets (c : Ctx) : Prop := Completes (.sysw o) s fun t => OthersKept s t s.cur.blk ∧ AllGoOn s t ∧ slotIs s t n c
      (o.code = .tvec → sets { k with tvec := BitVec.ofNat 64 (v.toNat % 2 ^ 56 / 8 * 8) }) ∧
      (o.code = .frameb → sets { k with frameb := BitVec.ofNat 64 (v.toNat % 2 ^ 56 / 2 ^ 12 * 2 ^ 12) }) ∧
      (o.code = .asid → k.loaded = false → sets { k with asid := v.setWidth 16 }) ∧
      (o.code = .ptroot → k.loaded = false → v.toNat / 2 ^ 49 % 8 = 0 →
        sets { k with ptroot := BitVec.ofNat 64 (v.toNat % 2 ^ 52 / 2 ^ 16 * 2 ^ 16) }) ∧
      (o.code = .dpbound → v.setWidth 32 ≠ 0#32 → sets { k with dpbound := v.setWidth 32 }) ∧
      (o.code = .detmode → sets { k with det := v.getLsbD 0 }) ∧
      (o.code = .kvpool → sets { k with kvpool := BitVec.ofNat 64 (v.toNat % 2 ^ 52 / 32 * 32) }) ∧
      (o.code = .casttb → v.toNat / 2 ^ 56 % 2 ^ 7 ≤ 64 →
        sets { k with casttb := BitVec.ofNat 64 (v.toNat / 2 ^ 56 % 2 ^ 7 * 2 ^ 56 + v.toNat % 2 ^ 52 / 16 * 16) }) ∧
      (o.code = .age → (∀ u ∈ b.threads, ∀ key f m, u.status ≠ .waiting (.basin key f m)) →
        Completes (.sysw o) s fun t => AllGoOn s t ∧ slotIs s t n { k with age := v.setWidth 16 }) ∧
      (o.code = .ctxst → v.getLsbD 0 = false → v.getLsbD 1 = false → (k.loaded = true → v.extractLsb' 8 3 = k.part ∧ k.killing = false ∧
        s.ctxBusy n = false) → sets { k with loaded := false, part := v.extractLsb' 8 3 }) ∧
      (o.code = .xtrig → v.getLsbD 0 = false → v.getLsbD 1 = false → sets { k with dse := v.getLsbD 3 }) ∧
      (o.code = .walkstk → s.walkUse n ≤ v.toNat % 256 * 1024 → Completes (.sysw o) s fun t => OthersKept s t s.cur.blk ∧ AllGoOn s t ∧
        t.ctx n = { k with walkstk := BitVec.ofNat 64 (v.toNat % 2 ^ 56 / 2 ^ 16 * 2 ^ 16 + v.toNat % 256) }) ∧
      (o.code = .pstat → Completes (.sysw o) s fun t => DeviceKept s t ∧ OthersKept s t s.cur.blk ∧ LaneChange s t fun _ u y =>
        y = if u.guard o.g then { u with pc := u.pc + 8#56, sys := v.getLsbD 0, noStop := v.getLsbD 1 } else u.advance) ∧
      (b.slot = 0 → (o.code = .cntthr → v.setWidth 12 ≠ 0#12 → Completes (.sysw o) s fun t => AllGoOn s t ∧ OthersKept s t s.cur.blk ∧
          { t with blocks := s.blocks } = { s with cntthr := v.setWidth 12 }) ∧
        (o.code = .nqbase → Completes (.sysw o) s fun t => AllGoOn s t ∧ OthersKept s t s.cur.blk ∧
          { t with blocks := s.blocks } = { s with nqbase := BitVec.ofNat 64 (v.toNat % 2 ^ 52 / 64 * 64) }) ∧
        (o.code = .fqbase → Completes (.sysw o) s fun t => AllGoOn s t ∧ OthersKept s t s.cur.blk ∧
          { t with blocks := s.blocks } = { s with fqbase := BitVec.ofNat 64 (v.toNat % 2 ^ 52 / 64 * 64) })) ∧
      (∀ i m z, (i, o.code) ∈ [(0, SysReg.fflags0), (1, .fflags1), (2, .fflags2), (3, .fflags3), (4, .fflags4), (5, .fflags5)] →
        s.flagBlock s.cur.blk b = some m → s.block m = some z → Completes (.sysw o) s fun t => ∃ u, t.block m = some u ∧
          Tbl.get 0#64 u.tile.fflags i = v &&& ~~~(0x300#64) ∧ ∀ j, j ≠ i → Tbl.get 0#64 u.tile.fflags j = Tbl.get 0#64 z.tile.fflags j))) ∧
  (∀ (s : State) (n : Nat) (v : W64), n < 64 →
    let k := s.ctx n
    (v.getLsbD 0 = true → (∀ m, m < 64 → m ≠ n → (s.ctx m).loaded = true → (s.ctx m).asid ≠ k.asid) →
      (k.loaded = true → v.extractLsb' 8 3 = k.part) → Completes (.ctxstLoadedWrite n v) s fun t => t.blocks = s.blocks ∧
        slotIs s t n { k with loaded := true, part := v.extractLsb' 8 3 }) ∧
    (s.blocks = [] → Completes (.ageWrite n v) s fun t => slotIs s t n { k with age := v.setWidth 16 }) ∧
    (s.walkUse n ≤ v.toNat % 256 * 1024 → Completes (.walkstkWrite n v) s fun t => t.blocks = s.blocks ∧
      t.ctx n = { k with walkstk := BitVec.ofNat 64 (v.toNat % 2 ^ 56 / 2 ^ 16 * 2 ^ 16 + v.toNat % 256) }) ∧
    (s.faultWait = [] → Completes (.fqbaseWrite v) s fun t => t = { s with fqbase := BitVec.ofNat 64 (v.toNat % 2 ^ 52 / 64 * 64) }) ∧
    (∀ blk tid x, s.thread blk tid = some x → Completes (.pstatWrite blk tid v) s fun t =>
      ThreadIs s t blk tid { x with sys := v.getLsbD 0, noStop := v.getLsbD 1 }) ∧
    /- R380: a kill begins. -/
    (Completes (.ctxstKillWrite n) s fun t => t.ctx n = { k with killing := true } ∧ BytesKept s t ∧
      ∀ blk b, s.block blk = some b → t.block blk = some (if b.slot = n then { b with killed := true, life := .draining } else b)))

/-- R385, R386, R388, R391, R396, R359: `dbgr.rd` delivers a debug register, of the slot that DSEL names for the management context and of
its own for another; `dbgr.wr` of one lane writes a value that passes its checks. R387, R391-R394, R396, R397: stopping and tracing. A
halt request starts a halt, whose completion stops every block of the context; a resumption returns each to the life it left; a barge
at an armed breakpoint stops before its instruction; 512 cycles after its start a halt no longer spares a barge for its NOSTOP; the
write of TRCTL, and a lane cluster's sample. That a write of a read-only register is ignored is the model's choice (log 37), and so
are the form of a halt request's record (log 41), the count of NOSTOP (log 43) and what a sample is charged (log 21, log 83). -/
def Obligations.DebugRegistersHaltsAndTraces : Prop :=
  (∀ (s : State) (o : DbgOp) (b : Block), s.block s.cur.blk = some b → s.lanesAt false = [] →
     let own := s.ctx b.slot
     let m := if b.slot = 0 then own.dsel.toNat else b.slot
     let c := s.ctx m
     let core := own.cntsel.toNat % 2 ^ 9
     let n := o.n.toNat
     let value : W64 :=
       if n = 0 then BitVec.ofNat 64 own.dsel.toNat else if n = 1 then BitVec.ofNat 64 c.dctl.toNat else if n = 2 then BitVec.ofNat 64 c.dstat.toNat
       else if 8 ≤ n ∧ n ≤ 15 then Tbl.get 0#64 c.bpa (n - 8) else if 16 ≤ n ∧ n ≤ 23 then Tbl.get 0#64 c.bpc (n - 16)
       else if 24 ≤ n ∧ n ≤ 31 then Tbl.get 0#64 c.wpa (n - 24) else if 32 ≤ n ∧ n ≤ 39 then Tbl.get 0#64 c.wpc (n - 32)
       else if 40 ≤ n ∧ n ≤ 47 then BitVec.ofNat 64 (c.stop.toNat / 2 ^ (64 * (n - 40)))
       else if n = 48 then BitVec.ofNat 64 own.cntsel.toNat
       else if 64 ≤ n ∧ n ≤ 95 then s.counter core (own.cntsel.toNat / 2 ^ 9) (n - 64)
       else if n = 96 then (s.die (core / 96)).ecc else if n = 128 then c.trctl else if n = 129 then c.trbase
       else if n = 130 then Tbl.get 0#64 (s.core core).trptr m else if n = 131 then Tbl.get 0#64 (s.core core).trdrop m else 0#64
     (Completes (.dbgrRd o) s fun t => LanesOnly s t o.g fun _ x y => Writes o.d.toNat (pair value) x y) ∧
     (∀ (tid : Nat) (x : Thread), s.active o.g = [tid] → s.thread s.cur.blk tid = some x →
       let v := x.get64 o.d.toNat
       let sets (k : Nat) (c : Ctx) : Prop := Completes (.dbgrWr o) s fun t => OthersKept s t s.cur.blk ∧ BytesKept s t ∧ AllGoOn s t ∧
         t.ctx k = c ∧ ∀ j, j ≠ k → t.ctx j = s.ctx j
       /- A write of breakpoint i: the blocks of the slot note whether its bundle stands in their context's loop buffer by now. -/
       let arms (i : Nat) (a : W64) (c : Ctx) : Prop := Completes (.dbgrWr o) s fun t => BytesKept s t ∧ t.ctx m = c ∧
         (∀ j, j ≠ m → t.ctx j = s.ctx j) ∧ ∀ blk z, s.block blk = some z → ∃ w, t.block blk = some w ∧
           { w with threads := z.threads, tile := { w.tile with exempt := z.tile.exempt } } = z ∧
           (∀ j, w.tile.exempt.getLsbD j = if j = i ∧ z.slot = m then decide (z.tile.loops ≠ [] ∧ ∃ e ∈ z.tile.lbuf, 4 * e.1 = a.toNat)
             else z.tile.exempt.getLsbD j) ∧
           w.threads.length = z.threads.length ∧ ∀ (u : Nat) (p q : Thread), z.threads[u]? = some p → w.threads[u]? = some q →
             q = if blk = s.cur.blk ∧ u ∈ s.cur.lanes then { p with pc := p.pc + 8#56 } else p
       (n = 0 → v.toNat < 64 → (b.slot ≠ 0 → v.toNat = b.slot) → sets b.slot { own with dsel := v.setWidth 6 }) ∧
       (n = 1 → v.toNat < 4 → sets m { c with dctl := v.setWidth 2 }) ∧
       (n = 2 → v.toNat < 4 → sets m { c with dstat := c.dstat &&& ~~~(v.setWidth 2) }) ∧
       (8 ≤ n → n ≤ 15 → v.toNat < 2 ^ 56 → v.toNat % 4 = 0 → ((Tbl.get 0#64 c.bpc (n - 8)).getLsbD 1 = true ∨ v.toNat % 8 = 0) →
         arms (n - 8) v { c with bpa := Tbl.put 0#64 c.bpa (n - 8) v }) ∧
       (16 ≤ n → n ≤ 23 → v.toNat < 2 ^ 16 → v.toNat % 2 ^ 8 < 4 →
         arms (n - 16) (Tbl.get 0#64 c.bpa (n - 16)) { c with bpc := Tbl.put 0#64 c.bpc (n - 16) v }) ∧
       (24 ≤ n → n ≤ 31 → sets m { c with wpa := Tbl.put 0#64 c.wpa (n - 24) v }) ∧
       (32 ≤ n → n ≤ 39 → v &&& ~~~(0x31FD#64) = 0#64 → v.toNat / 2 ^ 4 % 2 ^ 5 ≤ 24 → (v.toNat % 2 = 1 → v.toNat / 4 % 4 ≠ 0) →
         sets m { c with wpc := Tbl.put 0#64 c.wpc (n - 32) v }) ∧
       (40 ≤ n → n ≤ 47 → Completes (.dbgrWr o) s fun t => LanesOnly s t o.g fun _ x y => y = x.advance) ∧
       (n = 48 → v.toNat < 2 ^ 13 → v.toNat % 2 ^ 9 < 384 → v.toNat / 2 ^ 9 ≤ 10 →
         (b.slot ≠ 0 → (s.core (v.toNat % 2 ^ 9)).part.toNat = own.part.toNat) → sets b.slot { own with cntsel := v.setWidth 13 }) ∧
       (n = 129 → v.toNat < 2 ^ 49 → v.toNat % 2 ^ 12 = 0 → sets m { c with trbase := v }) ∧
       (n = 128 → v.toNat < 2 ^ 36 → v.toNat / 2 ^ 8 % 2 ^ 8 = 0 → v.toNat / 2 ^ 32 ≤ 12 →
         c.trbase.toNat + 384 * 2 ^ (12 + v.toNat / 2 ^ 32) ≤ 2 ^ 49 → sets m { c with trctl := v, trsince := s.clock }))) ∧
  (∀ (s : State) (n : Nat), n < 64 →
     let c := s.ctx n
     (c.halted = false → c.halt = none → c.dstat.getLsbD 0 = false → Completes (.xtrigHreqWrite n) s fun t => t.blocks = s.blocks ∧
       (t.ctx n).halt = some ⟨s.clock, []⟩ ∧ (t.ctx n).halted = false ∧ (t.ctx n).dstat.getLsbD 0 = true ∧ ((t.ctx n).stop.setWidth 8).toNat = 1) ∧
     (∀ h, c.halt = some h → (∀ blk b, s.block blk = some b → b.slot = n → ∀ x ∈ b.threads, x.noStop = false ∧ x.entry = none) →
       Tbl.wf none s.blocks = true →
       Completes (.haltComplete n) s fun t => BytesKept s t ∧ (t.ctx n).halted = true ∧ (t.ctx n).halt = none ∧
         ∀ blk b, s.block blk = some b → t.block blk = some
           (if b.slot = n ∧ b.stoppedFrom = none then
             { b with life := if b.life = .launched then .launched else .stopped, stoppedFrom := some b.life } else b)) ∧
     (c.halted = true → c.dctl = 0#2 → Completes (.xtrigRreqWrite n) s fun t => BytesKept s t ∧ (t.ctx n).halted = false ∧
       ∀ blk b, s.block blk = some b → (∀ x ∈ b.threads, x.atBrk = false) → b.freeze = none → t.block blk = some
         (match b.stoppedFrom with | some l => if b.slot = n then { b with life := l, stoppedFrom := none } else b | none => b)) ∧
     (∀ blk tid b x i, s.block blk = some b → s.thread blk tid = some x → b.slot = n → b.killed = false → b.life = .running → x.status = .active →
       x.entry = none → c.halted = false → c.halt = none → c.dstat.getLsbD 0 = false → minPc (b.candidates x.barge) = some x.pc →
       c.bpMatch false x.pc = some i →
       Completes (.breakpointHit blk tid false) s fun t => t.blocks = s.blocks ∧ (t.ctx n).halt = some ⟨s.clock, []⟩ ∧
         ((t.ctx n).stop.extractLsb' 0 8).toNat = 2 ∧ ((t.ctx n).stop.extractLsb' 8 4).toNat = i ∧
         ((t.ctx n).stop.extractLsb' 64 64).toNat = x.pc.toNat) ∧
     (∀ blk tid b x h, s.block blk = some b → s.thread blk tid = some x → b.slot = n → c.halt = some h → h.since + 512 ≤ s.clock →
       Completes (.nostopTimeout blk tid) s fun t => t = s.modCtx n fun k => { k with halt := some ⟨h.since, (blk, x.barge) :: h.expired⟩ }) ∧
     (∀ v : W64, v.toNat < 2 ^ 36 → v.toNat / 2 ^ 8 % 2 ^ 8 = 0 → v.toNat / 2 ^ 32 ≤ 12 →
       c.trbase.toNat + 384 * 2 ^ (12 + v.toNat / 2 ^ 32) ≤ 2 ^ 49 → Completes (.trctlWrite n v) s fun t => t.blocks = s.blocks ∧ BytesKept s t ∧
         t.ctx n = { c with trctl := v, trsince := s.clock } ∧ (v.getLsbD 0 = true → c.trctl.getLsbD 0 = false → ∀ k, Tbl.get 0#64 (t.core k).trptr n = 0#64 ∧
           Tbl.get 0#64 (t.core k).trdrop n = 0#64)) ∧
     (∀ core unit, s.sampleDue n core unit = false → Completes (.traceSample n core unit) s fun t => t = s) ∧
     (∀ core unit, unit < 8 → s.sampleDue n core unit = true → s.unitRuns n core unit = true →
       let size := 2 ^ (8 + c.trctl.toNat / 2 ^ 32 % 16)
       let ptr := Tbl.get 0#64 (s.core core).trptr n
       let at_ := c.trbase.toNat + core * (16 * size) + 16 * (ptr.toNat % size)
       (ptr.toNat < size ∨ c.trctl.getLsbD 1 = true) → paDram at_ = true →
       let time := s.nextSample n core unit
       time % (64 * (c.trctl.toNat / 2 ^ 16 % 2 ^ 16)) = 0 ∧ time ≤ s.clock ∧
       Completes (.traceSample n core unit) s fun t => t.blocks = s.blocks ∧ BytesKeptBut s t at_ 16 ∧
         Tbl.get 0#64 (t.core core).trptr n = ptr + 1#64 ∧
         let x := s.sampleClass n core unit
         t.word at_ 16 = 1 + 8 * 2 ^ 4 + x.1 % 256 * 2 ^ 8 + core % 512 * 2 ^ 16 + unit * 2 ^ 25 + time % 2 ^ 32 * 2 ^ 32 +
           x.2.1 % 2 ^ 56 * 2 ^ 64 + x.2.2 % 256 * 2 ^ 120))

/-- R328-R331, R335, R355-R358, R217: maintenance at system privilege. `tlbi` removes the entries that it names from every translation
buffer, and its barge waits for the end of the handshake; `cflush` writes dirty lines back, `cinval` empties caches, and their lanes wait for
the acknowledgement; `idle` of the management context waits for a record in a device queue, and the lanes of a barge at one `idle` go on
together; the events of parks let what waits on a line, or for a monitor, go on. The bytes of a dirty line that its core has not written are the home's
(log 81). When a shootdown ends and a park wakes is the model's form
of R335 and R331 (log 59, log 60); lines are written back in the step of the `cflush` (log 7). -/
def Obligations.MaintenanceInstructions : Prop :=
  (∀ (s : State) (b : Block), s.block s.cur.blk = some b → s.lanesAt false = [] →
    let shot (t : State) (g : Guard) (gone : TlbEntry → Bool) : Prop := OthersKept s t s.cur.blk ∧ BytesKept s t ∧
      (∀ n, (t.core n).tlb = (s.core n).tlb.filter fun e => !gone e) ∧ (∀ n, (t.die n).tlb = (s.die n).tlb.filter fun e => !gone e) ∧
      LaneChange s t fun _ x y => y = if x.guard g then { x with pc := x.pc + 8#56, status := .stalled .tlbi } else x.advance
    let glob (e : TlbEntry) : Bool := pteLeaf e.pte && e.pte.getLsbD 6
    let waits (s t : State) (g : Guard) : Prop :=
      LaneChange s t fun _ x y => y = if x.guard g then { x with pc := x.pc + 8#56, status := .stalled .fence } else x.advance
    (∀ g, b.slot = 0 → s.active g ≠ [] → Completes (.tlbiAll g) s fun t => shot t g fun _ => true) ∧
    (∀ (o : RegOp) (tid : Nat) (x : Thread), s.active o.g = [tid] → s.thread s.cur.blk tid = some x → (x.get o.a.toNat).toNat < 2 ^ 16 →
      (b.slot ≠ 0 → (x.get o.a.toNat).setWidth 16 = (s.ctx b.slot).asid) →
      Completes (.tlbiAsid o) s fun t => shot t o.g fun e => e.asid == (x.get o.a.toNat).setWidth 16 && !glob e) ∧
    (∀ (o : R2b) (tid : Nat) (x : Thread), s.active o.g = [tid] → s.thread s.cur.blk tid = some x → (x.get o.a.toNat).toNat < 2 ^ 16 →
      (x.get64 o.b.toNat).toNat < 2 ^ 56 → (b.slot ≠ 0 → (x.get o.a.toNat).setWidth 16 = (s.ctx b.slot).asid) →
      Completes (.tlbiVa o) s fun t => shot t o.g fun e =>
        (e.asid == (x.get o.a.toNat).setWidth 16 || glob e) && e.vpn == vpnAt (x.get64 o.b.toNat).toNat e.level) ∧
    (∀ g, s.active g ≠ [] → Completes (.cflushAll g) s fun t => OthersKept s t s.cur.blk ∧ waits s t g ∧
      (∀ l ∈ (t.core b.core).l1, l.dirty = false) ∧
      (L1LinesWhole s → ((s.core b.core).l1.map (·.line)).Nodup → ∀ l ∈ (s.core b.core).l1, l.dirty = true → ∀ i, i < 128 →
        t.byte (l.line * 128 + i) = if l.wr.getLsbD i then l.data.getD i 0#8 else s.byte (l.line * 128 + i))) ∧
    (∀ o : IdleOp, b.slot = 0 →
      let has (base : W64) : Bool := base ≠ 0#64 ∧ s.word (base.toNat + 12) 4 ≠ s.word (base.toNat + 16) 4
      let bits := (if o.mask.getLsbD 0 && has s.fqbase then 1 else 0) + if o.mask.getLsbD 1 && has s.nqbase then 2 else 0
      let late (x : Thread) : Prop := x.timedOut = true ∨ ∃ d, x.deadline = some d ∧ d ≤ s.clock
      Completes (.idle o) s fun t => OthersKept s t s.cur.blk ∧ BytesKept s t ∧ LaneChange s t fun _ x y =>
        if x.guard o.g then
          if bits ≠ 0 then ∃ z, Writes o.d.toNat [BitVec.ofNat 32 bits, 0#32] x z ∧ y = waitOver z
          else if late x then ∃ z, Writes o.d.toNat [0#32, 1#32] x z ∧ y = waitOver z
          else
            let d := if x.get o.b.toNat = 0#32 ∨ x.deadline ≠ none then x.deadline else some (s.clock + (x.get o.b.toNat).toNat)
            y = { x with status := .waiting (.idle o.mask), deadline := d }
        else y = x.advance)) ∧
  (∀ (s : State) (b : Block), s.block s.cur.blk = some b →
    let waits (s t : State) (g : Guard) : Prop :=
      LaneChange s t fun _ x y => y = if x.guard g then { x with pc := x.pc + 8#56, status := .stalled .fence } else x.advance
    (∀ (o : FlushOp) (tid : Nat) (x : Thread) (pl : Place), s.active o.g = [tid] → s.thread s.cur.blk tid = some x →
      s.place (b.party s.cur.blk x.sys tid) (x.get64 o.a.toNat).toNat 1 .read = .ok pl →
      Completes (.cflush o) s fun t => OthersKept s t s.cur.blk ∧ waits s t o.g ∧
        (∀ l ∈ (t.core b.core).l1, l.line = pl.loc / 128 → l.dirty = false ∧ o.inv = false) ∧
        ∀ l, ((s.core b.core).l1.find? fun l => l.line == pl.loc / 128 && l.dirty) = some l → l.data.length = 128 → ∀ i, i < 128 →
          let a := pl.loc / 128 * 128 + i
          (l.wr.getLsbD i = true → t.byte a = l.data.getD i 0#8) ∧ (l.wr.getLsbD i = false → pl.read = [] → t.byte a = s.byte a)) ∧
    (∀ o : CinvalOp, o.wide = false → s.active o.g ≠ [] → Completes (.cinval o) s fun t => OthersKept s t s.cur.blk ∧ BytesKept s t ∧
      waits s t o.g ∧ (∀ n, n ≠ b.core → t.core n = s.core n) ∧
      let k := s.core b.core
      t.core b.core = match o.tgt with
        | .thread => { k with ticache := [] }
        | .keeper => { k with kicache := [] }
        | .both => { k with ticache := [], kicache := [] }
        | .data => { k with l1 := k.l1.filter (·.dirty) })) ∧
  (∀ (s : State) (blk tid : Nat) (mask : BitVec 2) (b : Block) (x : Thread), s.block blk = some b → b.threads[tid]? = some x →
    x.status = .waiting (.idle mask) →
    let has (base : W64) : Prop := base ≠ 0#64 ∧ s.word (base.toNat + 12) 4 ≠ s.word (base.toNat + 16) 4
    let record := (mask.getLsbD 0 = true ∧ has s.fqbase) ∨ (mask.getLsbD 1 = true ∧ has s.nqbase)
    let late (y : Thread) : Prop := ∃ d, y.deadline = some d ∧ d ≤ s.clock
    /- The timeout of every lane of the barge at this `idle` has come. -/
    let all := late x ∧ ∀ y ∈ b.threads, y.barge = x.barge → y.pc = x.pc → (∃ m, y.status = .waiting (.idle m)) → late y
    (record → Completes (.idleWake blk tid) s fun t => WakesBeside s t blk b x Wait.isIdle false) ∧
    (¬ record → Completes (.idleWake blk tid) s fun t => t = s) ∧
    (all → Completes (.idleTimeout blk tid) s fun t => WakesBeside s t blk b x Wait.isIdle true) ∧
    (¬ all → Completes (.idleTimeout blk tid) s fun t => t = s)) ∧
  (∀ (s : State) (blk tid : Nat) (x : Thread), s.thread blk tid = some x →
    (x.status = .stalled .tlbi → s.postedWrites blk = false → (∀ r ∈ s.remotes, r.ask.kind ≠ .read → r.done = true ∨ r.failed = true) →
      Completes (.shootdownComplete blk tid) s fun t => t.counts = [] ∧ t.thread blk tid = some { x with status := .active }) ∧
    (∀ l d line, x.status = .stalled (.park l d) → line ∈ l → s.heldLines.contains line = true → (s.die (paDie (128 * line))).monitors.contains line = false →
      Completes (.parkWake line) s fun t => BytesKept s t ∧ t.thread blk tid = some { x with status := .active }) ∧
    (∀ d, (x.status = .stalled (.parkNoMonitor d) ∨ ∃ l, x.status = .stalled (.park l (some d))) → (s.die d).monitors.length < 256 →
      Completes (.parkMonitorFreed d) s fun t => BytesKept s t ∧ t.thread blk tid = some { x with status := .active })) ∧
  (∀ (s : State) (core line : Nat), Completes (.l1EvictionWriteback core line) s fun t => t.blocks = s.blocks ∧
    (∀ l ∈ (t.core core).l1, l.line ≠ line) ∧
    ∀ l, ((s.core core).l1.find? fun l => l.line == line && l.dirty) = some l → l.data.length = 128 → ∀ i, i < 128 →
      t.byte (line * 128 + i) = if l.wr.getLsbD i then l.data.getD i 0#8 else s.byte (line * 128 + i))

/-! ### Launches, residency, pre-emption (12_scheduling.md, 02_execution_model.md, 16_program_migration.md, 17_faults_preemption.md) -/

/-- R289, R292, R293, R295-R297: a lane of `launch` appends its record to a queue of its context, or finds the queue full; a host write of
TAIL appends records, or sets ERR; the dispatcher accepts the record at the head of an enabled queue, or rejects it with a fault
record of KIND 3; a launch whose wait condition holds is released. The dispatcher's party and its polling are the model's choice (log
18), and the result of `launch` returns as a pending one (log 16). -/
def Obligations.LaunchesEnter : Prop :=
  (∀ (s : State) (o : R3) (b : Block) (tid q : Nat) (x : Thread) (l : List Byte) (s1 : State), s.block s.cur.blk = some b →
    s.active o.g = [tid] → s.thread s.cur.blk tid = some x → s.launchRead b o tid x = .ok (q, l, s1) → L1LinesWhole s →
    let u := s1.queue q
    let p := b.party s.cur.blk x.sys tid
    let gets (v : W32) (t : State) : Prop := OthersKept s t s.cur.blk ∧ LaneChange s t fun _ x y => y = if x.guard o.g then
      { x with pc := x.pc + 8#56, pend := x.pend ++ [⟨[(o.d.toNat, v)], 0#5, false⟩] } else x.advance
    (u.size ≤ u.count → Completes (.launch o) s fun t => gets 1#32 t ∧ t.queue q = u ∧ BytesKept s1 t) ∧
    (∀ s0 s2, u.count < u.size → s.virtWrite p (u.slotVa u.tail) l = .ok s0 → s1.virtWrite p (u.slotVa u.tail) l = .ok s2 →
      Completes (.launch o) s fun t => gets 0#32 t ∧ t.queue q = { u with tail := u.tail + 1#32 } ∧ HomeKept s2 t)) ∧
  (∀ (s : State) (q : Nat) (v : W32), q < 64 → L1LinesWhole s →
    let u := s.queue q
    Completes (.launchQueueTailWrite q v) s fun t => t.blocks = s.blocks ∧ HomeKept s t ∧
      t.queue q = if u.src = true ∨ 2 ^ u.log2sz.toNat < (v - u.tail).toNat + (u.tail - u.head).toNat then { u with err := true }
        else { u with tail := v }) ∧
  (∀ (s : State) (q slot : Nat) (l : List Byte) (s1 : State),
    let u := s.queue q
    let r : BitVec 1024 := BitVec.ofNat 1024 (leNat l)
    q < 64 → u.en = true → u.tail ≠ u.head → s.slotOf u.asid = some slot → (s.ctx slot).killing = false → s.acceptedOf q < 64 → L1LinesWhole s →
    s.virtRead (dispatchParty slot q) ((u.qbase.toNat + 128 * (u.head.toNat % 2 ^ u.log2sz.toNat)) % 2 ^ 56) 128 = .ok (l, s1) →
    (badRecord r = true → Completes (.launchAccept q) s fun t => HomeKept s t ∧ t.queue q = { u with head := u.head + 1#32 } ∧
      t.faultWait = s.faultWait ++ [({ code := Code.arg.num, kind := 3, asid := (s.ctx slot).asid.toNat, detail := q, aux := u.head.toNat } : Rec).bits]) ∧
    (badRecord r = false → lPmap r = 0 → s1.badMap slot r (s1.defaultMap slot) = false → (Room.empty.spot (lNeed r)).isSome = true →
      lCosched r = false → (∀ w, w < 4 → lWaddr r w = 0) → Completes (.launchAccept q) s fun t => HomeKept s t ∧
        t.queue q = { u with head := u.head + 1#32 } ∧ t.nextLaunch = s.nextLaunch + 1 ∧
        t.launch s.nextLaunch = some ⟨r, q, u.head, slot, true, s.clock, [], 0, some (s1.defaultMap slot)⟩)) ∧
  (∀ (s : State) (k : Nat) (x : Launch) (l : List Byte) (s1 : State), s.launch k = some x → x.released = false →
    (s.ctx x.slot).killing = false → lWaddr x.record 0 ≠ 0 → (∀ w, 0 < w → w < 4 → lWaddr x.record w = 0) → L1LinesWhole s →
    s.virtRead (dispatchParty x.slot x.queue (2 * k + 1)) (lWaddr x.record 0) 8 = .ok (l, s1) →
    Completes (.launchWaitPoll k) s fun t => HomeKept s t ∧
      t.launch k = some { x with
        released := decide (lWval x.record 0 ≤ leNat l), since := if lWval x.record 0 ≤ leNat l then s.clock else x.since })

/-- R35: whatever block becomes resident for the first time, every register and predicate of its threads is zero, its pc is CODE, and its
flags and `$amax` are clear. R17, R30, R31, R33, R34, R36, R57, R58, R244, R297, R299: a block of a released launch that its core is
due becomes resident with fresh threads, its identity and its allocation as the record says, a new owner number, and scratchpad bytes that
read as memory that nothing has written, zero by the model's choice (log 1); a block whose
threads have exited retires once its commands and its writes are done, counts in its launch, and increments a completion counter. Ties
of the dispatcher are the model's choice (log 18), and so is that an increment at another device is made there (log 12). -/
def Obligations.BlocksComeAndGo : Prop :=
  (∀ (s t : State) (k lin n : Nat) (b : Block), exec (.blockResidency k lin) s = .next t → s.block n = none → t.block n = some b →
    ∃ x, s.launch k = some x ∧ b.launch = k ∧ ∀ (tid : Nat) (y : Thread), b.threads[tid]? = some y → y.pc = BitVec.ofNat 56 (lCode x.record) ∧
      (∀ r, y.get r = 0#32) ∧ (∀ p, p ≠ 0#4 → y.pred p = false) ∧ y.flags = 0#5 ∧ y.amax = 0#32) ∧
  (∀ (s : State) (k lin : Nat) (x : Launch) (sp : Spot), s.launch k = some x → x.waitsWhole = false → s.blockOf k lin = none →
    s.choice (x.core lin) = some (k, lin) → lRole x.record = 0 → (s.room (x.core lin) []).spot (lNeed x.record) = some sp →
    let r := x.record
    let core := x.core lin
    let gen := Tbl.get 0#4 (s.core core).gens sp.owner + 1#4
    Completes (.blockResidency k lin) s fun t => OthersKept s t s.nextBlock ∧ t.nextBlock = s.nextBlock + 1 ∧
      (∀ a, t.byte a = if scrLoc core sp.scr ≤ a ∧ a < scrLoc core (sp.scr + (lScr r + 1023) / 1024 * 1024) then 0#8 else s.byte a) ∧
      (∃ b, t.block s.nextBlock = some b ∧ b.launch = k ∧ b.lin = lin ∧ b.core = core ∧ b.slot = x.slot ∧ b.life = .resident ∧
        b.bsize = lBsize r ∧ b.nregs = lRegs r ∧ b.accTiles = lAcc r ∧ b.prio = lPrio r ∧ b.lc = sp.lc ∧ b.cx = sp.cx ∧ b.inLock = false ∧
        b.bid = (List.range 4).map (fun i => BitVec.ofNat 32 (lIndex r lin i)) ∧
        b.owner = BitVec.ofNat 19 (core / 96 % 4 * 2 ^ 17 + core % 96 * 2 ^ 10 + sp.owner % 64 * 2 ^ 4 + gen.toNat) ∧
        b.threads.length = lBsize r ∧ b.tile = Tile.fresh ∧
        ∀ (tid : Nat) (y : Thread), b.threads[tid]? = some y → y.pc = BitVec.ofNat 56 (lCode r) ∧ y.regs = [] ∧ y.preds = 0#16 ∧ y.flags = 0#5 ∧ y.amax = 0#32 ∧
          y.nest = 0#4 ∧ y.sys = false ∧ y.status = .active ∧ y.barge = tid / 16 ∧ y.pend = []) ∧
      ∃ y, t.launch k = some y ∧ y = { x with started := x.started ++ [lin] }) ∧
  (∀ (s : State) (blk : Nat) (b : Block) (x : Launch), s.block blk = some b → b.life = .draining → b.killed = false → s.cmdsOf blk b = [] →
    (∀ r ∈ s.remotes, r.blk = blk → r.done = true ∨ r.failed = true) → s.windowsBusy blk b (b.windows.map (·.off)) = false →
    s.launch b.launch = some x → (s.core b.core).chans = [] → lDone x.record 1 = 0 → L1LinesWhole s →
    let goes (t : State) : Prop := OthersKept s t blk ∧ t.block blk = none ∧
      (x.retired + 1 = lTotal x.record → t.launch b.launch = none) ∧ ∀ y, t.launch b.launch = some y → y.retired = x.retired + 1
    (lDone x.record 0 = 0 → Completes (.blockRetire blk) s fun t => goes t ∧ HomeKept s t) ∧
    (∀ pl, lDone x.record 0 ≠ 0 → s.checkRmw (dispatchParty x.slot x.queue (2 * blk + 2)) (lDone x.record 0) doneAdd = .ok pl →
      Completes (.blockRetire blk) s fun t => goes t ∧
        /- Another device's home has made the addition itself (R216, log 12). -/
        (pl.ack ≠ none → HomeKept s t) ∧
        (pl.ack = none → pl.loc % 8 = 0 → leNat (t.homeBytes pl.loc 8) = (leNat (s.homeBytes pl.loc 8) + 1) % 2 ^ 64 ∧
          ∀ a, a < pl.loc ∨ pl.loc + 8 ≤ a → t.homeBytes a 1 = s.homeBytes a 1)))

/-- R40, R55, R301, R352, R376, R380: pre-emption of one block asks for it with DPBOUND as it stands, saves the block to its frame at its
boundaries, or DPBOUND cycles later from the middle of its bundle; a basin as old as AGE forms a barge; and a kill ends with no block
and no launch of the context left. How a block is settled and saved at its boundaries is the model's form of R55 and R376 (log 14, log
49), and so is the end of a kill (log 54). -/
def Obligations.PreemptionAndKills : Prop :=
  (∀ (s : State) (k c lin v : Nat) (x : Launch) (b : Block), s.launch k = some x → x.released = true → s.waiting k x = [(c, lin)] →
    s.victims x k lin c = [v] → s.paired v = [v] → s.block v = some b → b.preempt = none → b.saved = false → b.killed = false →
    Completes (.preemptResidencyExpiry k) s fun t => DeviceKept s t ∧ OthersKept s t v ∧
      t.block v = some { b with preempt := some ((s.ctx b.slot).dpbound.toNat, s.clock) }) ∧
  (∀ (s : State) (blk : Nat) (b : Block) (s1 s2 : State) (long : Bool), s.block blk = some b → s.paired blk = [blk] → b.saved = false →
    b.preempt.isSome = true →
    let c := b.settle
    s.writeParts (c.framer blk) (s.frameRegion c) (c.frameParts (s.ctx b.slot).asid long) = .ok s1 →
    s1.zeroGaps (c.framer blk) (s.frameRegion c) (c.frameGaps long) = .ok s2 →
    let saved (t : State) : Prop := BytesKept s2 t ∧ t.block blk = some { c with
      life := .launched, saved := true, savedLong := long, preempt := none, stoppedFrom := c.stoppedFrom.map fun _ => .launched }
    (s.canSave blk = true → long = false → Completes (.blockPreempt blk) s saved) ∧
    (∀ dp at_, b.preempt = some (dp, at_) → at_ + dp ≤ s.clock → b.inLock = true → b.phase = .running ∨ b.phase = .resident ∨ b.phase = .frozen →
      b.killed = false → b.tile.wait ≠ some .leaving → (∀ x ∈ b.threads, x.atBoundary = true) →
      s.windowsBusy blk b (b.windows.map (·.off)) = false → long = !s.canSave blk → Completes (.dpboundExpiry blk) s saved)) ∧
  (∀ (s : State) (blk clu f : Nat) (key : Addr) (b : Block), s.block blk = some b → b.basinAge clu key = some f →
    f + (s.ctx b.slot).age.toNat ≤ s.clock → Completes (.basinAgeExpiry blk clu key) s fun t => DeviceKept s t ∧ OthersKept s t blk ∧
      ∀ (tid : Nat) (x : Thread), b.threads[tid]? = some x → t.thread blk tid = some
        (if tid ∈ b.basinTakes clu key then { x with status := .active, barge := b.nextBarge } else x)) ∧
  (∀ (s : State) (n : Nat), n < 64 → (s.ctx n).killing = true → (∀ e ∈ s.blocksOf n, s.cmdsOf e.1 e.2 = []) →
    (∀ r ∈ s.remotes, (∃ e ∈ s.blocksOf n, e.1 = r.blk) → r.ask.kind = .read ∨ r.done = true ∨ r.failed = true) →
    Completes (.killComplete n) s fun t => (t.ctx n).killing = false ∧ (t.ctx n).halted = false ∧
      (∀ blk b, t.block blk = some b → b.slot ≠ n) ∧ ∀ k x, t.launch k = some x → x.slot ≠ n)

/-! ### The device's services and the world outside (10_reachability.md, 14_isolation.md, 20_system_recovery.md) -/

/-- R251, R252, R255, R337-R339, R384: the reach walker takes the waiting publication of the lowest core, lane cluster and `$lane` into a
free slot with a ticket, releases the marks of a wounded walk, and ends a walk whose objects are marked by storing the reference with the
tag of its page, where the checks on the destination hold then and no watchpoint is enabled; the oldest held access count is added at its PTE,
saturating; and a waiting fault record is posted to the fault queue, or is posted when the queue is tried again. Tickets are the clock
and the die (log 17). -/
def Obligations.WalksCountsAndFaultQueue : Prop :=
  (∀ (s : State) (d n : Nat) (w : Walk),
    (w ∈ (s.die d).walkQueue → (s.ctx w.slot).killing = false →
      (∀ u ∈ (s.die d).walkQueue, (s.ctx u.slot).killing = false → u ≠ w → s.walkRank w < s.walkRank u) →
      n < 16 → s.walkAt d n = none → (∀ k, k < n → s.walkAt d k ≠ none) →
      Completes (.walkAccept d) s fun t => (t.die d).walkQueue = (s.die d).walkQueue.erase w ∧
        ∀ u, t.walkAt d n = some u → u.ticket = s.clock * 4 + d ∧ u.blk = w.blk ∧ u.tid = w.tid ∧ u.ref = w.ref ∧ u.va = w.va) ∧
    (s.walkAt d n = some w → w.suspended = false → w.parked = none → (s.ctx w.slot).killing = false →
      (∀ loc, w.wounded = some loc → Completes (.walkRestart d n) s fun t => t.blocks = s.blocks ∧
        t.walkAt d n = some { w with marked := [], stack := [w.ref], spill := 0, wounded := none, ready := false, blocked := some loc }) ∧
      (w.wounded = none → w.ready = true ∨ s.walkBlocked w = true → Completes (.walkRestart d n) s fun t => t = s)) ∧
    (∀ b x pl, s.walkAt d n = some w → w.suspended = false → w.parked = none → (s.ctx w.slot).killing = false → w.ready = true →
      w.wounded = none → s.walkBlocked w = false → s.checkAt w.party w.va 8 8 .write = .ok pl → paDram pl.loc = true →
      (∀ i, (Tbl.get 0#64 (s.ctx b.slot).wpc i).getLsbD 0 = false) →
      s.destCheck d n { w with destObj := pl.obj, blocked := none } b.owner.toNat = .ok () →
      w.ref < 2 ^ 64 → s.block w.blk = some b → b.threads[w.tid]? = some x →
      x.status = .stalled .pub → x.pub = some .run → (∀ (tid : Nat) (y : Thread), tid ≠ w.tid → b.threads[tid]? = some y → y.barge = x.barge → y.pub = none) →
      Completes (.walkComplete d n) s fun t => t.walkAt d n = none ∧ t.word pl.loc 8 = w.ref ∧ t.tag pl.loc = pl.obj ∧
        OthersKept s t w.blk ∧ t.thread w.blk w.tid = some { x with pc := x.pc + 8#56, status := .active, pub := none })) ∧
  (∀ (s : State) (pte page : Nat) (asid : BitVec 16) (l : List (Nat × Nat × BitVec 16)), s.counts = (pte, page, asid) :: l →
    let old := s.word pte 8
    let new := if old / 2 ^ 52 % 2 ^ 12 = 2 ^ 12 - 1 then old else old + 2 ^ 52
    (new / 2 ^ 52 % 2 ^ 12 < s.cntthr.toNat ∨ s.cntthr.toNat ≤ old / 2 ^ 52 % 2 ^ 12 ∨ s.notified.contains pte = true) →
    Completes .accessCountApply s fun t => t.counts = l ∧ t.word pte 8 = new ∧ BytesKeptBut s t pte 8 ∧ t.blocks = s.blocks) ∧
  (∀ (s : State) (r : BitVec 512) (l : List (BitVec 512)) (recb lg tail head : Nat), s.faultWait = r :: l →
    s.queueBlock s.fqbase 64 = some (recb, lg, tail, head) → (tail + 2 ^ 32 - head) % 2 ^ 32 < 2 ^ lg →
    let a := recb + 64 * (tail % 2 ^ lg)
    let c := s.fqbase.toNat + 12
    (a + 64 ≤ c ∨ c + 4 ≤ a) →
    let posted (t : State) : Prop := t.faultWait = l ∧ t.bytes a 64 = leBytes 64 r.toNat ∧ t.word c 4 = (tail + 1) % 2 ^ 32 ∧
      t.vectors = s.vectors ||| 1#3 ∧ (∀ i, (i < a ∨ a + 64 ≤ i) → (i < c ∨ c + 4 ≤ i) → t.byte i = s.byte i) ∧ t.blocks = s.blocks
    Completes .faultRecordPost s posted ∧ (l = [] → Completes .faultQueueRetry s posted))

/-- R292, R318, R366, R406-R411, R414-R416: the host and the fabric. Register writes by the host, its accesses to memory, capability
records, accesses of peers and their responses, heartbeats, and the timeouts of ports and accesses. The places of the capability
records in BAR0 and the domain's fields are the model's own (log 23), and so are what a flit carries and the answer to an access outside
the map (log 12), that a heartbeat clears the missed count of its port and that no event brings a port up again (log 52), and the bits that
a write of QBASE keeps (log 53). -/
def Obligations.HostAndFabric : Prop :=
  ∀ s : State,
    (∀ (q : Nat) (v : W64), q < 64 → (s.queue q).en = false → Completes (.hostRegisterWrite (0x10000 + 32 * q) v) s fun t =>
      BytesKept s t ∧ t.queue q = { s.queue q with qbase := BitVec.ofNat 56 (v.toNat % 2 ^ 56 / 128 * 128) } ∧ ∀ k, k ≠ q → t.queue k = s.queue k) ∧
    (∀ (core : Nat) (v : W64), core < 384 → v.toNat % 256 < 8 → (∀ e ∈ s.blocks, ∀ b, e.2 = some b → b.core ≠ core) →
      Completes (.hostRegisterWrite (0x20000 + core) v) s fun t => t = s.modCore core fun c => { c with part := v.setWidth 8 }) ∧
    (∀ (addr n v : Nat), s.prv = [] → (∀ i, i < n → paDram (addr + i) = true) → 0 < n → Completes (.hostBar2Write addr n v) s fun t =>
      t.blocks = s.blocks ∧ t.word addr n = v % 256 ^ n ∧ BytesKeptBut s t addr n) ∧
    (∀ (addr n : Nat), s.prv = [] → Completes (.hostBar2Read addr n) s fun t => { t with hostData := s.hostData } = s ∧
      ∀ i, i < n → t.hostData / 256 ^ i % 256 = if paDram (addr + i) then (s.byte (addr + i)).toNat else 255) ∧
    (∀ id, 1 ≤ id → id ≤ 7 → id ≠ 4 → Completes (.capabilityApply id) s fun t => { t with caps := s.caps } = s ∧
      t.cap id = ⟨(s.cap id).basic, (s.cap id).basic, false⟩ ∧ ∀ k, k ≠ id → t.cap k = s.cap k) ∧
    (∀ port pa (data : List Byte), port < 18 → (s.port port).up = true → s.prv = [] → data.length ≤ 232 →
      let held (n : Nat) : List Byte := (List.range n).map fun i => if paDram (pa + i) then s.byte (pa + i) else 0xFF#8
      /- The access performs, its answer leaves by the port, and the bytes `l` are written at their homes, if any. -/
      let answers (kind : AwayKind) (back l : List Byte) : Prop := Completes (.remoteAccessRequestFlit port kind pa data) s fun t => t.blocks = s.blocks ∧
        (∃ f, t.flitsOut = s.flitsOut ++ f ++ [.response port pa back]) ∧
        ∀ a, t.byte a = if pa ≤ a ∧ a < pa + l.length ∧ paDram a = true then l.getD (a - pa) 0#8 else s.byte a
      let n := data.length
      answers .read (held n) [] ∧ answers .write [] data ∧
      (n = 4 ∨ n = 8 → answers (.rmw (.atom .add)) (held n) (leBytes n ((leNat (held n) + leNat data) % 256 ^ n))) ∧
      answers (.rmw .cas) (held (n / 2)) (if held (n / 2) = data.take (n / 2) then data.drop (n / 2) else [])) ∧
    (∀ (r : Remote) (l k : List Remote), s.remotes = l ++ r :: k → (∀ x ∈ l ++ k, x.id ≠ r.id) → r.done = false → r.failed = false →
      let freed (t : State) : Prop := ∀ blk tid x, s.thread blk tid = some x → x.status = .stalled (.remote r.id) →
        t.thread blk tid = some { x with status := .active }
      (∀ data, Completes (.responseFlit r.id data) s fun t => BytesKept s t ∧
        (1 < r.left → t.blocks = s.blocks ∧ t.remotes = l ++ { r with left := r.left - 1, got := r.got ++ data } :: k) ∧
        (r.left ≤ 1 → r.who ≠ none → t.remotes = l ++ { r with left := 0, done := true, got := r.got ++ data } :: k ∧ freed t) ∧
        (r.left ≤ 1 → r.who = none → t.blocks = s.blocks ∧ t.remotes = l ++ k)) ∧
      (r.since + 2 ^ 24 ≤ s.clock → Completes (.accessTimeout r.id) s fun t => BytesKept s t ∧
        (r.who = none → r.ask.kind = .read → t.remotes = l ++ k) ∧
        (r.who ≠ none ∨ r.ask.kind ≠ .read → t.remotes = l ++ { r with failed := true } :: k ∧ freed t))) ∧
    (∀ n, n < 18 → Completes (.heartbeatFlit n) s fun t => { t with ports := s.ports } = s ∧ t.port n = { s.port n with missed := 0 } ∧
      ∀ k, k ≠ n → t.port k = s.port k) ∧
    (Completes .heartbeatTimer s fun t => (∀ n, n < 18 → t.port n = { s.port n with missed := (s.port n).missed + 1 }) ∧
      t.flitsOut = s.flitsOut ++ (List.range 18).map Flit.heartbeat) ∧
    (∀ n, n < 18 → 4 ≤ (s.port n).missed → Completes (.portDown n) s fun t => t.port n = { s.port n with up := false } ∧ BytesKept s t ∧
      t.blocks = s.blocks)

/-- R414-R416: reset, boot, attestation, heat. A device reset leaves the reset state, but for the fuses and the expanders (log 61) and the
counters of the model's own (log 3, log 6); the boot ROM reports what it finds in an image, whose signatures verify or not as free values
say (log 22), and runs one whose SVN is not below the fuses; a doorbell has the next image verified; a report holds the nonce, the digest,
the versions and the device's identity, with two signatures over them, in an order of the model's own (log 22, log 23); the clock is lowered
at the power cap or 105 degrees, and the module shuts down at 115 (log 90), after which it takes no step (log 61). -/
def Obligations.ResetBootAndHeat : Prop :=
  ∀ s : State,
    (Completes .deviceReset s fun t =>
      t = { State.reset with fuseSvn := s.fuseSvn, expanders := s.expanders, free := s.free, turn := s.turn, agenda := s.agenda }) ∧
    (s.bootPending = true → Completes .bootVerifyComplete s fun t =>
      let c := s.checkImage s.free
      /- Of an image that the host has pushed, the fields of the header at BAR2 offset 0, and the digest of header and body. -/
      (s.bootTries ≠ 0 → c.magic = (s.word 0 4 == 0x4E4C3842) ∧ c.svn = BitVec.ofNat 32 (s.word 8 4) ∧
        c.digest = sha384 (s.bytes 0 128 ++ s.bytes 256 (s.word 12 4))) ∧
      t.bootPending = false ∧ t.blocks = s.blocks ∧ BytesKept s t ∧
      t.mailbox = (if c.magic = false then 3#4 else if c.signed = false then 2#4 else if c.svn.toNat < s.fuseSvn.toNat then 4#4 else 1#4) ∧
      (t.mailbox = 1#4 → t.image = some (c.digest, c.svn) ∧ t.vectors = s.vectors) ∧
      (t.mailbox ≠ 1#4 → t.image = s.image ∧ t.vectors = s.vectors ||| 4#3)) ∧
    (s.mailbox ≠ 0#4 → s.mailbox ≠ 1#4 → Completes .doorbell s fun t =>
      t = { s with mailbox := 0#4, bootPending := true, bootTries := s.bootTries + 1 }) ∧
    (∀ d v, s.image = some (d, v) → Completes .fusedSvnRaise s fun t =>
      { t with fuseSvn := s.fuseSvn } = s ∧ t.fuseSvn.toNat = Nat.max s.fuseSvn.toNat v.toNat) ∧
    (∀ d v nonce, s.image = some (d, v) → Completes (.attestationRequest nonce) s fun t =>
      let l := leBytes 32 nonce.toNat ++ leBytes 48 d.toNat ++ leBytes 4 v.toNat ++ leBytes 4 s.fuseSvn.toNat ++ leBytes 16 Config.identity.toNat
      t = { s with nonce, report := some (l ++ leBytes 96 (Config.signEcdsa l).toNat ++ Config.signLms l) }) ∧
    (Completes .thermalThrottle s fun t =>
      t = if (s.cap 7).value.toNat ≤ s.sensors.power ∨ ∃ c ∈ s.sensors.junction, 105 ≤ c then { s with throttled := true } else s) ∧
    (Completes .thermalShutdown s fun t => t = if ∃ c ∈ s.sensors.junction, 115 ≤ c then { s with off := true } else s) ∧
    (s.off = true → s.agenda = [] → step s = .fault .shutDown)

/-! ### Tile instructions (06_tile_set.md) -/

/-- R155, R156, R165-R167: the S slots. A result is in flight until the step that R156 gives, and nothing else changes. k0 reads 0 and
discards what lands in it; q0 reads true and discards too. -/
def Obligations.KeeperScalarResults : Prop :=
  (∀ (s : State) (b : Block) (o : KOp), Issues s o.w.q b →
    let a := b.tile.kreg o.a
    let v := if o.i then BitVec.ofNat 64 o.b.toNat else b.tile.kreg o.b
    let n := v.toNat % 128
    let lands (i : Instr) (r : W64) : Prop := Completes i s fun t => Emits s t b [(1, .k o.d r, 0#5)]
    lands (.kadd o) (BitVec.ofNat 64 (a.toNat + v.toNat)) ∧ lands (.ksub o) (BitVec.ofInt 64 ((a.toNat : Int) - v.toNat)) ∧
    lands (.kmul o) (BitVec.ofNat 64 (a.toNat * v.toNat)) ∧ lands (.kand o) (a &&& v) ∧ lands (.kor o) (a ||| v) ∧
    lands (.kxor o) (a ^^^ v) ∧ lands (.kshl o) (BitVec.ofNat 64 (a.toNat * 2 ^ n)) ∧
    lands (.kshr o) (if o.x then BitVec.ofInt 64 (a.toInt / 2 ^ n) else BitVec.ofNat 64 (a.toNat / 2 ^ n)) ∧
    lands (.kmin o) (if o.x then BitVec.ofNat 64 (Nat.min a.toNat v.toNat) else BitVec.ofInt 64 (min a.toInt v.toInt)) ∧
    lands (.kmax o) (if o.x then BitVec.ofNat 64 (Nat.max a.toNat v.toNat) else BitVec.ofInt 64 (max a.toInt v.toInt))) ∧
  (∀ (s : State) (b : Block) (o : KImm10), Issues s o.w.q b →
    Completes (.kaddi o) s fun t => Emits s t b [(1, .k o.d (BitVec.ofInt 64 ((b.tile.kreg o.a).toInt + o.imm.toInt)), 0#5)]) ∧
  (∀ (s : State) (b : Block) (o : KImm16), Issues s o.w.q b →
    Completes (.kmovi o) s fun t => Emits s t b [(1, .k o.d (BitVec.ofInt 64 o.imm.toInt), 0#5)]) ∧
  (∀ (s : State) (b : Block) (o : KCmpOp), Issues s o.w.q b →
    let a := b.tile.kreg o.a
    let v := if o.i then BitVec.ofNat 64 o.b.toNat else b.tile.kreg o.b
    let t : Bool := match o.cond with
      | .eq => a == v
      | .ne => a != v
      | .lt => decide (a.toInt < v.toInt)
      | .le => decide (a.toInt ≤ v.toInt)
      | .gt => decide (v.toInt < a.toInt)
      | .ge => decide (v.toInt ≤ a.toInt)
      | .ltu => decide (a.toNat < v.toNat)
      | .geu => decide (v.toNat ≤ a.toNat)
    Completes (.kcmp o) s fun u => Emits s u b
      ((1, .q o.qd t, 0#5) :: if o.qe = 0#3 then [] else [(1, .q o.qe (!t), 0#5)])) ∧
  (∀ (s : State) (b : Block) (o : KSelOp), Issues s o.w.q b →
    Completes (.ksel o) s fun t => Emits s t b [(1, .k o.d (if b.tile.qreg o.q != o.n then b.tile.kreg o.a else b.tile.kreg o.b), 0#5)]) ∧
  (∀ (s : State) (b : Block) (o : KImm10) (pl : Place), Issues s o.w.q b →
    let va := (((b.tile.kreg o.a).toNat + 8 * o.imm.toInt) % (2 ^ 64 : Nat)).toNat
    let stored (w : W64) : Effect := .mem ((List.range 8).map fun i => (va + i, pl.loc + i, w.extractLsb' (8 * i) 8))
    let p := b.engine s.cur.blk s.cur.slot
    let u := s.settle b s.cur.blk [(va, pl, 8)]
    (s.checkRead p va 8 = .ok pl → (∀ l ∈ b.tile.fly, ∀ out, l.eff ≠ .mem out) →
      Completes (.kld o) s fun t => EmitsQuiet s t b [(4, .k o.d (BitVec.ofNat 64 (leNat (u.dataOf b.core pl 8))), 0#5)]) ∧
    (∀ (l1 l2 : List Landing) (l : Landing) (w : W64), s.checkRead p va 8 = .ok pl → pl.ack = none →
      b.tile.fly = l1 ++ l :: l2 → l.slot ≤ 1 → l.issued < b.tile.step → l.eff = stored w → (∀ m ∈ l2, ∀ out, m.eff ≠ .mem out) →
      Completes (.kld o) s fun t => EmitsQuiet s t b [(4, .k o.d w, 0#5)]) ∧
    (va < 2 ^ 56 → va % 8 = 0 → s.place p va 8 .write = .ok pl → s.writeOk va pl (leBytes 8 (b.tile.kreg o.d).toNat) false = .ok () →
      Completes (.kst o) s fun t => EmitsQuiet s t b [(4, stored (b.tile.kreg o.d), 0#5)])) ∧
  (∀ (x : Tile) (free : Nat) (l : Landing),
    (∀ r v, l.eff = .k r v → let y := (x.apply free l).1
      (∀ q, y.kreg q = if q = r ∧ r ≠ 0#6 then v else x.kreg q) ∧ { y with k := x.k } = x) ∧
    (∀ r v, l.eff = .q r v → let y := (x.apply free l).1
      (∀ q, y.qreg q = if q = r ∧ r ≠ 0#3 then v else x.qreg q) ∧ { y with q := x.q } = x))

/-- R72: a slot word whose guard GQ reads false issues nothing in its engine, whatever slot holds it, and counts as done in the done mask.
Whatever its guard, an explicit word with H set becomes the held word of its slot, and one with H clear ends the hold; a held word stands in
its slot, guard included, in every bundle that has no word there, whatever the predicates read, and its repetition raises no ILL. An
F-slot word with H set is ILL. -/
def Obligations.FalseGuardIssuesNothing : Prop :=
  (∀ (s : State) (b : Block) (n : Nat) (w : W32) (i : Instr), n < 8 → decodeSlot (slotClass n) w = .ok i → s.block s.cur.blk = some b →
    w.extractLsb' 22 3 ≠ 0#3 → b.tile.q.getLsbD (w.extractLsb' 22 3).toNat = false → exec i s = .next s) ∧
  (∀ (x : Tile) (l : List (Nat × W32 × Instr)) (present notRun : List Nat) (faults : List (Nat × BitVec 512)), ∀ e ∈ l, e.1 < 8 →
    e.2.1.extractLsb' 22 3 ≠ 0#3 → x.q.getLsbD (e.2.1.extractLsb' 22 3).toNat = false →
    (doneMask present notRun (passedSlots x l) faults).getLsbD e.1 = true) ∧
  (∀ (b : Block) (a : Addr) (header : W32) (words : List (Nat × W32)), b.inLock = true → b.tile.delay = none →
    let held := (b.closeStep a header words).tile.held
    (∀ n w, n < 8 → header.getLsbD (31 - n) = true → words.find? (·.1 == n) = some (n, w) →
      held.find? (·.1 == n) = if w.getLsbD 25 then some (n, w) else none) ∧
    ∀ n, n < 8 → header.getLsbD (31 - n) = false → held.find? (·.1 == n) = b.tile.held.find? (·.1 == n)) ∧
  (∀ (x : Tile) (u : Bundle) (acc n : Nat) (w : W32), n < 8 → u.header.getLsbD (31 - n) = false → u.words.find? (·.1 == n) = none →
    x.held.find? (·.1 == n) = some (n, w) → (∀ i, decodeWord acc true n w = .ok i → (n, w, i) ∈ effective x u acc) ∧
    ∀ q, effective { x with q } u acc = effective x u acc) ∧
  ∀ (acc : Nat) (dp : Bool) (w : W32), w.getLsbD 25 = true → decodeWord acc dp 7 w = .error (stopBare .ill)

/-- R156, R159-R161, R168-R171: the M slots. An operation on a configured stream changes the fields that R169 names as it lands at s + 2;
`scfg` and `cbi` load the whole register; `cba` moves a pointer at s + 1; `cbw` and `cbf` wait until their condition holds. A stream
that is not configured and a ring that is not bound are ARG; a pointer that would pass the other is RING. That an advance counts from
where the register stands when it lands is the model's reading (log 28), and so is the order of the checks of `cbi` (log 32). -/
def Obligations.StreamAndRingControl : Prop :=
  (∀ (s : State) (o : StreamImm) (b : Block) (l : List Byte) (s1 : State), Issues s o.w.q b →
    s.rowRead (b.engine s.cur.blk s.cur.slot) (((b.tile.kreg o.a).toNat + 32 * o.imm.toInt) % (2 ^ 64 : Nat)).toNat 32 32 = .ok (l, s1) →
    let w : BitVec 256 := BitVec.ofNat 256 (leNat l)
    let st := streamOf w
    let quantised := st.fmt = .q8 ∨ st.fmt = .q4
    let legal := (∃ ty, Ty.ofCode (w.extractLsb' 64 4) = some ty) ∧ (∃ v, Ovf.ofCode (w.extractLsb' 68 2) = some v ∧ ovfOk st.fmt v = true) ∧
      w.extractLsb' 56 8 = 0#8 ∧ w.extractLsb' 108 4 = 0#4 ∧ w.extractLsb' 170 2 = 0#2 ∧ w.extractLsb' 192 64 = 0#64 ∧
      st.rows ≠ 0 ∧ st.epr ≠ 0 ∧ st.epr ≤ 256 ∧ (quantised → st.gs ≠ 0) ∧
      (¬ quantised → st.fmt ≠ .s8 → st.gs = 0 ∧ st.scs = 0#4 ∧ st.zps = 0) ∧
      (st.vw = true → st.base = 0 ∧ st.stride = 0 ∧ st.rg = false) ∧ (st.vw = false → st.view = 0) ∧ (st.rg = false → st.ring = 0#3)
    (legal → Completes (.scfg o) s fun t => ∃ e, EmitsQuiet s t b [(2, e, 0#5)] ∧
      ∀ (x : Tile) (free : Nat) (l : Landing), l.eff = e → let y := (x.apply free l).1
        y.sraw o.s = w ∧ (∀ q : SReg, q ≠ o.s → y.sraw q = x.sraw q) ∧ { y with s := x.s } = x) ∧
    (¬ legal → Completes (.scfg o) s fun t => SlotFaults s t b .arg 0 0)) ∧
  (∀ (s : State) (b : Block) (w : Slot) (r : SReg) (st : Stream), Issues s w.q b → b.tile.stream? r = .ok st →
    let lands (i : Instr) (f : Stream → Stream) : Prop := Completes i s fun t => ∃ e, StreamEffect e r f ∧ Emits s t b [(2, e, 0#5)]
    (∀ o : StreamImm, o.w = w → o.s = r → let k := b.tile.kreg o.a
      (k.toNat < 2 ^ 56 → st.vw = false → st.rg = false →
        lands (.sbase o) fun v => { v with base := (((k.toNat : Int) + o.imm.toInt) % (2 ^ 56 : Nat)).toNat, rpos := 0 }) ∧
      (2 ^ 56 ≤ k.toNat → Completes (.sbase o) s fun t => SlotFaults s t b .xlat 3 k.toNat) ∧
      (k.toNat < 2 ^ 56 → st.vw = true ∨ st.rg = true → Completes (.sbase o) s fun t => SlotFaults s t b .arg 0 0)) ∧
    (∀ o : SadvOp, o.w = w → o.s = r →
      lands (.sadv o) fun v => if v.rows = 0 then v else { v with rpos := ((v.rpos + o.n.toInt) % v.rows).toNat }) ∧
    (∀ o : StreamK, o.w = w → o.s = r → let k := b.tile.kreg o.a
      lands (.sadvB o) (fun v => { v with base := (v.base + k.toNat) % 2 ^ 56 }) ∧
      lands (.smask o) (fun v => { v with brow := k.toNat % 2 ^ 16, bcol := k.toNat / 2 ^ 16 % 2 ^ 12 }) ∧
      (k ≠ 0#64 → k.toNat % 16 = 0 → lands (.sgbt o) fun v => { v with gb := true, base := k.toNat % 2 ^ 56, rpos := 0 }) ∧
      (k.toNat % 16 ≠ 0 → Completes (.sgbt o) s fun t => SlotFaults s t b .align 0 k.toNat) ∧
      (k = 0#64 → lands (.sgbt o) fun v => { v with gb := false })) ∧
    (∀ o : RopeOp, o.w = w → o.s = r → ∀ fs, b.tile.stream? o.f = .ok fs →
      lands (.sropeAdj o) (fun v => { v with re := true, fts := o.f, rpm := 0 }) ∧
      lands (.sropeHalf o) (fun v => { v with re := true, fts := o.f, rpm := 1 })) ∧
    (∀ o : StreamOp, o.w = w → o.s = r → lands (.sropeOff o) fun v => { v with re := false, fts := 0#4, rpm := 0 }) ∧
    (∀ o : SscaleOp, o.w = w → o.s = r → ∀ ss, b.tile.stream? o.ss = .ok ss →
      let fits := (st.fmt = .q8 ∨ st.fmt = .q4 → o.gs ≠ 0#2) ∧ (st.fmt ≠ .q8 → st.fmt ≠ .q4 → st.fmt ≠ .s8 → o.gs = 0#2)
      (fits → lands (.sscale o) fun v =>
        { v with scs := o.ss, gs := o.gs.toNat, zps := (BitVec.ofNat 20 (b.tile.kreg o.a).toNat).toInt }) ∧
      (¬ fits → Completes (.sscale o) s fun t => SlotFaults s t b .arg 0 0))) ∧
  (∀ (s : State) (b : Block) (w : Slot) (r : SReg), Issues s w.q b → b.tile.sraw r = 0#256 →
    let arg (i : Instr) : Prop := Completes i s fun t => SlotFaults s t b .arg 0 0
    (∀ o : StreamImm, o.w = w → o.s = r → arg (.sbase o)) ∧ (∀ o : SadvOp, o.w = w → o.s = r → arg (.sadv o)) ∧
    (∀ o : StreamK, o.w = w → o.s = r → arg (.sadvB o) ∧ arg (.sgbt o) ∧ arg (.smask o)) ∧
    (∀ o : RopeOp, o.w = w → o.s = r ∨ (o.f = r ∧ ∃ st, b.tile.stream? o.s = .ok st) → arg (.sropeAdj o) ∧ arg (.sropeHalf o)) ∧
    (∀ o : StreamOp, o.w = w → o.s = r → arg (.sropeOff o)) ∧
    ∀ o : SscaleOp, o.w = w → o.s = r ∨ (o.ss = r ∧ ∃ st, b.tile.stream? o.s = .ok st) → arg (.sscale o)) ∧
  (∀ (s : State) (b : Block) (o : CbiOp), Issues s o.w.q b →
    let a := (b.tile.kreg o.a).toNat
    let v := (b.tile.kreg o.b).toNat
    let slot := v % 2 ^ 24
    let n := v / 2 ^ 24 % 2 ^ 8
    a / 2 ^ 20 = 0x00FF000000000000 / 2 ^ 20 → a % 16 = 0 → v < 2 ^ 32 → slot ≠ 0 → slot % 16 = 0 → n ≠ 0 →
    b.scrLen ≠ 0 → b.scrOff ≤ a % 2 ^ 20 → a % 2 ^ 20 + slot * n ≤ b.scrOff + b.scrLen → s.ringBusy b s.cur.blk o.c = false →
    Completes (.cbi o) s fun t => ∃ e, Emits s t b [(2, e, 0#5)] ∧ RingEffect e o.c fun _ =>
      { rbase := a, slot, nslot := n, f := 0#32, e := 0#32, bnd := true, fld := false, fptr := 0#32 }) ∧
  (∀ (s : State) (b : Block) (o : RingOp) (c : Ring), Issues s o.w.q b → b.tile.ring? o.c = .ok c →
    let n := o.n.toNat
    let filled := (c.f - c.e).toNat
    let failed := c.fld = true ∧ (c.fptr - c.e).toNat < n
    let fault (i : Instr) (k : Code) : Prop := Completes i s fun t => SlotFaults s t b k 0 0
    (n ≤ c.nslot → ¬ failed → n ≤ filled → Completes (.cbw o) s fun t => { t with cores := s.cores } = s ∧
      ∀ k, (if k = b.core ∧ s.cur.scope ≠ .block ∧ s.cur.scope ≠ .core then (s.core k).bumpVer else s.core k) = t.core k) ∧
    (n ≤ c.nslot → ¬ failed → filled < n → Completes (.cbw o) s fun t => TileWaits s t .ring) ∧
    (n ≤ c.nslot → failed → fault (.cbw o) .ring) ∧ (c.nslot < n → fault (.cbw o) .arg) ∧
    (n + filled ≤ c.nslot → Completes (.cbf o) s fun t => { t with cores := s.cores } = s ∧
      ∀ k, (if k = b.core ∧ s.cur.scope ≠ .block ∧ s.cur.scope ≠ .core then (s.core k).bumpVer else s.core k) = t.core k) ∧
    (n ≤ c.nslot → c.nslot < n + filled → Completes (.cbf o) s fun t => TileWaits s t .ring) ∧ (c.nslot < n → fault (.cbf o) .arg) ∧
    /- An advance is a release: its bundle waits while a posted write of the context is not acknowledged. -/
    let free := s.unreleased s.cur.blk = false
    (filled + n ≤ c.nslot → ¬ free → Completes (.cbaF o) s fun t => TileWaits s t .fence) ∧
    (n ≤ filled → ¬ free → Completes (.cbaE o) s fun t => TileWaits s t .fence) ∧
    (filled + n ≤ c.nslot → free → Completes (.cbaF o) s fun t => ∃ e, Emits s t b [(1, e, 0#5)] ∧
      RingEffect e o.c fun r => { r with f := r.f + BitVec.ofNat 32 n }) ∧ (c.nslot < filled + n → fault (.cbaF o) .ring) ∧
    (n ≤ filled → free → Completes (.cbaE o) s fun t => ∃ e, Emits s t b [(1, e, 0#5)] ∧
      RingEffect e o.c fun r => { r with e := r.e + BitVec.ofNat 32 n }) ∧ (filled < n → fault (.cbaE o) .ring)) ∧
  (∀ (s : State) (b : Block) (o : RingOp), Issues s o.w.q b → (ringOf (b.tile.craw o.c)).bnd = false →
    ∀ i ∈ [Instr.cbw o, .cbf o, .cbaF o, .cbaE o], Completes i s fun t => SlotFaults s t b .arg 0 0) ∧
  (∀ (core cx : Nat) (s : State),
    let ends (i : Instr) (w : TileWait) : Prop := Completes i s fun t => { t with blocks := s.blocks } = s ∧
      (∀ n, t.block n = (s.block n).map fun b =>
        if b.core = core ∧ b.cx = some cx ∧ b.inLock = true ∧ b.tile.wait = some w then { b with tile := { b.tile with wait := none } } else b)
    ends (.ringWaitSatisfied core cx) .ring ∧ ends (.copyWaitSatisfied core cx) .copy ∧
    ends (.tileBarrierWaitSatisfied core cx) .tileBar ∧ ends (.drainPoint core cx) .drain ∧ ends (.streamReadReturn core cx) .memRead)

/-- R155, R156, R163, R172-R177: the X slots. A push lands as a column of the shadow bank, with its scales; a beat computes every selected
column of R174 as its array stood at issue and lands in the accumulator row at s + 36; a drain converts the selected elements. A tile
that awaits `ybar.wt` is left out: its words are undefined there (R211). The layout of a bank column (log 29) and the marks of R211
(log 34) are the model's own. -/
def Obligations.ArrayOperations : Prop :=
  (∀ (s : State) (b : Block) (o : XmodeOp), Issues s o.w.q b →
    let pairs : List (Nat × Nat) := [(8, 8), (7, 7), (9, 9), (9, 10), (10, 9), (10, 10), (0, 0), (0, 11), (0, 12)]
    if (o.af.toNat, o.wf.toNat) ∈ pairs then
      Completes (.xmode o) s fun t => ∃ e, Emits s t b [(1, e, 0#5)] ∧ ∀ (x : Tile) (free : Nat) (l : Landing), l.eff = e →
        let y := (x.apply free l).1
        y.af = o.af ∧ y.wf = o.wf ∧ y.pi = 0#5 ∧ (∀ j, Tbl.get 0#5120 y.bank0 j = 0#5120 ∧ Tbl.get 0#5120 y.bank1 j = 0#5120) ∧
        (∀ m ∈ y.fly, ∀ k j c, m.eff = .push k j c → l.issued ≤ m.issued) ∧
        { y with af := x.af, wf := x.wf, bank0 := x.bank0, bank1 := x.bank1, pi := x.pi, fly := x.fly } = x
    else Completes (.xmode o) s fun t => SlotFaults s t b .arg 0 0) ∧
  (∀ (s : State) (b : Block) (w : Slot), Issues s w.q b → Completes (.xswap w) s fun t => ∃ e, Emits s t b [(1, e, 0#5)] ∧
    ∀ (x : Tile) (free : Nat) (l : Landing), l.eff = e → (x.apply free l).1 = { x with bankSel := !x.bankSel, pi := 0#5 }) ∧
  (∀ (s : State) (b : Block) (o : XmaskOp), Issues s o.w.q b → Completes (.xmask o) s fun t => ∃ e, Emits s t b [(1, e, 0#5)] ∧
    ∀ (x : Tile) (free : Nat) (l : Landing), l.eff = e → (x.apply free l).1 =
      { x with cm := (b.tile.kreg o.a).extractLsb' 0 32, rm := (b.tile.kreg o.a).extractLsb' 32 32, dc := o.dc }) ∧
  (∀ (s : State) (b : Block) (o : XpushOp) (st : Stream) (d : Nat) (els ss zs : List Nat) (s1 s2 : State), Issues s o.w.q b →
    b.tile.rowStream o.s = .ok st → cellDepth (tyAt b.tile.af) (tyAt b.tile.wf) = some d → st.fmt = tyAt b.tile.wf → st.wr = false →
    st.epr ≤ 32 * d → s.readRow b s.cur.blk st st.rpos (32 * d) = .ok (els, s1) →
    s1.weightScales b s.cur.blk st st.rpos els.length = .ok (ss, zs, s2) →
    Completes (.xpush o) s fun t => ∃ col : BitVec 5120, OthersKept s t s.cur.blk ∧ ((s.ctx b.slot).traces 5 = false → L1LinesWhole s → HomeKept s t) ∧
      (∃ c, t.block s.cur.blk = some c ∧ { c with tile := { c.tile with fly := b.tile.fly, pi := b.tile.pi } } = b ∧
        c.tile.pi = (if o.e then b.tile.pi else b.tile.pi + 1#5) ∧ c.tile.fly.Perm (b.tile.fly ++
          [⟨b.tile.step + 3, b.tile.step, s.cur.slot, s.cur.baddr, .push (!b.tile.bankSel) (if o.e then o.col.toNat else b.tile.pi.toNat) col, 0#5⟩,
           ⟨b.tile.step + 1, b.tile.step, s.cur.slot, s.cur.baddr, .advance o.s 1, 0#5⟩])) ∧
      colLen col = els.length ∧ ∀ k, k < els.length → colElem st.fmt col k = els.getD k 0 ∧
        (st.fmt = .q8 ∨ st.fmt = .q4 →
          colScale st.fmt col k = fmtF16.decode (ss.getD (k / 32) 0) ∧ colZero st.fmt col k = (zs.getD (k / 32) 0 % 2 ^ st.fmt.bits : Nat)) ∧
        (st.fmt = .s8 → colScale st.fmt col k = fmtF32.decode (ss.getD 0 0) ∧ colZero st.fmt col k = 0)) ∧
  (∀ (x : Tile) (free : Nat) (l : Landing) (k : Bool) (j : Nat) (c : BitVec 5120), l.eff = .push k j c → let y := (x.apply free l).1
    (∀ i, Tbl.get 0#5120 (if k then y.bank1 else y.bank0) i = if i = j then c else Tbl.get 0#5120 (if k then x.bank1 else x.bank0) i) ∧
    (if k then y.bank0 = x.bank0 else y.bank1 = x.bank1) ∧ { y with bank0 := x.bank0, bank1 := x.bank1 } = x) ∧
  (∀ (s : State) (b : Block) (o : BeatOp) (st : Stream) (d : Nat) (act : List Nat) (sa : FVal) (s1 s2 : State), Issues s o.w.q b →
    b.tile.rowStream o.s = .ok st → cellDepth (tyAt b.tile.af) (tyAt b.tile.wf) = some d → st.fmt = tyAt b.tile.af → st.wr = false →
    st.epr ≤ 32 * d → s.readRow b s.cur.blk st st.rpos (32 * d) = .ok (act, s1) → s1.actScale b s.cur.blk st st.rpos = .ok (sa, s2) →
    let x := b.tile
    let wf := tyAt x.wf
    let r := if o.ar then st.rpos % 32 else o.row.toNat
    let col (j : Nat) : BitVec 5120 := Tbl.get 0#5120 (if x.bankSel then x.bank1 else x.bank0) j
    let depths (i : Nat) : List Nat := (List.range (32 * d)).filter fun k => k / d = i && k < x.dc.toNat
    let zero : FVal := .fin false 0
    let act (k : Nat) : Option Nat := act[k]?
    let weight (j k : Nat) : Option Nat := if k < colLen (col j) then some (colElem wf (col j) k) else none
    let cellF (j i : Nat) : List (Option FVal) := (depths i).map fun k =>
      product (((act k).map (fmtOf st.fmt).decode).getD zero) (((weight j k).map (fmtOf wf).decode).getD zero)
    let cellI (j i : Nat) : List (Option FVal) := [some (realVal ((depths i).map fun k =>
      sa.real * (((act k).map fun p => (BitVec.ofNat 8 p).toInt).getD 0 : Int) * (colScale wf (col j) k).real *
      (((weight j k).map fun p => (if wf = .s8 then (BitVec.ofNat 8 p).toInt else (p : Int)) - colZero wf (col j) k).getD 0 : Int)).sum)]
    (st.fmt = .s8 → (∃ n v, sa = .fin n v) ∧ ∀ j k, ∃ n v, colScale wf (col j) k = .fin n v) →
    ∀ add : Bool, Completes (if add then .xacc o else .xshift o) s fun t => ∃ (p : Nat → W32) (f : Nat → Flags),
      let cols := if x.rm.getLsbD r then (List.range 32).filter fun j => x.cm.getLsbD j else []
      EmitsQuiet s t b [(36, .beat add o.t.toNat r (cols.map fun j => (j, p j)), orFlags (cols.map f)), (1, .advance o.s 1, 0#5)] ∧
      ∀ j ∈ cols, ColumnSum (if st.fmt = .s8 then cellI j else cellF j) (p j).toNat (f j)) ∧
  (∀ (x : Tile) (free : Nat) (l : Landing) (add : Bool) (t r : Nat) (cols : List Nat) (p : Nat → W32), KeeperOwns x t → r < 32 →
    cols.Nodup → (∀ j ∈ cols, j < 32) → l.eff = .beat add t r (cols.map fun j => (j, p j)) → let y := x.apply free l
    { y.1 with acc := x.acc } = x ∧ (∀ i, (∀ j ∈ cols, i ≠ accIdx t r j) → y.1.accWord i = x.accWord i) ∧
    ∃ g : Nat → Flags, y.2 = orFlags (cols.map g) ∧ ∀ j ∈ cols,
      if add then ArraySum [some (f32 (x.accWord (accIdx t r j)).toNat), some (f32 (p j).toNat)] (y.1.accWord (accIdx t r j)).toNat (g j)
      else y.1.accWord (accIdx t r j) = p j ∧ g j = 0#5) ∧
  (∀ (s : State) (b : Block) (o : DrainOp) (st : Stream) (eff : Effect) (s1 : State), Issues s o.w.q b → b.tile.rowStream o.s = .ok st →
    KeeperOwns b.tile o.t.toNat → (st.fmt = .f32 ∨ st.fmt = .f16 ∨ st.fmt = .bf16 ∨ st.fmt.isF8 = true) → st.wr = true →
    let x := b.tile
    let r := if o.ar then st.rpos % 32 else o.row.toNat
    let cols := (List.range 32).filter fun j => x.rm.getLsbD r && x.cm.getLsbD j && j < st.epr && j < st.bcol && st.rpos < st.brow
    let conv (j : Nat) : FVal × Flags := convFloat (fmtOf st.fmt) .rne st.ovf false (f32 (x.accWord (accIdx o.t.toNat r j)).toNat)
    let out (j : Nat) : Nat := if st.fmt = .f32 then (x.accWord (accIdx o.t.toNat r j)).toNat else (fmtOf st.fmt).encode (conv j).1
    let fl (j : Nat) : Flags := if st.fmt = .f32 then 0#5 else (conv j).2
    ({ s with free := s.free + 262144 } : State).writeRow b s.cur.blk st st.rpos (cols.map fun j => (j, out j)) = .ok (eff, s1) →
    Completes (.xdrain o) s fun t => EmitsQuiet s t b ([(6, eff, orFlags (cols.map fl)), (1, .advance o.s 1, 0#5)] ++
      if o.z then [(1, .beat false o.t.toNat r ((List.range 32).map fun j => (j, 0#32)), 0#5)] else [])) ∧
  (∀ (x : Tile) (free : Nat) (l : Landing) (t : Nat) (out : List (Nat × W32)), KeeperOwns x t → (out.map Prod.fst).Nodup →
    (∀ e ∈ out, e.1 < accSide t 3 ∧ accIdx t 0 0 ≤ e.1) → l.eff = .tile t out → let y := (x.apply free l).1
    { y with acc := x.acc } = x ∧ (∀ e ∈ out, y.accWord e.1 = e.2) ∧ ∀ i, (∀ e ∈ out, i ≠ e.1) → y.accWord i = x.accWord i)

/-- R155, R156, R178-R180: the element-wise and reducing operations of the Y slot, on the elements that the masks select, rounded once
under RNE into the destination's type, every NaN being invalid. A NaN side word at the start of a reduction is treated as an operand
(log 58), and the rounded exponential is what the model computes for it (log 15). -/
def Obligations.VectorUnitOperations : Prop :=
  (∀ (x : Tile) (r c : Nat), (r, c) ∈ x.selected ↔ r < 32 ∧ c < 32 ∧ x.rm.getLsbD r = true ∧ x.cm.getLsbD c = true) ∧
  (∀ (s : State) (b : Block) (w : Slot) (d a a2 : YOpnd) (cd ca ca2 : BitVec 7), Issues s w.q b → b.tile.opnd cd = .ok d →
    b.tile.opnd ca = .ok a → b.tile.opnd ca2 = .ok a2 →
    let l := b.tile.selected
    let lands (i : Instr) (lat : Nat) (rule : Nat → Nat → Nat → Flags → Prop) : Prop := Completes i s fun t =>
      ∃ (p : Nat → Nat → Nat) (f : Nat → Nat → Flags),
        Emits s t b [(lat, d.write (l.map fun e => (e.1, e.2, p e.1 e.2)), orFlags (l.map fun e => f e.1 e.2))] ∧
        ∀ e ∈ l, rule e.1 e.2 (p e.1 e.2) (f e.1 e.2)
    (∀ f16 : Bool,
      let F := fmtOf (d.ty f16)
      let va := s.yVal b a f16
      let vb := s.yVal b a2 f16
      lands (.yadd ⟨w, cd, ca, ca2, f16⟩) 4 (fun r c => UnitSum F [va r c, vb r c] [some (va r c), some (vb r c)]) ∧
      lands (.ymul ⟨w, cd, ca, ca2, f16⟩) 4 (fun r c => UnitSum F [va r c, vb r c] [product (va r c) (vb r c)]) ∧
      (∀ (t : AReg) (sw : Bool), KeeperOwns b.tile t.toNat →
        let o (r : Nat) : FVal := f32 (b.tile.accWord (accIdx t.toNat r (32 + sw.toNat))).toNat
        lands (.yrsc ⟨w, cd, ca, t, sw, f16⟩) 4 (fun r c => UnitSum F [va r c, o r] [product (va r c) (o r)]) ∧
        lands (.yexp ⟨w, cd, ca, t, sw, f16⟩) 8 (fun r c p fl =>
          match va r c, o r with
          | .nan _, _ => p = F.canonNan ∧ fl = fInvalid
          | _, .nan _ => p = F.canonNan ∧ fl = fInvalid
          | .inf m, .inf n => if m = n then p = F.canonNan ∧ fl = fInvalid else p = (if m then 0 else F.encode (.inf false)) ∧ fl = 0#5
          | .inf m, .fin _ _ => p = (if m then 0 else F.encode (.inf false)) ∧ fl = 0#5
          | .fin _ _, .inf n => p = (if n then F.encode (.inf false) else 0) ∧ fl = 0#5
          | u@(.fin _ _), v@(.fin _ _) => let z := exp2To F (realVal (u.real - v.real))
            p = F.encode z.1 ∧ fl = z.2)) ∧
      (a.wide = false ∨ d.wide = true →
        let moves (i : Instr) (lat : Nat) (src : Nat → Nat → Nat × Nat) : Prop := lands i lat fun r c p fl =>
          let q := s.yElem b a (src r c).1 (src r c).2
          let v := (fmtOf (a.ty f16)).decode q
          if a.wide = d.wide then p = q ∧ fl = 0#5
          else if v.isNan = true then p = 0x7FC00000 ∧ fl = fInvalid else p < 2 ^ 32 ∧ f32 p = v ∧ fl = 0#5
        moves (.ymov ⟨w, cd, ca, f16⟩) 4 (fun r c => (r, c)) ∧ moves (.ytr ⟨w, cd, ca, f16⟩) 12 (fun r c => (c, r))) ∧
      (a.wide = true → d.wide = false → Completes (.ymov ⟨w, cd, ca, f16⟩) s (fun t => SlotFaults s t b .arg 0 0) ∧
        Completes (.ytr ⟨w, cd, ca, f16⟩) s (fun t => SlotFaults s t b .arg 0 0)) ∧
      (∀ (td : Ty) (ovf : Ovf) (clr : Bool), (td = .f32 ∨ td = .f16 ∨ td = .bf16 ∨ td.isF8 = true) →
        (d.wide = true ∨ td = .f16 ∨ td = .bf16) → Completes (.ycvt ⟨w, cd, ca, td, ovf, clr, f16⟩) s fun t =>
        ∃ (p : Nat → Nat → Nat) (m : W32),
          let z (r c : Nat) : FVal × Flags := convFloat (fmtOf td) .rne ovf (exactConv (a.ty f16) td) (va r c)
          let main := (4, d.write (l.map fun e => (e.1, e.2, p e.1 e.2)), orFlags (l.map fun e => (z e.1 e.2).2))
          (∀ e ∈ l, let q := (fmtOf td).encode (z e.1 e.2).1
            if d.wide = true then p e.1 e.2 = fmtF32.encode ((fmtOf td).decode q) else p e.1 e.2 = q) ∧
          (∀ e ∈ l, ∀ n v, va e.1 e.2 = .fin n v → fmtF32.encode (.fin false v) ≤ m.toNat) ∧
          (m = 0#32 ∨ ∃ e ∈ l, ∃ n v, va e.1 e.2 = .fin n v ∧ m.toNat = fmtF32.encode (.fin false v)) ∧
          match a with
          | .view _ _ => Emits s t b [main]
          | .tile k => Emits s t b (main :: (4, .amax k m, 0#5) :: if clr then [(0, .tile k [(accSide k 0, 0#32)], 0#5)] else [])))) ∧
  (∀ (s : State) (b : Block) (o : YRedOp) (a : YOpnd), Issues s o.w.q b → b.tile.opnd o.a = .ok a → KeeperOwns b.tile o.t.toNat →
    let t := o.t.toNat
    let rows := (List.range 32).filter fun r => b.tile.rm.getLsbD r
    let cols := (List.range 32).filter fun c => b.tile.cm.getLsbD c
    let old (r : Nat) : FVal := f32 (b.tile.accWord (accIdx t r (32 + o.sw.toNat))).toNat
    let v := s.yVal b a o.f16
    let lands (i : Instr) (rule : Nat → Nat → Flags → Prop) : Prop := Completes i s fun u => ∃ (p : Nat → W32) (f : Nat → Flags),
      Emits s u b [(4, .tile t (rows.map fun r => (accIdx t r (32 + o.sw.toNat), p r)), orFlags (rows.map f))] ∧
      ∀ r ∈ rows, rule r (p r).toNat (f r)
    lands (.yrmax o) (fun r p fl =>
      let vs := (if o.k then [old r] else []) ++ cols.map (v r)
      if (vs.any FVal.isNan) = true then p = 0x7FC00000 ∧ fl = fInvalid
      else fl = 0#5 ∧ ∃ m ∈ FVal.inf true :: vs, p = fmtF32.encode m ∧ ∀ x ∈ vs, fLtZ m x = false) ∧
    lands (.yrsum o) (fun r p fl => ∃ (x : Nat → Nat) (g : Nat → Flags),
      x 0 = (if o.k then fmtF32.encode (old r) else 0) ∧ p = x cols.length ∧
      fl = orFlags ((if o.k = true ∧ (old r).isNan = true then fInvalid else 0#5) :: (List.range cols.length).map g) ∧
      ∀ i c, cols[i]? = some c → UnitSum fmtF32 [f32 (x i), v r c] [some (f32 (x i)), some (v r c)] (x (i + 1)) (g i))) ∧
  (∀ F ∈ [fmtF32, fmtF16, fmtBf16], ∀ k : Int, exp2To F (realVal k) = roundTo F .rne .sat (pow2 k) false) ∧
  (∀ (s : State) (b : Block) (blk : Nat) (l : Landing) (n : Nat) (v : View) (out : List (Nat × Nat × Nat)),
    s.block blk = some b → Tbl.get none b.tile.views n = some v → l.eff = (YOpnd.view n v).write out → (out.map fun e => (e.1, e.2.1)).Nodup → (∀ e ∈ out, e.1 < 32 ∧ e.2.1 < 32) →
    v.tid0 + 128 ≤ b.threads.length → ∃ c, (s.landOne blk l).block blk = some c ∧
      ∀ e ∈ out, c.viewElem v e.1 e.2.1 = e.2.2 % 2 ^ (if v.wide then 32 else 16)) ∧
  (∀ (x : Tile) (free : Nat) (l : Landing) (t : Nat) (v : W32), KeeperOwns x t → l.eff = .amax t v → let y := (x.apply free l).1
    (y.accWord (accSide t 0)).toNat = Nat.max (x.accWord (accSide t 0)).toNat v.toNat ∧ { y with acc := x.acc } = x ∧
    ∀ i, i ≠ accSide t 0 → y.accWord i = x.accWord i)

/-- R181-R183, R208, R209: softmax states are written as records of 4,416 bytes and merged in ascending order of block index; `ybar.arv`
is pending from its issue, which waits as a release does for the context's posted writes, and `ybar.wt` is ILL on a pending arrival and
waits while the correction block has the tile. Where a tile awaits `ybar.wt` its words are free (log 34), and the exponentials of a merge
are what the model computes for them (log 15). -/
def Obligations.SoftmaxStatesAndTileBarriers : Prop :=
  (∀ (s : State) (b : Block) (o : SmstOp) (st : Stream) (a : Nat) (l : List (Nat × Nat × Place)), Issues s o.w.q b →
    b.tile.rowStream o.s = .ok st → st.fmt = .f32 → st.vw = false → st.stride % 64 = 0 → 4416 ≤ st.stride →
    b.tile.rowAddr st st.rpos = .ok a → a < 2 ^ 56 → a % 4 = 0 → KeeperOwns b.tile o.t.toNat →
    let word (r c : Nat) : W32 := b.tile.accWord (accIdx o.t.toNat r c)
    let byte (i : Nat) : Byte := if i < 4 then (b.tile.kreg o.b).extractLsb' (8 * i) 8 else if i = 4 then 1#8 else if i < 64 then 0#8
      else (word ((i - 64) / 4 / 34) ((i - 64) / 4 % 34)).extractLsb' (8 * (i % 4)) 8
    s.places (b.engine s.cur.blk s.cur.slot) .write (chunks a 72 4416) = .ok l →
    (∀ x ∈ pieces l ((List.range 4416).map byte), s.writeOk x.1 x.2.1 x.2.2 false = .ok ()) →
    Completes (.smst o) s fun t => ∃ out : List (Nat × Nat × Byte), EmitsQuiet s t b [(4, .mem out, 0#5), (1, .advance o.s 1, 0#5)] ∧
      out.map (fun e => (e.1, e.2.2)) = (List.range 4416).map (fun i => (a + i, byte i)) ∧
      ∀ x ∈ l, ∀ i, i < x.2.1 → ∃ v, (x.1 + i, x.2.2.loc + i, v) ∈ out) ∧
  (∀ (s : State) (b : Block) (o : SmrgOp) (st : Stream) (rs l : List SmRec) (s1 : State), Issues s o.w.q b →
    b.tile.rowStream o.s = .ok st → st.fmt = .f32 → st.vw = false → st.stride % 64 = 0 → 4416 ≤ st.stride →
    s.smRecs b s.cur.blk st st.rpos (o.n.toNat + 1) = .ok (rs, s1) →
    ((∃ x ∈ rs, x.valid ≠ 1) → Completes (.smrg o) s fun t => SlotFaults s t b .arg 0 0) ∧
    ((∀ x ∈ rs, x.valid = 1) → l.Perm rs → l.Pairwise (fun x y => x.idx < y.idx) → Completes (.smrg o) s fun t =>
      ∃ (z : Nat → Nat → Nat → Nat) (g : Nat → Nat → Flags),
        EmitsQuiet s t b [(10, .tile o.t.toNat ((List.range 32).flatMap fun r => (List.range 34).map fun c =>
            (accIdx o.t.toNat r c, BitVec.ofNat 32 (z (l.length - 1) r c))),
            orFlags ((List.range 32).flatMap fun r => (List.range (l.length - 1)).map (g r))), (1, .advance o.s (o.n.toNat + 1), 0#5)] ∧
        ∀ r, r < 32 →
          (∀ x, l[0]? = some x → ∀ c, c < 34 → z 0 r c = (x.words.getD (34 * r + c) 0#32).toNat) ∧
          ∀ i x, l[i + 1]? = some x → MergedRow (z i r) (fun c => (x.words.getD (34 * r + c) 0#32).toNat) (z (i + 1) r) (g r i))) ∧
  (∀ (s : State) (b : Block) (o : YbarOp), Issues s o.w.q b →
    let t := o.t.toNat
    let karr := (b.tile.accWord (accSide t 1)).toNat
    let carr := (b.tile.accWord (accSide t 2)).toNat
    let pending := ∃ y ∈ b.tile.arrivals, y.1 = t
    let away := karr % 2 ^ 16 = (carr + 1) % 2 ^ 16
    (s.unreleased s.cur.blk = true → Completes (.ybarArv o) s fun u => TileWaits s u .fence) ∧
    (s.unreleased s.cur.blk = false → Completes (.ybarArv o) s fun u => DeviceKept s u ∧ OthersKept s u s.cur.blk ∧
      u.block s.cur.blk = some { b with tile := { b.tile with arrivals := b.tile.arrivals ++ [(t, b.tile.step, s.cur.baddr)] } }) ∧
    (pending → Completes (.ybarWt o) s fun u => SlotFaults s u b .ill 0 0) ∧
    (¬ pending → away → Completes (.ybarWt o) s fun u => TileWaits s u .tileBar) ∧
    (¬ pending → ¬ away → Completes (.ybarWt o) s fun u => ∃ e, Emits s u b [(0, e, 0#5)] ∧
      ∀ (x : Tile) (free : Nat) (m : Landing), m.eff = e → KeeperOwns (x.apply free m).1 t))

/-- R50, R184-R188, R282: the F slot. A taken branch issues two more bundles in sequence and then its target, and ends the loops; a loop
runs its body as often as its count says, and skips it for a count of 0; `gret`, a release at block scope, waits for the context's posted
writes and ends the lock with the operations of its own bundle landed (log 69); `ftrap` and `fbrk` note a trap of their bundle; a release
`ffence` waits for the posted writes and at fabric scope for the deliveries into copies of this device (log 80), and raises the TIMEOUT of a
write never acknowledged (log 70); an acquire bumps VER at cluster scope and wider. How a skipped body is counted is the model's reading
(log 28), and so is that a taken branch ends the words that its own bundle holds (log 71). -/
def Obligations.FlowOperations : Prop :=
  (∀ (s : State) (b : Block) (q : QReg), Issues s q b →
    let becomes (i : Instr) (x : Tile) : Prop := Completes i s fun t => DeviceKept s t ∧ OthersKept s t s.cur.blk ∧
      t.block s.cur.blk = some { b with tile := x }
    let branched (target : Addr) (link : Option (KReg × Nat × Addr)) : Tile :=
      { b.tile with delay := some (target, 3, link), loops := [], lbuf := [], exempt := 0#8 }
    let rel (off : Int) : Addr := BitVec.ofInt 56 (s.cur.baddr.toNat + 4 * off)
    (∀ (a : KReg) (z : Bool) (off : BitVec 15), if (b.tile.kreg a = 0#64) = (z = true) then becomes (.fbr ⟨q, a, z, off⟩) (branched (rel off.toInt) none)
      else exec (.fbr ⟨q, a, z, off⟩) s = .next s) ∧
    (∀ off : BitVec 21, becomes (.fjmp ⟨q, off⟩) (branched (rel off.toInt) none)) ∧
    (∀ (k : KReg) (off : BitVec 16), becomes (.fcall ⟨q, k, off⟩) (branched (rel off.toInt) (some (k, b.tile.step, s.cur.baddr)))) ∧
    (∀ a : KReg, let v := (b.tile.kreg a).toNat
      if v < 2 ^ 56 ∧ v % 4 = 0 then
        becomes (.fjmpIndirect ⟨q, a⟩) (branched (BitVec.ofNat 56 v) none) ∧ becomes (.fret ⟨q, a⟩) (branched (BitVec.ofNat 56 v) none)
      else Completes (.fjmpIndirect ⟨q, a⟩) s (fun t => SlotFaults s t b .align 0 v) ∧
        Completes (.fret ⟨q, a⟩) s (fun t => SlotFaults s t b .align 0 v)) ∧
    (∀ (l : BitVec 3) (c : KReg) (n : BitVec 5),
      let len := n.toNat + 1
      let count := (b.tile.kreg c).setWidth 32
      let bad := ∃ y ∈ b.tile.loops, y.level = l.toNat ∨ (y.len : Int) - 1 < y.idx + len
      (bad → Completes (.floop ⟨q, l, c, n⟩) s fun t => SlotFaults s t b .arg 0 0) ∧
      (¬ bad → count = 0#32 → Completes (.floop ⟨q, l, c, n⟩) s fun t => ∃ x : Tile, t.block s.cur.blk = some { b with tile := x } ∧
        x.nreg l.toNat = 0#32 ∧ x.skip = len ∧ { x with n := b.tile.n, skip := b.tile.skip } = b.tile) ∧
      (¬ bad → count ≠ 0#32 → Completes (.floop ⟨q, l, c, n⟩) s fun t => ∃ x : Tile, t.block s.cur.blk = some { b with tile := x } ∧
        x.nreg l.toNat = count ∧ (∀ m, m ≠ l.toNat → x.nreg m = b.tile.nreg m) ∧
        x.loops = ⟨l.toNat, len, -1, s.cur.baddr⟩ :: b.tile.loops ∧ { x with n := b.tile.n, loops := b.tile.loops } = b.tile)) ∧
    let posted := s.remotes.filter fun r => r.posted s.cur.blk && agentOfTile r.agent
    let late (t : State) : Prop :=
      SlotFaults { s with remotes := s.remotes.filter fun r => !(r.posted s.cur.blk && agentOfTile r.agent && r.failed) } t b .timeout 0 0
    ((∃ r ∈ posted, r.failed = false) → Completes (.gret q) s fun t => TileWaits s t .fence) ∧
    (posted ≠ [] → (∀ r ∈ posted, r.failed = true) → Completes (.gret q) s late) ∧
    (posted = [] → Completes (.gret q) s fun t => OthersKept s t s.cur.blk ∧ ∃ c, t.block s.cur.blk = some c ∧ c.tile.fly = [] ∧
      /- A write among those that landed may have to be acknowledged first. -/
      if t.unacked s.cur.blk agentOfTile = true then c.inLock = b.inLock ∧ c.tile.wait = some .leaving
      else c.inLock = false ∧ c.gate = none ∧ c.tile.views = [] ∧ c.tile.loops = [] ∧ c.tile.held = [] ∧ c.tile.delay = none ∧
        ∀ x ∈ c.threads, x.status ≠ .asleep) ∧
    (posted = [] → b.tile.fly = [] → b.tile.arrivals = [] → Completes (.gret q) s fun t => DeviceKept s t ∧ OthersKept s t s.cur.blk ∧
      ∃ c, t.block s.cur.blk = some c ∧ c.inLock = false ∧ c.gate = none ∧ c.tile.views = [] ∧ c.tile.loops = [] ∧ c.tile.held = [] ∧ c.tile.delay = none ∧
      { c with inLock := b.inLock, gate := b.gate, threads := b.threads, tile := b.tile } = b ∧
      { c.tile with views := b.tile.views, loops := b.tile.loops, lbuf := b.tile.lbuf, exempt := b.tile.exempt, held := b.tile.held, delay := b.tile.delay } = b.tile ∧
      c.threads = b.threads.map fun x =>
        if x.status = .asleep then { x with status := .active, pc := b.gate.getD x.pc + 8#56 } else x) ∧
    (∀ n : BitVec 8,
      let traps (i : Instr) (kind : Nat) : Prop := Completes i s fun t =>
        let r : Rec := { s.slotRec b with kind, num := n.toNat }
        t = { s with cur := { s.cur with tileFault := some (s.cur.slot, r.bits) } }
      traps (.ftrap ⟨q, n⟩) 1 ∧ traps (.fbrk ⟨q, n⟩) 2) ∧
    (∀ kind : FenceKind, kind ≠ .acq →
      ((∃ r ∈ posted, r.failed = false) ∨ (s.cur.scope = .fabric ∧ s.casting ≠ []) →
        Completes (.ffence ⟨q, kind⟩) s fun t => TileWaits s t .fence) ∧
      (posted ≠ [] → (∀ r ∈ posted, r.failed = true) → (s.cur.scope = .fabric → s.casting = []) →
        Completes (.ffence ⟨q, kind⟩) s late)) ∧
    (posted = [] → (s.cur.scope = .fabric → s.casting = []) → exec (.ffence ⟨q, .rel⟩) s = .next s) ∧
    (∀ kind : FenceKind, kind ≠ .rel → (kind = .acq ∨ (posted = [] ∧ (s.cur.scope = .fabric → s.casting = []))) →
      Completes (.ffence ⟨q, kind⟩) s fun t => { t with cores := s.cores } = s ∧
      ∀ k, t.core k = if k = b.core ∧ s.cur.scope ≠ .block ∧ s.cur.scope ≠ .core then (s.core k).bumpVer else s.core k)) ∧
  (∀ (h : Header) (s : State), exec (.idleStep h) s = .next s) ∧
  (∀ (b : Block) (a target : Addr) (link : Option (KReg × Nat × Addr)) (h1 h2 h3 : W32) (w1 w2 w3 : List (Nat × W32)), b.inLock = true →
    b.tile.delay = some (target, 3, link) → let next (a : Addr) (h : W32) : Addr := a + BitVec.ofNat 56 (bundleLen h)
    let c1 := b.closeStep a h1 w1
    let c2 := c1.closeStep c1.tile.baddr h2 w2
    let c3 := c2.closeStep c2.tile.baddr h3 w3
    c1.tile.baddr = next a h1 ∧ c1.tile.held = [] ∧ c2.tile.baddr = next (next a h1) h2 ∧ c3.tile.baddr = target ∧ c3.tile.delay = none ∧
    c3.tile.step = b.tile.step + 3 ∧
    ∀ r i z, link = some (r, i, z) → ∃ l ∈ c3.tile.fly, l.eff = .k r ((next (next (next a h1) h2) h3).setWidth 64) ∧ l.at_ = i + 3) ∧
  (∀ (x : Tile) (l : Loop) (next : Addr), x.loops = [l] → l.idx ≠ -1 → let y := x.advanceLoops next
    (l.idx + 1 < l.len → y.baddr = next ∧ y.loops = [{ l with idx := l.idx + 1 }] ∧ y.n = x.n) ∧
    (l.idx + 1 = l.len → 1 < (x.nreg l.level).toNat → y.baddr = l.first ∧ y.loops = [{ l with idx := 0 }] ∧
      (y.nreg l.level).toNat = (x.nreg l.level).toNat - 1) ∧
    (l.idx + 1 = l.len → (x.nreg l.level).toNat ≤ 1 → y.baddr = next ∧ y.loops = [] ∧ y.nreg l.level = 0#32))

/-- R51, R52, R155, R183, R209: a context that runs applies the results that are due at its step, in order of landing step, issue step and
slot, before anything of the step reads state; then an arrival of `ybar.arv` that is due gives its tile to the correction block, which the
model marks in a word of its own (log 34). A context that is frozen or pre-empted applies none. -/
def Obligations.ResultsLand : Prop :=
  (∀ (x : Landing) (l : List Landing), l.Pairwise (fun a c => c.before a = false) →
    (insertLanding x l).Pairwise (fun a c => c.before a = false) ∧ (insertLanding x l).Perm (x :: l)) ∧
  (∀ (core cx : Nat) (s : State),
    let same (i : Instr) : Prop := exec i s = .next s
    (s.tileAt core cx = none → same (.resultLanding core cx) ∧ same (.tileBarrierArrival core cx)) ∧
    ∀ (blk : Nat) (b : Block), s.tileAt core cx = some (blk, b) → s.block blk = some b →
      (b.life ≠ .running → same (.resultLanding core cx) ∧ same (.tileBarrierArrival core cx)) ∧
      (b.life = .running → (∀ l ∈ b.tile.fly, b.tile.step < l.at_) → same (.resultLanding core cx)) ∧
      (∀ l rest, b.life = .running → b.tile.fly = l :: rest → l.at_ ≤ b.tile.step → (∀ m ∈ rest, b.tile.step < m.at_) →
        (∀ af wf, l.eff ≠ .mode af wf) → (∀ out, l.eff ≠ .mem out) → Completes (.resultLanding core cx) s fun t =>
          DeviceKept s t ∧ OthersKept s t blk ∧ ∃ c, t.block blk = some c ∧
            let y := ({ b.tile with fly := rest } : Tile).apply s.free l
            c.tile = y.1.raise l.slot l.baddr (l.fl ||| y.2) ∧ { c with tile := b.tile, threads := b.threads } = b) ∧
      (∀ l rest out, b.life = .running → b.tile.fly = l :: rest → l.at_ ≤ b.tile.step → (∀ m ∈ rest, b.tile.step < m.at_) →
        l.eff = .mem out → (∀ o ∈ out, l1May b.core o.2.1 = false ∨ s.ownedBy b.core o.2.1 = false) → (out.map fun o => o.2.1).Nodup →
        (s.ctx b.slot).traces 5 = false → Completes (.resultLanding core cx) s fun t => OthersKept s t blk ∧
          (∀ o ∈ out, t.byte o.2.1 = o.2.2) ∧ (∀ a, (∀ o ∈ out, a ≠ o.2.1) → t.byte a = s.byte a) ∧
          t.block blk = some { b with tile := ({ b.tile with fly := rest } : Tile).raise l.slot l.baddr l.fl }) ∧
      (∀ t i a, b.life = .running → b.tile.fly = [] → b.tile.arrivals = [(t, i, a)] → i + 4 ≤ b.tile.step → b.tile.withCorrection t = false →
        Completes (.tileBarrierArrival core cx) s fun u => DeviceKept s u ∧ OthersKept s u blk ∧ ∃ c, u.block blk = some c ∧
          c.tile.arrivals = [] ∧ (c.tile.accWord (accSide t 1)).toNat = ((b.tile.accWord (accSide t 1)).toNat + 1) % 2 ^ 16 ∧
          ¬ KeeperOwns c.tile t ∧ (∀ k, k ≠ accSide t 1 → k ≠ accSide t 3 → c.tile.accWord k = b.tile.accWord k) ∧
          { c.tile with acc := b.tile.acc, arrivals := b.tile.arrivals } = b.tile ∧ { c with tile := b.tile } = b))

/-! ### The machine as a whole -/

/-- R60-R67, R69-R74 and the encoding tables of each instruction: a well-formed instruction's words decode to it, with every operand at
every value that the encoding admits. The events of the device's own units have no words. -/
def Obligations.EncodedInstructionsDecode : Prop :=
  ∀ i : Instr, i.wf = true → encode i ≠ .event → decodeEnc (encode i) = .ok i

/-- R60, R61, R78, R80: what decodes is well-formed, and no two words decode to one instruction, but for the words whose guard is `!p0`:
each of those is a `nop` (R60). -/
def Obligations.DecodingIsCanonical : Prop :=
  ∀ (e : Enc) (i : Instr), decodeEnc e = .ok i → i.wf = true ∧
    (encode i = e ∨ ∃ w : W64, e = .thread w ∧ w.extractLsb' 51 5 = 0b10000#5 ∧ i = .nop ⟨true, 0#4⟩)

/-- R60-R74 and the entries of the instructions: words written out from the encodings, one or more of each family, and what they stand
for. -/
def Obligations.WrittenWordsDecode : Prop :=
  let g : Guard := ⟨false, 0#4⟩
  let v : Slot := ⟨false, 0#3⟩
  decodeThread 0#64 = .ok (.nop g) ∧
  decodeThread 0x4098283038030000#64 = .ok (.fadd ⟨⟨true, 3#4⟩, 5#8, 6#8, 7#8, .rtz, .h2bf16⟩) ∧
  decodeThread 0x2801184AFFFFFFFB#64 = .ok (.cmpi ⟨g, 2#4, 3#4, 9#8, .lt, 0xFFFFFFFB#32⟩) ∧
  decodeThread 0x7800000010200000#64 = .ok (.gate ⟨g, 0#8, 2#8, 4#8⟩) ∧
  decodeThread 0x8000602360000040#64 = .ok (.ld ⟨g, 12#8, 4#8, some .die, .w32, .none, 0x40#25⟩) ∧
  decodeThread 0x81005045A8000000#64 = .ok (.st ⟨g, 10#8, 8#8, some .system, .w64, .none, 0#25⟩) ∧
  decodeThread 0x9000502030431000#64 = .ok (.cpy ⟨g, 10#8, 4#8, 6#8, 8#8, .die, 2#3, none⟩) ∧
  decodeThread 0x9E00305000028002#64 = .ok (.kvunref ⟨g, 6#8, 10#8, .cluster, .rel, 2#8⟩) ∧
  decodeThread 0xC000200000000007#64 = .ok (.sysr ⟨g, 4#8, none, .dpbound⟩) ∧
  decodeThread 0xC100301900000005#64 = .ok (.sysw ⟨g, 6#8, some 3#8, .ptroot⟩) ∧
  decodeThread 0xC300003040000002#64 = .ok (.tlbiVa ⟨g, 6#8, 8#8⟩) ∧
  decodeThread 0xC6000000F0000002#64 = .ok (.idle ⟨g, 0#8, 30#8, 2#2⟩) ∧
  decodeSlot .x 0x08000440#32 = .ok (.xshift ⟨v, 0#6, 0#5, true, 1#4⟩) ∧ decodeSlot .f 0x1000C000#32 = .ok (.floop ⟨0#3, 0#3, 6#6, 0#5⟩) ∧
  decodeHeader 0x8AD80000#32 = some (⟨true, some .die⟩, 0x8A#8) ∧ decodeEnc (.header 0#32) = .ok (.idleStep ⟨false, none⟩)

/-- R60, R69-R72, R78-R82, R109, R157: a step runs the instruction that the bytes where it fetches decode to. For the barge whose turn it
is, those of the smallest pc of its candidate lanes, run on exactly the lanes that stand there; for a tile context, the slot word of
its next bundle, after which the bundle closes. What the agenda holds is the model's own (log 3). -/
def Obligations.StepRunsDecoded : Prop :=
  let goes (s : State) (t : Turn) (l : List Turn) : State := { s.slotBarges with agenda := l }.tick (some (.turn t))
  (∀ (s : State) (t : Turn) (l : List Turn), s.agenda = t :: l → step s = runTurn (some (.turn t)) (goes s t l)) ∧
  (∀ (s : State) (i : Instr) (l : List Turn), s.agenda = .event i :: l → s.off = false → step s = exec i (goes s (.event i) l)) ∧
  (∀ (s : State) (l : List Turn) (blk key : Nat) (b : Block) (pc : Addr) (sys : Bool) (w : W64) (i : Instr) (s2 : State), s.off = false →
    s.agenda = .barge blk key :: l → s.block blk = some b → b.killed = false →
    (b.life = .resident ∨ b.life = .running ∨ b.life = .frozen) → (s.ctx b.slot).stops b blk key = false → (s.ctx b.slot).stepped = none →
    (s.ctx b.slot).bpMatch false pc = none → (∀ n, (s.ctx n).traces 3 = false) → Invariant s →
    (∀ (tid : Nat) (x : Thread), b.threads[tid]? = some x → x.barge = key → (∀ v, x.status ≠ .stalled v) ∧ x.entry = none) →
    let lanes := ((b.candidates key).filter fun x => x.2.pc == pc).map Prod.fst
    lanes ≠ [] → (∀ x ∈ b.candidates key, pc.toNat ≤ x.2.pc.toNat) → (∀ e ∈ s.upsets, e.1 = blk → e.2 ∉ lanes.map some) →
    sys = (b.candidates key).all (fun x => x.2.pc != pc || x.2.sys) →
    let s1 : State := { goes s (.barge blk key) l with cur := { Cursor.idle with blk, lanes, pc, slot := 8, baddr := pc } }
    s1.fetchThread b blk sys (lanes.headD 0) pc = .ok (w, s2) → decodeThread w = .ok i → usesOk b.nregs i = true → s2.interlocked i = false →
    ∃ s3 : State, step s = endIssueOut (syncedOut b blk lanes i (exec i s3)) ∧ s3.cur = s1.cur ∧ HomeKept s s3 ∧ OthersKept s s3 blk ∧
      s3.block blk = some (if b.life = .resident then { b with life := .running } else b)) ∧
  (∀ (b : Block) (key tid : Nat) (x : Thread), (tid, x) ∈ b.candidates key ↔ b.threads[tid]? = some x ∧ x.barge = key ∧ x.status = .active) ∧
  (∀ (s : State) (b : Block) (blk : Nat) (sys : Bool) (who : Nat) (pc : Addr) (pl p2 : Place),
    s.place (b.party blk sys who) pc.toNat 8 .fetch = .ok pl →
    (∀ w, Tbl.get none (s.core b.core).ticache (pl.loc / 8) = some w → ∃ s2, s.fetchThread b blk sys who pc = .ok (w, s2)) ∧
    (Tbl.get none (s.core b.core).ticache (pl.loc / 8) = none → s.readable (b.party blk sys who) pc.toNat pl 8 = .ok p2 →
      ∃ s2, s.fetchThread b blk sys who pc =
        .ok (BitVec.ofNat 64 (match p2.ack with | some (_, l) => leNat (l.take 8) | none => s.word pl.loc 8), s2))) ∧
  (∀ (s : State) (l : List Turn) (core cx blk n : Nat) (b : Block) (h w : W32) (hd : Header) (mask : Byte) (i : Instr) (s2 s3 : State),
    s.off = false → s.agenda = .tile core cx :: l → s.tileAt core cx = some (blk, b) → s.block blk = some b →
    (s.ctx b.slot).stopsTile = false → (s.ctx b.slot).stepped = none → (s.ctx b.slot).bpMatch true b.tile.baddr = none →
    b.life = .running → b.freeze = none →
    b.tile.wait = none → b.tile.fly = [] → b.tile.arrivals = [] → b.tile.skip = 0 → b.tile.loops = [] → b.tile.held = [] →
    b.tile.delay = none → (∀ e ∈ s.upsets, e ≠ (blk, none)) → (∀ n, (s.ctx n).traces 3 = false) → Invariant s →
    (goes s (.tile core cx) l).fetchKeeper b blk b.tile.baddr = .ok (h, s2) → decodeHeader h = some (hd, mask) → hd.dp = false → n < 8 → slotsOf mask = [n] →
    s2.fetchKeeper b blk (b.tile.baddr + 4#56) = .ok (w, s3) → decodeWord b.accTiles false n w = .ok i →
    ∃ s4 : State, HomeKept s s4 ∧ (∀ k, s4.block k = s.block k) ∧
      s4.cur = { Cursor.idle with blk, pc := b.gate.getD 0#56, slot := n, baddr := b.tile.baddr, scope := hd.scope.getD .core } ∧
      ∀ (s5 : State) (c : Block), exec i s4 = .next s5 → s5.cur.tileFault = none → s5.block blk = some c → c.tile.wait = none →
        (∀ k, (s5.ctx k).traces 3 = false) → ∃ t, step s = .next t ∧ BytesKept s5 t ∧ OthersKept s5 t blk ∧
          t.block blk = some (c.closeStep b.tile.baddr h [(n, w)])) ∧
  (∀ (s : State) (b : Block) (blk : Nat) (a : Addr) (pl p2 : Place), b.tile.loops = [] → s.place (b.engine blk 1023) a.toNat 4 .fetch = .ok pl →
    Tbl.get none (s.core b.core).kicache (pl.loc / 4) = none → s.readable (b.engine blk 1023) a.toNat pl 4 = .ok p2 →
    ∃ s2, s.fetchKeeper b blk a = .ok (BitVec.ofNat 32 (match p2.ack with | some (_, l) => leNat l | none => s.word pl.loc 4), s2))

/-- The model's invariant: the lists that stand for memory and for the blocks keep their one canonical form (log 1), and every line of an
L1 is whole, from every state, by every step. -/
def Obligations.StepKeepsInvariant : Prop :=
  ∀ s t : State, Invariant s → step s = .next t → Invariant t

/-- The invariant of the model holds right after a device reset. -/
def Obligations.ResetHasInvariant : Prop :=
 Invariant State.reset

/-- R292, R346-R351, R414, R416: what a device reset leaves where the manual gives a value: the system registers of every context slot,
the device's own, the launch queues, `$clock`, the power cap, and the boot image still to verify. -/
def Obligations.ResetValues : Prop :=
  let s := State.reset
  (∀ n, let c := s.ctx n
    c.tvec = 0#64 ∧ c.frameb = 0#64 ∧ c.asid = 0#16 ∧ c.ptroot = 0#64 ∧ c.part = 0#3 ∧ c.killing = false ∧ c.dpbound = 4096#32 ∧
    c.age = 64#16 ∧ c.det = true ∧ c.kvpool = 0#64 ∧ c.walkstk = 0#64 ∧ c.casttb = 0#64 ∧ c.dse = false ∧ c.halted = false ∧
    c.dsel.toNat = n % 64 ∧ c.stop = 0#512 ∧ (1 ≤ n → c.loaded = false)) ∧
  (∀ q, s.queue q = ⟨0#56, 0#5, false, false, false, 0#16, 0#32, 0#32⟩) ∧
  (∀ blk, s.block blk = none) ∧ (∀ k, s.launch k = none) ∧
  s.cntthr = 256#12 ∧ s.nqbase = 0#64 ∧ s.fqbase = 0#64 ∧ s.clock = 0 ∧ (s.cap 7).basic = 2000#64 ∧ s.bootPending = true ∧ s.off = false ∧
  s.throttled = false
end

