-- ==== Sys2Proof/Laws/Table.lean ====
section
/-! SUPPORT. What a table reads as after an update, and that updates keep the canonical form. -/

namespace Sys2Proof.Laws

open Sys2Proof.Machine

variable {α : Type}

theorem get_erase_self (d : α) (t : Tbl α) (k : Nat) : Tbl.get d (Tbl.erase t k) k = d := by
  induction t with
  | nil => rfl
  | cons e t ih =>
    by_cases h : e.1 = k
    · simpa [Tbl.erase, h] using ih
    · have : Tbl.erase (e :: t) k = e :: Tbl.erase t k := by simp [Tbl.erase, h]
      simpa [this, Tbl.get, h] using ih

theorem get_erase_ne (d : α) (t : Tbl α) {k j : Nat} (h : j ≠ k) : Tbl.get d (Tbl.erase t k) j = Tbl.get d t j := by
  induction t with
  | nil => rfl
  | cons e t ih =>
    by_cases he : e.1 = k
    · have : Tbl.erase (e :: t) k = Tbl.erase t k := by simp [Tbl.erase, he]
      have hj : e.1 ≠ j := by omega
      simpa [this, Tbl.get, hj] using ih
    · have : Tbl.erase (e :: t) k = e :: Tbl.erase t k := by simp [Tbl.erase, he]
      simp [this, Tbl.get, ih]

theorem get_insert_self (d : α) (t : Tbl α) (k : Nat) (v : α) : Tbl.get d (Tbl.insert k v t) k = v := by
  induction t with
  | nil => simp [Tbl.insert, Tbl.get]
  | cons e t ih =>
    by_cases h : e.1 < k
    · have : e.1 ≠ k := by omega
      simp [Tbl.insert, h, Tbl.get, this, ih]
    · simp [Tbl.insert, h, Tbl.get]

theorem get_insert_ne (d : α) (t : Tbl α) {k j : Nat} (v : α) (h : j ≠ k) : Tbl.get d (Tbl.insert k v t) j = Tbl.get d t j := by
  have hk : k ≠ j := fun e => h e.symm
  induction t with
  | nil => simp [Tbl.insert, Tbl.get, hk]
  | cons e t ih =>
    by_cases he : e.1 < k
    · simp [Tbl.insert, he, Tbl.get, ih]
    · simp [Tbl.insert, he, Tbl.get, hk]

variable [DecidableEq α]

/-- An entry reads as what was put there. -/
@[simp] theorem get_put_self (d : α) (t : Tbl α) (k : Nat) (v : α) : Tbl.get d (Tbl.put d t k v) k = v := by
  unfold Tbl.put
  split
  · simp [get_erase_self, *]
  · exact get_insert_self d _ k v

/-- Every other entry reads as before, whatever an unlisted one reads as. -/
theorem get_put_other (d e : α) (t : Tbl α) {k j : Nat} (v : α) (h : j ≠ k) : Tbl.get e (Tbl.put d t k v) j = Tbl.get e t j := by
  unfold Tbl.put
  split
  · exact get_erase_ne e t h
  · rw [get_insert_ne e _ v h, get_erase_ne e t h]
/-- Every other entry reads as before. -/
theorem get_put_ne (d : α) (t : Tbl α) {k j : Nat} (v : α) (h : j ≠ k) : Tbl.get d (Tbl.put d t k v) j = Tbl.get d t j :=
  get_put_other d d t v h

/-- An entry after a put. -/
theorem get_put (d : α) (t : Tbl α) (k j : Nat) (v : α) : Tbl.get d (Tbl.put d t k v) j = if j = k then v else Tbl.get d t j := by
  by_cases h : j = k
  · simp [h]
  · simp [h, get_put_ne d t v h]

omit [DecidableEq α] in
@[simp] theorem get_nil (d : α) (k : Nat) : Tbl.get d ([] : Tbl α) k = d := rfl

/-! ### The canonical form -/

/-- The canonical form as a proposition: keys rise, and no entry is the default. -/
theorem wf_iff (d : α) (t : Tbl α) : Tbl.wf d t = true ↔ t.Pairwise (fun a b => a.1 < b.1) ∧ ∀ e ∈ t, e.2 ≠ d := by
  induction t with
  | nil => simp [Tbl.wf]
  | cons e t ih =>
    cases t with
    | nil => simp [Tbl.wf]
    | cons f t =>
      obtain ⟨i, v⟩ := e
      obtain ⟨j, w⟩ := f
      simp only [Tbl.wf, Bool.and_eq_true, decide_eq_true_eq, ih, List.pairwise_cons, List.mem_cons]
      constructor
      · rintro ⟨⟨hv, hij⟩, ⟨hj, hp⟩, ha⟩
        refine ⟨⟨?_, hj, hp⟩, ?_⟩
        · rintro x (rfl | hx)
          · exact hij
          · exact Nat.lt_trans hij (hj x hx)
        · rintro x (rfl | hx)
          · exact hv
          · exact ha x hx
      · rintro ⟨⟨hi, hj, hp⟩, ha⟩
        exact ⟨⟨ha _ (Or.inl rfl), hi _ (Or.inl rfl)⟩, ⟨hj, hp⟩, fun x hx => ha x (Or.inr hx)⟩

theorem wf_erase (d : α) {t : Tbl α} (h : Tbl.wf d t = true) (k : Nat) : Tbl.wf d (Tbl.erase t k) = true := by
  rw [wf_iff] at h ⊢
  exact ⟨h.1.filter _, fun e he => h.2 e (List.mem_of_mem_filter he)⟩

omit [DecidableEq α] in
theorem mem_insert (k : Nat) (v : α) (t : Tbl α) (e : Nat × α) : e ∈ Tbl.insert k v t → e = (k, v) ∨ e ∈ t := by
  induction t with
  | nil => simp [Tbl.insert]
  | cons f t ih =>
    unfold Tbl.insert
    split
    · rintro (_ | ⟨_, h⟩)
      · exact Or.inr (by simp)
      · rcases ih h with h | h
        · exact Or.inl h
        · exact Or.inr (by simp [h])
    · intro h
      simpa using h

theorem wf_insert (d : α) {t : Tbl α} (h : Tbl.wf d t = true) (k : Nat) {v : α} (hv : v ≠ d) (hk : ∀ e ∈ t, e.1 ≠ k) :
    Tbl.wf d (Tbl.insert k v t) = true := by
  rw [wf_iff] at h ⊢
  refine ⟨?_, fun e he => ?_⟩
  · induction t with
    | nil => simp [Tbl.insert]
    | cons f t ih =>
      have hp := List.pairwise_cons.mp h.1
      unfold Tbl.insert
      split
      · refine List.pairwise_cons.mpr ⟨fun e he => ?_, ih ⟨hp.2, fun e he => h.2 e (by simp [he])⟩ (fun e he => hk e (by simp [he]))⟩
        rcases mem_insert k v t e he with rfl | he
        · assumption
        · exact hp.1 e he
      · rename_i hlt
        have hf : k < f.1 := by
          have := hk f (by simp)
          omega
        refine List.pairwise_cons.mpr ⟨fun e he => ?_, h.1⟩
        rcases List.mem_cons.mp he with rfl | he
        · exact hf
        · exact Nat.lt_trans hf (hp.1 e he)
  · rcases mem_insert k v t e he with rfl | he
    · exact hv
    · exact h.2 e he

/-- A put keeps the canonical form. -/
theorem wf_put (d : α) {t : Tbl α} (h : Tbl.wf d t = true) (k : Nat) (v : α) : Tbl.wf d (Tbl.put d t k v) = true := by
  unfold Tbl.put
  split
  · exact wf_erase d h k
  · rename_i hv
    refine wf_insert d (wf_erase d h k) k hv fun e he => ?_
    have := List.of_mem_filter he
    simpa using this

end Sys2Proof.Laws
end

