-- ==== Sys2Proof/Laws/State.lean ====
section
/-! SUPPORT. What the named updates of the state leave as it was, one lemma per field, and what they make of the field that they change. -/

namespace Sys2Proof.Laws

open Sys2Proof Sys2Proof.Machine

/-! ### A core, a die, a context slot, a tag, a record posted -/

@[simp] theorem modCore_mem (s : State) (c : Nat) (f : CoreSt → CoreSt) : (s.modCore c f).mem = s.mem := rfl
@[simp] theorem modCore_tags (s : State) (c : Nat) (f : CoreSt → CoreSt) : (s.modCore c f).tags = s.tags := rfl
@[simp] theorem modCore_prv (s : State) (c : Nat) (f : CoreSt → CoreSt) : (s.modCore c f).prv = s.prv := rfl
@[simp] theorem modCore_poison (s : State) (c : Nat) (f : CoreSt → CoreSt) : (s.modCore c f).poison = s.poison := rfl
@[simp] theorem modCore_bad (s : State) (c : Nat) (f : CoreSt → CoreSt) : (s.modCore c f).bad = s.bad := rfl
@[simp] theorem modCore_clock (s : State) (c : Nat) (f : CoreSt → CoreSt) : (s.modCore c f).clock = s.clock := rfl
@[simp] theorem modCore_ctxs (s : State) (c : Nat) (f : CoreSt → CoreSt) : (s.modCore c f).ctxs = s.ctxs := rfl
@[simp] theorem modCore_cntthr (s : State) (c : Nat) (f : CoreSt → CoreSt) : (s.modCore c f).cntthr = s.cntthr := rfl
@[simp] theorem modCore_nqbase (s : State) (c : Nat) (f : CoreSt → CoreSt) : (s.modCore c f).nqbase = s.nqbase := rfl
@[simp] theorem modCore_fqbase (s : State) (c : Nat) (f : CoreSt → CoreSt) : (s.modCore c f).fqbase = s.fqbase := rfl
@[simp] theorem modCore_queues (s : State) (c : Nat) (f : CoreSt → CoreSt) : (s.modCore c f).queues = s.queues := rfl
@[simp] theorem modCore_launches (s : State) (c : Nat) (f : CoreSt → CoreSt) : (s.modCore c f).launches = s.launches := rfl
@[simp] theorem modCore_nextLaunch (s : State) (c : Nat) (f : CoreSt → CoreSt) : (s.modCore c f).nextLaunch = s.nextLaunch := rfl
@[simp] theorem modCore_blocks (s : State) (c : Nat) (f : CoreSt → CoreSt) : (s.modCore c f).blocks = s.blocks := rfl
@[simp] theorem modCore_nextBlock (s : State) (c : Nat) (f : CoreSt → CoreSt) : (s.modCore c f).nextBlock = s.nextBlock := rfl
@[simp] theorem modCore_dies (s : State) (c : Nat) (f : CoreSt → CoreSt) : (s.modCore c f).dies = s.dies := rfl
@[simp] theorem modCore_roots (s : State) (c : Nat) (f : CoreSt → CoreSt) : (s.modCore c f).roots = s.roots := rfl
@[simp] theorem modCore_faultWait (s : State) (c : Nat) (f : CoreSt → CoreSt) : (s.modCore c f).faultWait = s.faultWait := rfl
@[simp] theorem modCore_vectors (s : State) (c : Nat) (f : CoreSt → CoreSt) : (s.modCore c f).vectors = s.vectors := rfl
@[simp] theorem modCore_counts (s : State) (c : Nat) (f : CoreSt → CoreSt) : (s.modCore c f).counts = s.counts := rfl
@[simp] theorem modCore_notified (s : State) (c : Nat) (f : CoreSt → CoreSt) : (s.modCore c f).notified = s.notified := rfl
@[simp] theorem modCore_fabricNum (s : State) (c : Nat) (f : CoreSt → CoreSt) : (s.modCore c f).fabricNum = s.fabricNum := rfl
@[simp] theorem modCore_domain (s : State) (c : Nat) (f : CoreSt → CoreSt) : (s.modCore c f).domain = s.domain := rfl
@[simp] theorem modCore_expanders (s : State) (c : Nat) (f : CoreSt → CoreSt) : (s.modCore c f).expanders = s.expanders := rfl
@[simp] theorem modCore_ports (s : State) (c : Nat) (f : CoreSt → CoreSt) : (s.modCore c f).ports = s.ports := rfl
@[simp] theorem modCore_flitsOut (s : State) (c : Nat) (f : CoreSt → CoreSt) : (s.modCore c f).flitsOut = s.flitsOut := rfl
@[simp] theorem modCore_remotes (s : State) (c : Nat) (f : CoreSt → CoreSt) : (s.modCore c f).remotes = s.remotes := rfl
@[simp] theorem modCore_nextRemote (s : State) (c : Nat) (f : CoreSt → CoreSt) : (s.modCore c f).nextRemote = s.nextRemote := rfl
@[simp] theorem modCore_caps (s : State) (c : Nat) (f : CoreSt → CoreSt) : (s.modCore c f).caps = s.caps := rfl
@[simp] theorem modCore_mailbox (s : State) (c : Nat) (f : CoreSt → CoreSt) : (s.modCore c f).mailbox = s.mailbox := rfl
@[simp] theorem modCore_fuseSvn (s : State) (c : Nat) (f : CoreSt → CoreSt) : (s.modCore c f).fuseSvn = s.fuseSvn := rfl
@[simp] theorem modCore_bootPending (s : State) (c : Nat) (f : CoreSt → CoreSt) : (s.modCore c f).bootPending = s.bootPending := rfl
@[simp] theorem modCore_bootTries (s : State) (c : Nat) (f : CoreSt → CoreSt) : (s.modCore c f).bootTries = s.bootTries := rfl
@[simp] theorem modCore_image (s : State) (c : Nat) (f : CoreSt → CoreSt) : (s.modCore c f).image = s.image := rfl
@[simp] theorem modCore_report (s : State) (c : Nat) (f : CoreSt → CoreSt) : (s.modCore c f).report = s.report := rfl
@[simp] theorem modCore_throttled (s : State) (c : Nat) (f : CoreSt → CoreSt) : (s.modCore c f).throttled = s.throttled := rfl
@[simp] theorem modCore_off (s : State) (c : Nat) (f : CoreSt → CoreSt) : (s.modCore c f).off = s.off := rfl
@[simp] theorem modCore_hostData (s : State) (c : Nat) (f : CoreSt → CoreSt) : (s.modCore c f).hostData = s.hostData := rfl
@[simp] theorem modCore_agenda (s : State) (c : Nat) (f : CoreSt → CoreSt) : (s.modCore c f).agenda = s.agenda := rfl
@[simp] theorem modCore_turn (s : State) (c : Nat) (f : CoreSt → CoreSt) : (s.modCore c f).turn = s.turn := rfl
@[simp] theorem modCore_rr (s : State) (c : Nat) (f : CoreSt → CoreSt) : (s.modCore c f).rr = s.rr := rfl
@[simp] theorem modCore_cur (s : State) (c : Nat) (f : CoreSt → CoreSt) : (s.modCore c f).cur = s.cur := rfl
@[simp] theorem modCore_free (s : State) (c : Nat) (f : CoreSt → CoreSt) : (s.modCore c f).free = s.free := rfl
@[simp] theorem modCore_upsets (s : State) (c : Nat) (f : CoreSt → CoreSt) : (s.modCore c f).upsets = s.upsets := rfl
@[simp] theorem modCore_corrected (s : State) (c : Nat) (f : CoreSt → CoreSt) : (s.modCore c f).corrected = s.corrected := rfl
@[simp] theorem modCore_counters (s : State) (c : Nat) (f : CoreSt → CoreSt) : (s.modCore c f).counters = s.counters := rfl
@[simp] theorem modCore_charged (s : State) (c : Nat) (f : CoreSt → CoreSt) : (s.modCore c f).charged = s.charged := rfl
@[simp] theorem modCore_casting (s : State) (c : Nat) (f : CoreSt → CoreSt) : (s.modCore c f).casting = s.casting := rfl
@[simp] theorem modCore_parks (s : State) (c : Nat) (f : CoreSt → CoreSt) : (s.modCore c f).parks = s.parks := rfl
@[simp] theorem modCore_nonce (s : State) (c : Nat) (f : CoreSt → CoreSt) : (s.modCore c f).nonce = s.nonce := rfl
@[simp] theorem modCore_msix (s : State) (c : Nat) (f : CoreSt → CoreSt) : (s.modCore c f).msix = s.msix := rfl
@[simp] theorem modCore_sensors (s : State) (c : Nat) (f : CoreSt → CoreSt) : (s.modCore c f).sensors = s.sensors := rfl

@[simp] theorem modDie_mem (s : State) (d : Nat) (f : Die → Die) : (s.modDie d f).mem = s.mem := rfl
@[simp] theorem modDie_tags (s : State) (d : Nat) (f : Die → Die) : (s.modDie d f).tags = s.tags := rfl
@[simp] theorem modDie_prv (s : State) (d : Nat) (f : Die → Die) : (s.modDie d f).prv = s.prv := rfl
@[simp] theorem modDie_poison (s : State) (d : Nat) (f : Die → Die) : (s.modDie d f).poison = s.poison := rfl
@[simp] theorem modDie_bad (s : State) (d : Nat) (f : Die → Die) : (s.modDie d f).bad = s.bad := rfl
@[simp] theorem modDie_clock (s : State) (d : Nat) (f : Die → Die) : (s.modDie d f).clock = s.clock := rfl
@[simp] theorem modDie_ctxs (s : State) (d : Nat) (f : Die → Die) : (s.modDie d f).ctxs = s.ctxs := rfl
@[simp] theorem modDie_cntthr (s : State) (d : Nat) (f : Die → Die) : (s.modDie d f).cntthr = s.cntthr := rfl
@[simp] theorem modDie_nqbase (s : State) (d : Nat) (f : Die → Die) : (s.modDie d f).nqbase = s.nqbase := rfl
@[simp] theorem modDie_fqbase (s : State) (d : Nat) (f : Die → Die) : (s.modDie d f).fqbase = s.fqbase := rfl
@[simp] theorem modDie_queues (s : State) (d : Nat) (f : Die → Die) : (s.modDie d f).queues = s.queues := rfl
@[simp] theorem modDie_launches (s : State) (d : Nat) (f : Die → Die) : (s.modDie d f).launches = s.launches := rfl
@[simp] theorem modDie_nextLaunch (s : State) (d : Nat) (f : Die → Die) : (s.modDie d f).nextLaunch = s.nextLaunch := rfl
@[simp] theorem modDie_blocks (s : State) (d : Nat) (f : Die → Die) : (s.modDie d f).blocks = s.blocks := rfl
@[simp] theorem modDie_nextBlock (s : State) (d : Nat) (f : Die → Die) : (s.modDie d f).nextBlock = s.nextBlock := rfl
@[simp] theorem modDie_cores (s : State) (d : Nat) (f : Die → Die) : (s.modDie d f).cores = s.cores := rfl
@[simp] theorem modDie_roots (s : State) (d : Nat) (f : Die → Die) : (s.modDie d f).roots = s.roots := rfl
@[simp] theorem modDie_faultWait (s : State) (d : Nat) (f : Die → Die) : (s.modDie d f).faultWait = s.faultWait := rfl
@[simp] theorem modDie_vectors (s : State) (d : Nat) (f : Die → Die) : (s.modDie d f).vectors = s.vectors := rfl
@[simp] theorem modDie_counts (s : State) (d : Nat) (f : Die → Die) : (s.modDie d f).counts = s.counts := rfl
@[simp] theorem modDie_notified (s : State) (d : Nat) (f : Die → Die) : (s.modDie d f).notified = s.notified := rfl
@[simp] theorem modDie_fabricNum (s : State) (d : Nat) (f : Die → Die) : (s.modDie d f).fabricNum = s.fabricNum := rfl
@[simp] theorem modDie_domain (s : State) (d : Nat) (f : Die → Die) : (s.modDie d f).domain = s.domain := rfl
@[simp] theorem modDie_expanders (s : State) (d : Nat) (f : Die → Die) : (s.modDie d f).expanders = s.expanders := rfl
@[simp] theorem modDie_ports (s : State) (d : Nat) (f : Die → Die) : (s.modDie d f).ports = s.ports := rfl
@[simp] theorem modDie_flitsOut (s : State) (d : Nat) (f : Die → Die) : (s.modDie d f).flitsOut = s.flitsOut := rfl
@[simp] theorem modDie_remotes (s : State) (d : Nat) (f : Die → Die) : (s.modDie d f).remotes = s.remotes := rfl
@[simp] theorem modDie_nextRemote (s : State) (d : Nat) (f : Die → Die) : (s.modDie d f).nextRemote = s.nextRemote := rfl
@[simp] theorem modDie_caps (s : State) (d : Nat) (f : Die → Die) : (s.modDie d f).caps = s.caps := rfl
@[simp] theorem modDie_mailbox (s : State) (d : Nat) (f : Die → Die) : (s.modDie d f).mailbox = s.mailbox := rfl
@[simp] theorem modDie_fuseSvn (s : State) (d : Nat) (f : Die → Die) : (s.modDie d f).fuseSvn = s.fuseSvn := rfl
@[simp] theorem modDie_bootPending (s : State) (d : Nat) (f : Die → Die) : (s.modDie d f).bootPending = s.bootPending := rfl
@[simp] theorem modDie_bootTries (s : State) (d : Nat) (f : Die → Die) : (s.modDie d f).bootTries = s.bootTries := rfl
@[simp] theorem modDie_image (s : State) (d : Nat) (f : Die → Die) : (s.modDie d f).image = s.image := rfl
@[simp] theorem modDie_report (s : State) (d : Nat) (f : Die → Die) : (s.modDie d f).report = s.report := rfl
@[simp] theorem modDie_throttled (s : State) (d : Nat) (f : Die → Die) : (s.modDie d f).throttled = s.throttled := rfl
@[simp] theorem modDie_off (s : State) (d : Nat) (f : Die → Die) : (s.modDie d f).off = s.off := rfl
@[simp] theorem modDie_hostData (s : State) (d : Nat) (f : Die → Die) : (s.modDie d f).hostData = s.hostData := rfl
@[simp] theorem modDie_agenda (s : State) (d : Nat) (f : Die → Die) : (s.modDie d f).agenda = s.agenda := rfl
@[simp] theorem modDie_turn (s : State) (d : Nat) (f : Die → Die) : (s.modDie d f).turn = s.turn := rfl
@[simp] theorem modDie_rr (s : State) (d : Nat) (f : Die → Die) : (s.modDie d f).rr = s.rr := rfl
@[simp] theorem modDie_cur (s : State) (d : Nat) (f : Die → Die) : (s.modDie d f).cur = s.cur := rfl
@[simp] theorem modDie_free (s : State) (d : Nat) (f : Die → Die) : (s.modDie d f).free = s.free := rfl
@[simp] theorem modDie_upsets (s : State) (d : Nat) (f : Die → Die) : (s.modDie d f).upsets = s.upsets := rfl
@[simp] theorem modDie_corrected (s : State) (d : Nat) (f : Die → Die) : (s.modDie d f).corrected = s.corrected := rfl
@[simp] theorem modDie_counters (s : State) (d : Nat) (f : Die → Die) : (s.modDie d f).counters = s.counters := rfl
@[simp] theorem modDie_charged (s : State) (d : Nat) (f : Die → Die) : (s.modDie d f).charged = s.charged := rfl
@[simp] theorem modDie_casting (s : State) (d : Nat) (f : Die → Die) : (s.modDie d f).casting = s.casting := rfl
@[simp] theorem modDie_parks (s : State) (d : Nat) (f : Die → Die) : (s.modDie d f).parks = s.parks := rfl
@[simp] theorem modDie_nonce (s : State) (d : Nat) (f : Die → Die) : (s.modDie d f).nonce = s.nonce := rfl
@[simp] theorem modDie_msix (s : State) (d : Nat) (f : Die → Die) : (s.modDie d f).msix = s.msix := rfl
@[simp] theorem modDie_sensors (s : State) (d : Nat) (f : Die → Die) : (s.modDie d f).sensors = s.sensors := rfl

@[simp] theorem modCtx_mem (s : State) (n : Nat) (f : Ctx → Ctx) : (s.modCtx n f).mem = s.mem := rfl
@[simp] theorem modCtx_tags (s : State) (n : Nat) (f : Ctx → Ctx) : (s.modCtx n f).tags = s.tags := rfl
@[simp] theorem modCtx_prv (s : State) (n : Nat) (f : Ctx → Ctx) : (s.modCtx n f).prv = s.prv := rfl
@[simp] theorem modCtx_poison (s : State) (n : Nat) (f : Ctx → Ctx) : (s.modCtx n f).poison = s.poison := rfl
@[simp] theorem modCtx_bad (s : State) (n : Nat) (f : Ctx → Ctx) : (s.modCtx n f).bad = s.bad := rfl
@[simp] theorem modCtx_clock (s : State) (n : Nat) (f : Ctx → Ctx) : (s.modCtx n f).clock = s.clock := rfl
@[simp] theorem modCtx_cntthr (s : State) (n : Nat) (f : Ctx → Ctx) : (s.modCtx n f).cntthr = s.cntthr := rfl
@[simp] theorem modCtx_nqbase (s : State) (n : Nat) (f : Ctx → Ctx) : (s.modCtx n f).nqbase = s.nqbase := rfl
@[simp] theorem modCtx_fqbase (s : State) (n : Nat) (f : Ctx → Ctx) : (s.modCtx n f).fqbase = s.fqbase := rfl
@[simp] theorem modCtx_queues (s : State) (n : Nat) (f : Ctx → Ctx) : (s.modCtx n f).queues = s.queues := rfl
@[simp] theorem modCtx_launches (s : State) (n : Nat) (f : Ctx → Ctx) : (s.modCtx n f).launches = s.launches := rfl
@[simp] theorem modCtx_nextLaunch (s : State) (n : Nat) (f : Ctx → Ctx) : (s.modCtx n f).nextLaunch = s.nextLaunch := rfl
@[simp] theorem modCtx_blocks (s : State) (n : Nat) (f : Ctx → Ctx) : (s.modCtx n f).blocks = s.blocks := rfl
@[simp] theorem modCtx_nextBlock (s : State) (n : Nat) (f : Ctx → Ctx) : (s.modCtx n f).nextBlock = s.nextBlock := rfl
@[simp] theorem modCtx_cores (s : State) (n : Nat) (f : Ctx → Ctx) : (s.modCtx n f).cores = s.cores := rfl
@[simp] theorem modCtx_dies (s : State) (n : Nat) (f : Ctx → Ctx) : (s.modCtx n f).dies = s.dies := rfl
@[simp] theorem modCtx_roots (s : State) (n : Nat) (f : Ctx → Ctx) : (s.modCtx n f).roots = s.roots := rfl
@[simp] theorem modCtx_faultWait (s : State) (n : Nat) (f : Ctx → Ctx) : (s.modCtx n f).faultWait = s.faultWait := rfl
@[simp] theorem modCtx_vectors (s : State) (n : Nat) (f : Ctx → Ctx) : (s.modCtx n f).vectors = s.vectors := rfl
@[simp] theorem modCtx_counts (s : State) (n : Nat) (f : Ctx → Ctx) : (s.modCtx n f).counts = s.counts := rfl
@[simp] theorem modCtx_notified (s : State) (n : Nat) (f : Ctx → Ctx) : (s.modCtx n f).notified = s.notified := rfl
@[simp] theorem modCtx_fabricNum (s : State) (n : Nat) (f : Ctx → Ctx) : (s.modCtx n f).fabricNum = s.fabricNum := rfl
@[simp] theorem modCtx_domain (s : State) (n : Nat) (f : Ctx → Ctx) : (s.modCtx n f).domain = s.domain := rfl
@[simp] theorem modCtx_expanders (s : State) (n : Nat) (f : Ctx → Ctx) : (s.modCtx n f).expanders = s.expanders := rfl
@[simp] theorem modCtx_ports (s : State) (n : Nat) (f : Ctx → Ctx) : (s.modCtx n f).ports = s.ports := rfl
@[simp] theorem modCtx_flitsOut (s : State) (n : Nat) (f : Ctx → Ctx) : (s.modCtx n f).flitsOut = s.flitsOut := rfl
@[simp] theorem modCtx_remotes (s : State) (n : Nat) (f : Ctx → Ctx) : (s.modCtx n f).remotes = s.remotes := rfl
@[simp] theorem modCtx_nextRemote (s : State) (n : Nat) (f : Ctx → Ctx) : (s.modCtx n f).nextRemote = s.nextRemote := rfl
@[simp] theorem modCtx_caps (s : State) (n : Nat) (f : Ctx → Ctx) : (s.modCtx n f).caps = s.caps := rfl
@[simp] theorem modCtx_mailbox (s : State) (n : Nat) (f : Ctx → Ctx) : (s.modCtx n f).mailbox = s.mailbox := rfl
@[simp] theorem modCtx_fuseSvn (s : State) (n : Nat) (f : Ctx → Ctx) : (s.modCtx n f).fuseSvn = s.fuseSvn := rfl
@[simp] theorem modCtx_bootPending (s : State) (n : Nat) (f : Ctx → Ctx) : (s.modCtx n f).bootPending = s.bootPending := rfl
@[simp] theorem modCtx_bootTries (s : State) (n : Nat) (f : Ctx → Ctx) : (s.modCtx n f).bootTries = s.bootTries := rfl
@[simp] theorem modCtx_image (s : State) (n : Nat) (f : Ctx → Ctx) : (s.modCtx n f).image = s.image := rfl
@[simp] theorem modCtx_report (s : State) (n : Nat) (f : Ctx → Ctx) : (s.modCtx n f).report = s.report := rfl
@[simp] theorem modCtx_throttled (s : State) (n : Nat) (f : Ctx → Ctx) : (s.modCtx n f).throttled = s.throttled := rfl
@[simp] theorem modCtx_off (s : State) (n : Nat) (f : Ctx → Ctx) : (s.modCtx n f).off = s.off := rfl
@[simp] theorem modCtx_hostData (s : State) (n : Nat) (f : Ctx → Ctx) : (s.modCtx n f).hostData = s.hostData := rfl
@[simp] theorem modCtx_agenda (s : State) (n : Nat) (f : Ctx → Ctx) : (s.modCtx n f).agenda = s.agenda := rfl
@[simp] theorem modCtx_turn (s : State) (n : Nat) (f : Ctx → Ctx) : (s.modCtx n f).turn = s.turn := rfl
@[simp] theorem modCtx_rr (s : State) (n : Nat) (f : Ctx → Ctx) : (s.modCtx n f).rr = s.rr := rfl
@[simp] theorem modCtx_cur (s : State) (n : Nat) (f : Ctx → Ctx) : (s.modCtx n f).cur = s.cur := rfl
@[simp] theorem modCtx_free (s : State) (n : Nat) (f : Ctx → Ctx) : (s.modCtx n f).free = s.free := rfl
@[simp] theorem modCtx_upsets (s : State) (n : Nat) (f : Ctx → Ctx) : (s.modCtx n f).upsets = s.upsets := rfl
@[simp] theorem modCtx_corrected (s : State) (n : Nat) (f : Ctx → Ctx) : (s.modCtx n f).corrected = s.corrected := rfl
@[simp] theorem modCtx_counters (s : State) (n : Nat) (f : Ctx → Ctx) : (s.modCtx n f).counters = s.counters := rfl
@[simp] theorem modCtx_charged (s : State) (n : Nat) (f : Ctx → Ctx) : (s.modCtx n f).charged = s.charged := rfl
@[simp] theorem modCtx_casting (s : State) (n : Nat) (f : Ctx → Ctx) : (s.modCtx n f).casting = s.casting := rfl
@[simp] theorem modCtx_parks (s : State) (n : Nat) (f : Ctx → Ctx) : (s.modCtx n f).parks = s.parks := rfl
@[simp] theorem modCtx_nonce (s : State) (n : Nat) (f : Ctx → Ctx) : (s.modCtx n f).nonce = s.nonce := rfl
@[simp] theorem modCtx_msix (s : State) (n : Nat) (f : Ctx → Ctx) : (s.modCtx n f).msix = s.msix := rfl
@[simp] theorem modCtx_sensors (s : State) (n : Nat) (f : Ctx → Ctx) : (s.modCtx n f).sensors = s.sensors := rfl

@[simp] theorem setTag_mem (s : State) (a : Nat) (v : Bool) : (s.setTag a v).mem = s.mem := rfl
@[simp] theorem setTag_prv (s : State) (a : Nat) (v : Bool) : (s.setTag a v).prv = s.prv := rfl
@[simp] theorem setTag_poison (s : State) (a : Nat) (v : Bool) : (s.setTag a v).poison = s.poison := rfl
@[simp] theorem setTag_bad (s : State) (a : Nat) (v : Bool) : (s.setTag a v).bad = s.bad := rfl
@[simp] theorem setTag_clock (s : State) (a : Nat) (v : Bool) : (s.setTag a v).clock = s.clock := rfl
@[simp] theorem setTag_ctxs (s : State) (a : Nat) (v : Bool) : (s.setTag a v).ctxs = s.ctxs := rfl
@[simp] theorem setTag_cntthr (s : State) (a : Nat) (v : Bool) : (s.setTag a v).cntthr = s.cntthr := rfl
@[simp] theorem setTag_nqbase (s : State) (a : Nat) (v : Bool) : (s.setTag a v).nqbase = s.nqbase := rfl
@[simp] theorem setTag_fqbase (s : State) (a : Nat) (v : Bool) : (s.setTag a v).fqbase = s.fqbase := rfl
@[simp] theorem setTag_queues (s : State) (a : Nat) (v : Bool) : (s.setTag a v).queues = s.queues := rfl
@[simp] theorem setTag_launches (s : State) (a : Nat) (v : Bool) : (s.setTag a v).launches = s.launches := rfl
@[simp] theorem setTag_nextLaunch (s : State) (a : Nat) (v : Bool) : (s.setTag a v).nextLaunch = s.nextLaunch := rfl
@[simp] theorem setTag_blocks (s : State) (a : Nat) (v : Bool) : (s.setTag a v).blocks = s.blocks := rfl
@[simp] theorem setTag_nextBlock (s : State) (a : Nat) (v : Bool) : (s.setTag a v).nextBlock = s.nextBlock := rfl
@[simp] theorem setTag_cores (s : State) (a : Nat) (v : Bool) : (s.setTag a v).cores = s.cores := rfl
@[simp] theorem setTag_dies (s : State) (a : Nat) (v : Bool) : (s.setTag a v).dies = s.dies := rfl
@[simp] theorem setTag_roots (s : State) (a : Nat) (v : Bool) : (s.setTag a v).roots = s.roots := rfl
@[simp] theorem setTag_faultWait (s : State) (a : Nat) (v : Bool) : (s.setTag a v).faultWait = s.faultWait := rfl
@[simp] theorem setTag_vectors (s : State) (a : Nat) (v : Bool) : (s.setTag a v).vectors = s.vectors := rfl
@[simp] theorem setTag_counts (s : State) (a : Nat) (v : Bool) : (s.setTag a v).counts = s.counts := rfl
@[simp] theorem setTag_notified (s : State) (a : Nat) (v : Bool) : (s.setTag a v).notified = s.notified := rfl
@[simp] theorem setTag_fabricNum (s : State) (a : Nat) (v : Bool) : (s.setTag a v).fabricNum = s.fabricNum := rfl
@[simp] theorem setTag_domain (s : State) (a : Nat) (v : Bool) : (s.setTag a v).domain = s.domain := rfl
@[simp] theorem setTag_expanders (s : State) (a : Nat) (v : Bool) : (s.setTag a v).expanders = s.expanders := rfl
@[simp] theorem setTag_ports (s : State) (a : Nat) (v : Bool) : (s.setTag a v).ports = s.ports := rfl
@[simp] theorem setTag_flitsOut (s : State) (a : Nat) (v : Bool) : (s.setTag a v).flitsOut = s.flitsOut := rfl
@[simp] theorem setTag_remotes (s : State) (a : Nat) (v : Bool) : (s.setTag a v).remotes = s.remotes := rfl
@[simp] theorem setTag_nextRemote (s : State) (a : Nat) (v : Bool) : (s.setTag a v).nextRemote = s.nextRemote := rfl
@[simp] theorem setTag_caps (s : State) (a : Nat) (v : Bool) : (s.setTag a v).caps = s.caps := rfl
@[simp] theorem setTag_mailbox (s : State) (a : Nat) (v : Bool) : (s.setTag a v).mailbox = s.mailbox := rfl
@[simp] theorem setTag_fuseSvn (s : State) (a : Nat) (v : Bool) : (s.setTag a v).fuseSvn = s.fuseSvn := rfl
@[simp] theorem setTag_bootPending (s : State) (a : Nat) (v : Bool) : (s.setTag a v).bootPending = s.bootPending := rfl
@[simp] theorem setTag_bootTries (s : State) (a : Nat) (v : Bool) : (s.setTag a v).bootTries = s.bootTries := rfl
@[simp] theorem setTag_image (s : State) (a : Nat) (v : Bool) : (s.setTag a v).image = s.image := rfl
@[simp] theorem setTag_report (s : State) (a : Nat) (v : Bool) : (s.setTag a v).report = s.report := rfl
@[simp] theorem setTag_throttled (s : State) (a : Nat) (v : Bool) : (s.setTag a v).throttled = s.throttled := rfl
@[simp] theorem setTag_off (s : State) (a : Nat) (v : Bool) : (s.setTag a v).off = s.off := rfl
@[simp] theorem setTag_hostData (s : State) (a : Nat) (v : Bool) : (s.setTag a v).hostData = s.hostData := rfl
@[simp] theorem setTag_agenda (s : State) (a : Nat) (v : Bool) : (s.setTag a v).agenda = s.agenda := rfl
@[simp] theorem setTag_turn (s : State) (a : Nat) (v : Bool) : (s.setTag a v).turn = s.turn := rfl
@[simp] theorem setTag_rr (s : State) (a : Nat) (v : Bool) : (s.setTag a v).rr = s.rr := rfl
@[simp] theorem setTag_cur (s : State) (a : Nat) (v : Bool) : (s.setTag a v).cur = s.cur := rfl
@[simp] theorem setTag_free (s : State) (a : Nat) (v : Bool) : (s.setTag a v).free = s.free := rfl
@[simp] theorem setTag_upsets (s : State) (a : Nat) (v : Bool) : (s.setTag a v).upsets = s.upsets := rfl
@[simp] theorem setTag_corrected (s : State) (a : Nat) (v : Bool) : (s.setTag a v).corrected = s.corrected := rfl
@[simp] theorem setTag_counters (s : State) (a : Nat) (v : Bool) : (s.setTag a v).counters = s.counters := rfl
@[simp] theorem setTag_charged (s : State) (a : Nat) (v : Bool) : (s.setTag a v).charged = s.charged := rfl
@[simp] theorem setTag_casting (s : State) (a : Nat) (v : Bool) : (s.setTag a v).casting = s.casting := rfl
@[simp] theorem setTag_parks (s : State) (a : Nat) (v : Bool) : (s.setTag a v).parks = s.parks := rfl
@[simp] theorem setTag_nonce (s : State) (a : Nat) (v : Bool) : (s.setTag a v).nonce = s.nonce := rfl
@[simp] theorem setTag_msix (s : State) (a : Nat) (v : Bool) : (s.setTag a v).msix = s.msix := rfl
@[simp] theorem setTag_sensors (s : State) (a : Nat) (v : Bool) : (s.setTag a v).sensors = s.sensors := rfl

@[simp] theorem post_mem (s : State) (r : BitVec 512) : (s.post r).mem = s.mem := rfl
@[simp] theorem post_tags (s : State) (r : BitVec 512) : (s.post r).tags = s.tags := rfl
@[simp] theorem post_prv (s : State) (r : BitVec 512) : (s.post r).prv = s.prv := rfl
@[simp] theorem post_poison (s : State) (r : BitVec 512) : (s.post r).poison = s.poison := rfl
@[simp] theorem post_bad (s : State) (r : BitVec 512) : (s.post r).bad = s.bad := rfl
@[simp] theorem post_clock (s : State) (r : BitVec 512) : (s.post r).clock = s.clock := rfl
@[simp] theorem post_ctxs (s : State) (r : BitVec 512) : (s.post r).ctxs = s.ctxs := rfl
@[simp] theorem post_cntthr (s : State) (r : BitVec 512) : (s.post r).cntthr = s.cntthr := rfl
@[simp] theorem post_nqbase (s : State) (r : BitVec 512) : (s.post r).nqbase = s.nqbase := rfl
@[simp] theorem post_fqbase (s : State) (r : BitVec 512) : (s.post r).fqbase = s.fqbase := rfl
@[simp] theorem post_queues (s : State) (r : BitVec 512) : (s.post r).queues = s.queues := rfl
@[simp] theorem post_launches (s : State) (r : BitVec 512) : (s.post r).launches = s.launches := rfl
@[simp] theorem post_nextLaunch (s : State) (r : BitVec 512) : (s.post r).nextLaunch = s.nextLaunch := rfl
@[simp] theorem post_blocks (s : State) (r : BitVec 512) : (s.post r).blocks = s.blocks := rfl
@[simp] theorem post_nextBlock (s : State) (r : BitVec 512) : (s.post r).nextBlock = s.nextBlock := rfl
@[simp] theorem post_cores (s : State) (r : BitVec 512) : (s.post r).cores = s.cores := rfl
@[simp] theorem post_dies (s : State) (r : BitVec 512) : (s.post r).dies = s.dies := rfl
@[simp] theorem post_roots (s : State) (r : BitVec 512) : (s.post r).roots = s.roots := rfl
@[simp] theorem post_vectors (s : State) (r : BitVec 512) : (s.post r).vectors = s.vectors := rfl
@[simp] theorem post_counts (s : State) (r : BitVec 512) : (s.post r).counts = s.counts := rfl
@[simp] theorem post_notified (s : State) (r : BitVec 512) : (s.post r).notified = s.notified := rfl
@[simp] theorem post_fabricNum (s : State) (r : BitVec 512) : (s.post r).fabricNum = s.fabricNum := rfl
@[simp] theorem post_domain (s : State) (r : BitVec 512) : (s.post r).domain = s.domain := rfl
@[simp] theorem post_expanders (s : State) (r : BitVec 512) : (s.post r).expanders = s.expanders := rfl
@[simp] theorem post_ports (s : State) (r : BitVec 512) : (s.post r).ports = s.ports := rfl
@[simp] theorem post_flitsOut (s : State) (r : BitVec 512) : (s.post r).flitsOut = s.flitsOut := rfl
@[simp] theorem post_remotes (s : State) (r : BitVec 512) : (s.post r).remotes = s.remotes := rfl
@[simp] theorem post_nextRemote (s : State) (r : BitVec 512) : (s.post r).nextRemote = s.nextRemote := rfl
@[simp] theorem post_caps (s : State) (r : BitVec 512) : (s.post r).caps = s.caps := rfl
@[simp] theorem post_mailbox (s : State) (r : BitVec 512) : (s.post r).mailbox = s.mailbox := rfl
@[simp] theorem post_fuseSvn (s : State) (r : BitVec 512) : (s.post r).fuseSvn = s.fuseSvn := rfl
@[simp] theorem post_bootPending (s : State) (r : BitVec 512) : (s.post r).bootPending = s.bootPending := rfl
@[simp] theorem post_bootTries (s : State) (r : BitVec 512) : (s.post r).bootTries = s.bootTries := rfl
@[simp] theorem post_image (s : State) (r : BitVec 512) : (s.post r).image = s.image := rfl
@[simp] theorem post_report (s : State) (r : BitVec 512) : (s.post r).report = s.report := rfl
@[simp] theorem post_throttled (s : State) (r : BitVec 512) : (s.post r).throttled = s.throttled := rfl
@[simp] theorem post_off (s : State) (r : BitVec 512) : (s.post r).off = s.off := rfl
@[simp] theorem post_hostData (s : State) (r : BitVec 512) : (s.post r).hostData = s.hostData := rfl
@[simp] theorem post_agenda (s : State) (r : BitVec 512) : (s.post r).agenda = s.agenda := rfl
@[simp] theorem post_turn (s : State) (r : BitVec 512) : (s.post r).turn = s.turn := rfl
@[simp] theorem post_rr (s : State) (r : BitVec 512) : (s.post r).rr = s.rr := rfl
@[simp] theorem post_cur (s : State) (r : BitVec 512) : (s.post r).cur = s.cur := rfl
@[simp] theorem post_free (s : State) (r : BitVec 512) : (s.post r).free = s.free := rfl
@[simp] theorem post_upsets (s : State) (r : BitVec 512) : (s.post r).upsets = s.upsets := rfl
@[simp] theorem post_corrected (s : State) (r : BitVec 512) : (s.post r).corrected = s.corrected := rfl
@[simp] theorem post_counters (s : State) (r : BitVec 512) : (s.post r).counters = s.counters := rfl
@[simp] theorem post_charged (s : State) (r : BitVec 512) : (s.post r).charged = s.charged := rfl
@[simp] theorem post_casting (s : State) (r : BitVec 512) : (s.post r).casting = s.casting := rfl
@[simp] theorem post_parks (s : State) (r : BitVec 512) : (s.post r).parks = s.parks := rfl
@[simp] theorem post_nonce (s : State) (r : BitVec 512) : (s.post r).nonce = s.nonce := rfl
@[simp] theorem post_msix (s : State) (r : BitVec 512) : (s.post r).msix = s.msix := rfl
@[simp] theorem post_sensors (s : State) (r : BitVec 512) : (s.post r).sensors = s.sensors := rfl

@[simp] theorem putBlock_mem (s : State) (n : Nat) (b : Option Block) : (s.putBlock n b).mem = s.mem := rfl
@[simp] theorem putBlock_tags (s : State) (n : Nat) (b : Option Block) : (s.putBlock n b).tags = s.tags := rfl
@[simp] theorem putBlock_prv (s : State) (n : Nat) (b : Option Block) : (s.putBlock n b).prv = s.prv := rfl
@[simp] theorem putBlock_poison (s : State) (n : Nat) (b : Option Block) : (s.putBlock n b).poison = s.poison := rfl
@[simp] theorem putBlock_bad (s : State) (n : Nat) (b : Option Block) : (s.putBlock n b).bad = s.bad := rfl
@[simp] theorem putBlock_clock (s : State) (n : Nat) (b : Option Block) : (s.putBlock n b).clock = s.clock := rfl
@[simp] theorem putBlock_ctxs (s : State) (n : Nat) (b : Option Block) : (s.putBlock n b).ctxs = s.ctxs := rfl
@[simp] theorem putBlock_cntthr (s : State) (n : Nat) (b : Option Block) : (s.putBlock n b).cntthr = s.cntthr := rfl
@[simp] theorem putBlock_nqbase (s : State) (n : Nat) (b : Option Block) : (s.putBlock n b).nqbase = s.nqbase := rfl
@[simp] theorem putBlock_fqbase (s : State) (n : Nat) (b : Option Block) : (s.putBlock n b).fqbase = s.fqbase := rfl
@[simp] theorem putBlock_queues (s : State) (n : Nat) (b : Option Block) : (s.putBlock n b).queues = s.queues := rfl
@[simp] theorem putBlock_launches (s : State) (n : Nat) (b : Option Block) : (s.putBlock n b).launches = s.launches := rfl
@[simp] theorem putBlock_nextLaunch (s : State) (n : Nat) (b : Option Block) : (s.putBlock n b).nextLaunch = s.nextLaunch := rfl
@[simp] theorem putBlock_nextBlock (s : State) (n : Nat) (b : Option Block) : (s.putBlock n b).nextBlock = s.nextBlock := rfl
@[simp] theorem putBlock_cores (s : State) (n : Nat) (b : Option Block) : (s.putBlock n b).cores = s.cores := rfl
@[simp] theorem putBlock_dies (s : State) (n : Nat) (b : Option Block) : (s.putBlock n b).dies = s.dies := rfl
@[simp] theorem putBlock_roots (s : State) (n : Nat) (b : Option Block) : (s.putBlock n b).roots = s.roots := rfl
@[simp] theorem putBlock_faultWait (s : State) (n : Nat) (b : Option Block) : (s.putBlock n b).faultWait = s.faultWait := rfl
@[simp] theorem putBlock_vectors (s : State) (n : Nat) (b : Option Block) : (s.putBlock n b).vectors = s.vectors := rfl
@[simp] theorem putBlock_counts (s : State) (n : Nat) (b : Option Block) : (s.putBlock n b).counts = s.counts := rfl
@[simp] theorem putBlock_notified (s : State) (n : Nat) (b : Option Block) : (s.putBlock n b).notified = s.notified := rfl
@[simp] theorem putBlock_fabricNum (s : State) (n : Nat) (b : Option Block) : (s.putBlock n b).fabricNum = s.fabricNum := rfl
@[simp] theorem putBlock_domain (s : State) (n : Nat) (b : Option Block) : (s.putBlock n b).domain = s.domain := rfl
@[simp] theorem putBlock_expanders (s : State) (n : Nat) (b : Option Block) : (s.putBlock n b).expanders = s.expanders := rfl
@[simp] theorem putBlock_ports (s : State) (n : Nat) (b : Option Block) : (s.putBlock n b).ports = s.ports := rfl
@[simp] theorem putBlock_flitsOut (s : State) (n : Nat) (b : Option Block) : (s.putBlock n b).flitsOut = s.flitsOut := rfl
@[simp] theorem putBlock_remotes (s : State) (n : Nat) (b : Option Block) : (s.putBlock n b).remotes = s.remotes := rfl
@[simp] theorem putBlock_nextRemote (s : State) (n : Nat) (b : Option Block) : (s.putBlock n b).nextRemote = s.nextRemote := rfl
@[simp] theorem putBlock_caps (s : State) (n : Nat) (b : Option Block) : (s.putBlock n b).caps = s.caps := rfl
@[simp] theorem putBlock_mailbox (s : State) (n : Nat) (b : Option Block) : (s.putBlock n b).mailbox = s.mailbox := rfl
@[simp] theorem putBlock_fuseSvn (s : State) (n : Nat) (b : Option Block) : (s.putBlock n b).fuseSvn = s.fuseSvn := rfl
@[simp] theorem putBlock_bootPending (s : State) (n : Nat) (b : Option Block) : (s.putBlock n b).bootPending = s.bootPending := rfl
@[simp] theorem putBlock_bootTries (s : State) (n : Nat) (b : Option Block) : (s.putBlock n b).bootTries = s.bootTries := rfl
@[simp] theorem putBlock_image (s : State) (n : Nat) (b : Option Block) : (s.putBlock n b).image = s.image := rfl
@[simp] theorem putBlock_report (s : State) (n : Nat) (b : Option Block) : (s.putBlock n b).report = s.report := rfl
@[simp] theorem putBlock_throttled (s : State) (n : Nat) (b : Option Block) : (s.putBlock n b).throttled = s.throttled := rfl
@[simp] theorem putBlock_off (s : State) (n : Nat) (b : Option Block) : (s.putBlock n b).off = s.off := rfl
@[simp] theorem putBlock_hostData (s : State) (n : Nat) (b : Option Block) : (s.putBlock n b).hostData = s.hostData := rfl
@[simp] theorem putBlock_agenda (s : State) (n : Nat) (b : Option Block) : (s.putBlock n b).agenda = s.agenda := rfl
@[simp] theorem putBlock_turn (s : State) (n : Nat) (b : Option Block) : (s.putBlock n b).turn = s.turn := rfl
@[simp] theorem putBlock_rr (s : State) (n : Nat) (b : Option Block) : (s.putBlock n b).rr = s.rr := rfl
@[simp] theorem putBlock_cur (s : State) (n : Nat) (b : Option Block) : (s.putBlock n b).cur = s.cur := rfl
@[simp] theorem putBlock_free (s : State) (n : Nat) (b : Option Block) : (s.putBlock n b).free = s.free := rfl
@[simp] theorem putBlock_upsets (s : State) (n : Nat) (b : Option Block) : (s.putBlock n b).upsets = s.upsets := rfl
@[simp] theorem putBlock_corrected (s : State) (n : Nat) (b : Option Block) : (s.putBlock n b).corrected = s.corrected := rfl
@[simp] theorem putBlock_counters (s : State) (n : Nat) (b : Option Block) : (s.putBlock n b).counters = s.counters := rfl
@[simp] theorem putBlock_charged (s : State) (n : Nat) (b : Option Block) : (s.putBlock n b).charged = s.charged := rfl
@[simp] theorem putBlock_casting (s : State) (n : Nat) (b : Option Block) : (s.putBlock n b).casting = s.casting := rfl
@[simp] theorem putBlock_parks (s : State) (n : Nat) (b : Option Block) : (s.putBlock n b).parks = s.parks := rfl
@[simp] theorem putBlock_nonce (s : State) (n : Nat) (b : Option Block) : (s.putBlock n b).nonce = s.nonce := rfl
@[simp] theorem putBlock_msix (s : State) (n : Nat) (b : Option Block) : (s.putBlock n b).msix = s.msix := rfl
@[simp] theorem putBlock_sensors (s : State) (n : Nat) (b : Option Block) : (s.putBlock n b).sensors = s.sensors := rfl

/-! ### A block -/

@[simp] theorem modBlock_mem (s : State) (n : Nat) (f : Block → Block) : (s.modBlock n f).mem = s.mem := by
  unfold State.modBlock; split <;> rfl
@[simp] theorem modBlock_tags (s : State) (n : Nat) (f : Block → Block) : (s.modBlock n f).tags = s.tags := by
  unfold State.modBlock; split <;> rfl
@[simp] theorem modBlock_prv (s : State) (n : Nat) (f : Block → Block) : (s.modBlock n f).prv = s.prv := by
  unfold State.modBlock; split <;> rfl
@[simp] theorem modBlock_poison (s : State) (n : Nat) (f : Block → Block) : (s.modBlock n f).poison = s.poison := by
  unfold State.modBlock; split <;> rfl
@[simp] theorem modBlock_bad (s : State) (n : Nat) (f : Block → Block) : (s.modBlock n f).bad = s.bad := by
  unfold State.modBlock; split <;> rfl
@[simp] theorem modBlock_clock (s : State) (n : Nat) (f : Block → Block) : (s.modBlock n f).clock = s.clock := by
  unfold State.modBlock; split <;> rfl
@[simp] theorem modBlock_ctxs (s : State) (n : Nat) (f : Block → Block) : (s.modBlock n f).ctxs = s.ctxs := by
  unfold State.modBlock; split <;> rfl
@[simp] theorem modBlock_cntthr (s : State) (n : Nat) (f : Block → Block) : (s.modBlock n f).cntthr = s.cntthr := by
  unfold State.modBlock; split <;> rfl
@[simp] theorem modBlock_nqbase (s : State) (n : Nat) (f : Block → Block) : (s.modBlock n f).nqbase = s.nqbase := by
  unfold State.modBlock; split <;> rfl
@[simp] theorem modBlock_fqbase (s : State) (n : Nat) (f : Block → Block) : (s.modBlock n f).fqbase = s.fqbase := by
  unfold State.modBlock; split <;> rfl
@[simp] theorem modBlock_queues (s : State) (n : Nat) (f : Block → Block) : (s.modBlock n f).queues = s.queues := by
  unfold State.modBlock; split <;> rfl
@[simp] theorem modBlock_launches (s : State) (n : Nat) (f : Block → Block) : (s.modBlock n f).launches = s.launches := by
  unfold State.modBlock; split <;> rfl
@[simp] theorem modBlock_nextLaunch (s : State) (n : Nat) (f : Block → Block) : (s.modBlock n f).nextLaunch = s.nextLaunch := by
  unfold State.modBlock; split <;> rfl
@[simp] theorem modBlock_nextBlock (s : State) (n : Nat) (f : Block → Block) : (s.modBlock n f).nextBlock = s.nextBlock := by
  unfold State.modBlock; split <;> rfl
@[simp] theorem modBlock_cores (s : State) (n : Nat) (f : Block → Block) : (s.modBlock n f).cores = s.cores := by
  unfold State.modBlock; split <;> rfl
@[simp] theorem modBlock_dies (s : State) (n : Nat) (f : Block → Block) : (s.modBlock n f).dies = s.dies := by
  unfold State.modBlock; split <;> rfl
@[simp] theorem modBlock_roots (s : State) (n : Nat) (f : Block → Block) : (s.modBlock n f).roots = s.roots := by
  unfold State.modBlock; split <;> rfl
@[simp] theorem modBlock_faultWait (s : State) (n : Nat) (f : Block → Block) : (s.modBlock n f).faultWait = s.faultWait := by
  unfold State.modBlock; split <;> rfl
@[simp] theorem modBlock_vectors (s : State) (n : Nat) (f : Block → Block) : (s.modBlock n f).vectors = s.vectors := by
  unfold State.modBlock; split <;> rfl
@[simp] theorem modBlock_counts (s : State) (n : Nat) (f : Block → Block) : (s.modBlock n f).counts = s.counts := by
  unfold State.modBlock; split <;> rfl
@[simp] theorem modBlock_notified (s : State) (n : Nat) (f : Block → Block) : (s.modBlock n f).notified = s.notified := by
  unfold State.modBlock; split <;> rfl
@[simp] theorem modBlock_fabricNum (s : State) (n : Nat) (f : Block → Block) : (s.modBlock n f).fabricNum = s.fabricNum := by
  unfold State.modBlock; split <;> rfl
@[simp] theorem modBlock_domain (s : State) (n : Nat) (f : Block → Block) : (s.modBlock n f).domain = s.domain := by
  unfold State.modBlock; split <;> rfl
@[simp] theorem modBlock_expanders (s : State) (n : Nat) (f : Block → Block) : (s.modBlock n f).expanders = s.expanders := by
  unfold State.modBlock; split <;> rfl
@[simp] theorem modBlock_ports (s : State) (n : Nat) (f : Block → Block) : (s.modBlock n f).ports = s.ports := by
  unfold State.modBlock; split <;> rfl
@[simp] theorem modBlock_flitsOut (s : State) (n : Nat) (f : Block → Block) : (s.modBlock n f).flitsOut = s.flitsOut := by
  unfold State.modBlock; split <;> rfl
@[simp] theorem modBlock_remotes (s : State) (n : Nat) (f : Block → Block) : (s.modBlock n f).remotes = s.remotes := by
  unfold State.modBlock; split <;> rfl
@[simp] theorem modBlock_nextRemote (s : State) (n : Nat) (f : Block → Block) : (s.modBlock n f).nextRemote = s.nextRemote := by
  unfold State.modBlock; split <;> rfl
@[simp] theorem modBlock_caps (s : State) (n : Nat) (f : Block → Block) : (s.modBlock n f).caps = s.caps := by
  unfold State.modBlock; split <;> rfl
@[simp] theorem modBlock_mailbox (s : State) (n : Nat) (f : Block → Block) : (s.modBlock n f).mailbox = s.mailbox := by
  unfold State.modBlock; split <;> rfl
@[simp] theorem modBlock_fuseSvn (s : State) (n : Nat) (f : Block → Block) : (s.modBlock n f).fuseSvn = s.fuseSvn := by
  unfold State.modBlock; split <;> rfl
@[simp] theorem modBlock_bootPending (s : State) (n : Nat) (f : Block → Block) : (s.modBlock n f).bootPending = s.bootPending := by
  unfold State.modBlock; split <;> rfl
@[simp] theorem modBlock_bootTries (s : State) (n : Nat) (f : Block → Block) : (s.modBlock n f).bootTries = s.bootTries := by
  unfold State.modBlock; split <;> rfl
@[simp] theorem modBlock_image (s : State) (n : Nat) (f : Block → Block) : (s.modBlock n f).image = s.image := by
  unfold State.modBlock; split <;> rfl
@[simp] theorem modBlock_report (s : State) (n : Nat) (f : Block → Block) : (s.modBlock n f).report = s.report := by
  unfold State.modBlock; split <;> rfl
@[simp] theorem modBlock_throttled (s : State) (n : Nat) (f : Block → Block) : (s.modBlock n f).throttled = s.throttled := by
  unfold State.modBlock; split <;> rfl
@[simp] theorem modBlock_off (s : State) (n : Nat) (f : Block → Block) : (s.modBlock n f).off = s.off := by
  unfold State.modBlock; split <;> rfl
@[simp] theorem modBlock_hostData (s : State) (n : Nat) (f : Block → Block) : (s.modBlock n f).hostData = s.hostData := by
  unfold State.modBlock; split <;> rfl
@[simp] theorem modBlock_agenda (s : State) (n : Nat) (f : Block → Block) : (s.modBlock n f).agenda = s.agenda := by
  unfold State.modBlock; split <;> rfl
@[simp] theorem modBlock_turn (s : State) (n : Nat) (f : Block → Block) : (s.modBlock n f).turn = s.turn := by
  unfold State.modBlock; split <;> rfl
@[simp] theorem modBlock_rr (s : State) (n : Nat) (f : Block → Block) : (s.modBlock n f).rr = s.rr := by
  unfold State.modBlock; split <;> rfl
@[simp] theorem modBlock_cur (s : State) (n : Nat) (f : Block → Block) : (s.modBlock n f).cur = s.cur := by
  unfold State.modBlock; split <;> rfl
@[simp] theorem modBlock_free (s : State) (n : Nat) (f : Block → Block) : (s.modBlock n f).free = s.free := by
  unfold State.modBlock; split <;> rfl
@[simp] theorem modBlock_upsets (s : State) (n : Nat) (f : Block → Block) : (s.modBlock n f).upsets = s.upsets := by
  unfold State.modBlock; split <;> rfl
@[simp] theorem modBlock_corrected (s : State) (n : Nat) (f : Block → Block) : (s.modBlock n f).corrected = s.corrected := by
  unfold State.modBlock; split <;> rfl
@[simp] theorem modBlock_counters (s : State) (n : Nat) (f : Block → Block) : (s.modBlock n f).counters = s.counters := by
  unfold State.modBlock; split <;> rfl
@[simp] theorem modBlock_charged (s : State) (n : Nat) (f : Block → Block) : (s.modBlock n f).charged = s.charged := by
  unfold State.modBlock; split <;> rfl
@[simp] theorem modBlock_casting (s : State) (n : Nat) (f : Block → Block) : (s.modBlock n f).casting = s.casting := by
  unfold State.modBlock; split <;> rfl
@[simp] theorem modBlock_parks (s : State) (n : Nat) (f : Block → Block) : (s.modBlock n f).parks = s.parks := by
  unfold State.modBlock; split <;> rfl
@[simp] theorem modBlock_nonce (s : State) (n : Nat) (f : Block → Block) : (s.modBlock n f).nonce = s.nonce := by
  unfold State.modBlock; split <;> rfl
@[simp] theorem modBlock_msix (s : State) (n : Nat) (f : Block → Block) : (s.modBlock n f).msix = s.msix := by
  unfold State.modBlock; split <;> rfl
@[simp] theorem modBlock_sensors (s : State) (n : Nat) (f : Block → Block) : (s.modBlock n f).sensors = s.sensors := by
  unfold State.modBlock; split <;> rfl

/-! ### A thread -/

@[simp] theorem set_preds (t : Thread) (r : Nat) (v : W32) : (t.set r v).preds = t.preds := rfl
@[simp] theorem set_pc (t : Thread) (r : Nat) (v : W32) : (t.set r v).pc = t.pc := rfl
@[simp] theorem set_flags (t : Thread) (r : Nat) (v : W32) : (t.set r v).flags = t.flags := rfl
@[simp] theorem set_amax (t : Thread) (r : Nat) (v : W32) : (t.set r v).amax = t.amax := rfl
@[simp] theorem set_nest (t : Thread) (r : Nat) (v : W32) : (t.set r v).nest = t.nest := rfl
@[simp] theorem set_noStop (t : Thread) (r : Nat) (v : W32) : (t.set r v).noStop = t.noStop := rfl
@[simp] theorem set_sys (t : Thread) (r : Nat) (v : W32) : (t.set r v).sys = t.sys := rfl
@[simp] theorem set_status (t : Thread) (r : Nat) (v : W32) : (t.set r v).status = t.status := rfl
@[simp] theorem set_barge (t : Thread) (r : Nat) (v : W32) : (t.set r v).barge = t.barge := rfl
@[simp] theorem set_home (t : Thread) (r : Nat) (v : W32) : (t.set r v).home = t.home := rfl
@[simp] theorem set_pend (t : Thread) (r : Nat) (v : W32) : (t.set r v).pend = t.pend := rfl
@[simp] theorem set_deadline (t : Thread) (r : Nat) (v : W32) : (t.set r v).deadline = t.deadline := rfl
@[simp] theorem set_timedOut (t : Thread) (r : Nat) (v : W32) : (t.set r v).timedOut = t.timedOut := rfl
@[simp] theorem set_entry (t : Thread) (r : Nat) (v : W32) : (t.set r v).entry = t.entry := rfl
@[simp] theorem set_lastPark (t : Thread) (r : Nat) (v : W32) : (t.set r v).lastPark = t.lastPark := rfl
@[simp] theorem set_atBrk (t : Thread) (r : Nat) (v : W32) : (t.set r v).atBrk = t.atBrk := rfl
@[simp] theorem set_pub (t : Thread) (r : Nat) (v : W32) : (t.set r v).pub = t.pub := rfl
@[simp] theorem set_tiles (t : Thread) (r : Nat) (v : W32) : (t.set r v).tiles = t.tiles := rfl

@[simp] theorem set64_preds (t : Thread) (r : Nat) (v : W64) : (t.set64 r v).preds = t.preds := rfl
@[simp] theorem set64_pc (t : Thread) (r : Nat) (v : W64) : (t.set64 r v).pc = t.pc := rfl
@[simp] theorem set64_flags (t : Thread) (r : Nat) (v : W64) : (t.set64 r v).flags = t.flags := rfl
@[simp] theorem set64_amax (t : Thread) (r : Nat) (v : W64) : (t.set64 r v).amax = t.amax := rfl
@[simp] theorem set64_nest (t : Thread) (r : Nat) (v : W64) : (t.set64 r v).nest = t.nest := rfl
@[simp] theorem set64_noStop (t : Thread) (r : Nat) (v : W64) : (t.set64 r v).noStop = t.noStop := rfl
@[simp] theorem set64_sys (t : Thread) (r : Nat) (v : W64) : (t.set64 r v).sys = t.sys := rfl
@[simp] theorem set64_status (t : Thread) (r : Nat) (v : W64) : (t.set64 r v).status = t.status := rfl
@[simp] theorem set64_barge (t : Thread) (r : Nat) (v : W64) : (t.set64 r v).barge = t.barge := rfl
@[simp] theorem set64_home (t : Thread) (r : Nat) (v : W64) : (t.set64 r v).home = t.home := rfl
@[simp] theorem set64_pend (t : Thread) (r : Nat) (v : W64) : (t.set64 r v).pend = t.pend := rfl
@[simp] theorem set64_deadline (t : Thread) (r : Nat) (v : W64) : (t.set64 r v).deadline = t.deadline := rfl
@[simp] theorem set64_timedOut (t : Thread) (r : Nat) (v : W64) : (t.set64 r v).timedOut = t.timedOut := rfl
@[simp] theorem set64_entry (t : Thread) (r : Nat) (v : W64) : (t.set64 r v).entry = t.entry := rfl
@[simp] theorem set64_lastPark (t : Thread) (r : Nat) (v : W64) : (t.set64 r v).lastPark = t.lastPark := rfl
@[simp] theorem set64_atBrk (t : Thread) (r : Nat) (v : W64) : (t.set64 r v).atBrk = t.atBrk := rfl
@[simp] theorem set64_pub (t : Thread) (r : Nat) (v : W64) : (t.set64 r v).pub = t.pub := rfl
@[simp] theorem set64_tiles (t : Thread) (r : Nat) (v : W64) : (t.set64 r v).tiles = t.tiles := rfl

@[simp] theorem advance_regs (t : Thread) : (t.advance).regs = t.regs := rfl
@[simp] theorem advance_preds (t : Thread) : (t.advance).preds = t.preds := rfl
@[simp] theorem advance_flags (t : Thread) : (t.advance).flags = t.flags := rfl
@[simp] theorem advance_amax (t : Thread) : (t.advance).amax = t.amax := rfl
@[simp] theorem advance_nest (t : Thread) : (t.advance).nest = t.nest := rfl
@[simp] theorem advance_noStop (t : Thread) : (t.advance).noStop = t.noStop := rfl
@[simp] theorem advance_sys (t : Thread) : (t.advance).sys = t.sys := rfl
@[simp] theorem advance_status (t : Thread) : (t.advance).status = t.status := rfl
@[simp] theorem advance_barge (t : Thread) : (t.advance).barge = t.barge := rfl
@[simp] theorem advance_home (t : Thread) : (t.advance).home = t.home := rfl
@[simp] theorem advance_pend (t : Thread) : (t.advance).pend = t.pend := rfl
@[simp] theorem advance_deadline (t : Thread) : (t.advance).deadline = t.deadline := rfl
@[simp] theorem advance_timedOut (t : Thread) : (t.advance).timedOut = t.timedOut := rfl
@[simp] theorem advance_entry (t : Thread) : (t.advance).entry = t.entry := rfl
@[simp] theorem advance_lastPark (t : Thread) : (t.advance).lastPark = t.lastPark := rfl
@[simp] theorem advance_atBrk (t : Thread) : (t.advance).atBrk = t.atBrk := rfl
@[simp] theorem advance_pub (t : Thread) : (t.advance).pub = t.pub := rfl
@[simp] theorem advance_tiles (t : Thread) : (t.advance).tiles = t.tiles := rfl

@[simp] theorem setPred_regs (t : Thread) (p : Pred) (v : Bool) : (t.setPred p v).regs = t.regs := by
  unfold Thread.setPred; split <;> rfl
@[simp] theorem setPred_pc (t : Thread) (p : Pred) (v : Bool) : (t.setPred p v).pc = t.pc := by
  unfold Thread.setPred; split <;> rfl
@[simp] theorem setPred_flags (t : Thread) (p : Pred) (v : Bool) : (t.setPred p v).flags = t.flags := by
  unfold Thread.setPred; split <;> rfl
@[simp] theorem setPred_amax (t : Thread) (p : Pred) (v : Bool) : (t.setPred p v).amax = t.amax := by
  unfold Thread.setPred; split <;> rfl
@[simp] theorem setPred_nest (t : Thread) (p : Pred) (v : Bool) : (t.setPred p v).nest = t.nest := by
  unfold Thread.setPred; split <;> rfl
@[simp] theorem setPred_noStop (t : Thread) (p : Pred) (v : Bool) : (t.setPred p v).noStop = t.noStop := by
  unfold Thread.setPred; split <;> rfl
@[simp] theorem setPred_sys (t : Thread) (p : Pred) (v : Bool) : (t.setPred p v).sys = t.sys := by
  unfold Thread.setPred; split <;> rfl
@[simp] theorem setPred_status (t : Thread) (p : Pred) (v : Bool) : (t.setPred p v).status = t.status := by
  unfold Thread.setPred; split <;> rfl
@[simp] theorem setPred_barge (t : Thread) (p : Pred) (v : Bool) : (t.setPred p v).barge = t.barge := by
  unfold Thread.setPred; split <;> rfl
@[simp] theorem setPred_home (t : Thread) (p : Pred) (v : Bool) : (t.setPred p v).home = t.home := by
  unfold Thread.setPred; split <;> rfl
@[simp] theorem setPred_pend (t : Thread) (p : Pred) (v : Bool) : (t.setPred p v).pend = t.pend := by
  unfold Thread.setPred; split <;> rfl
@[simp] theorem setPred_deadline (t : Thread) (p : Pred) (v : Bool) : (t.setPred p v).deadline = t.deadline := by
  unfold Thread.setPred; split <;> rfl
@[simp] theorem setPred_timedOut (t : Thread) (p : Pred) (v : Bool) : (t.setPred p v).timedOut = t.timedOut := by
  unfold Thread.setPred; split <;> rfl
@[simp] theorem setPred_entry (t : Thread) (p : Pred) (v : Bool) : (t.setPred p v).entry = t.entry := by
  unfold Thread.setPred; split <;> rfl
@[simp] theorem setPred_lastPark (t : Thread) (p : Pred) (v : Bool) : (t.setPred p v).lastPark = t.lastPark := by
  unfold Thread.setPred; split <;> rfl
@[simp] theorem setPred_atBrk (t : Thread) (p : Pred) (v : Bool) : (t.setPred p v).atBrk = t.atBrk := by
  unfold Thread.setPred; split <;> rfl
@[simp] theorem setPred_pub (t : Thread) (p : Pred) (v : Bool) : (t.setPred p v).pub = t.pub := by
  unfold Thread.setPred; split <;> rfl
@[simp] theorem setPred_tiles (t : Thread) (p : Pred) (v : Bool) : (t.setPred p v).tiles = t.tiles := by
  unfold Thread.setPred; split <;> rfl

/-! ### A tile context -/

@[simp] theorem setC_k (x : Tile) (r : CReg) (v : BitVec 256) : (x.setC r v).k = x.k := rfl
@[simp] theorem setC_q (x : Tile) (r : CReg) (v : BitVec 256) : (x.setC r v).q = x.q := rfl
@[simp] theorem setC_s (x : Tile) (r : CReg) (v : BitVec 256) : (x.setC r v).s = x.s := rfl
@[simp] theorem setC_n (x : Tile) (r : CReg) (v : BitVec 256) : (x.setC r v).n = x.n := rfl
@[simp] theorem setC_loops (x : Tile) (r : CReg) (v : BitVec 256) : (x.setC r v).loops = x.loops := rfl
@[simp] theorem setC_lbuf (x : Tile) (r : CReg) (v : BitVec 256) : (x.setC r v).lbuf = x.lbuf := rfl
@[simp] theorem setC_skip (x : Tile) (r : CReg) (v : BitVec 256) : (x.setC r v).skip = x.skip := rfl
@[simp] theorem setC_held (x : Tile) (r : CReg) (v : BitVec 256) : (x.setC r v).held = x.held := rfl
@[simp] theorem setC_af (x : Tile) (r : CReg) (v : BitVec 256) : (x.setC r v).af = x.af := rfl
@[simp] theorem setC_wf (x : Tile) (r : CReg) (v : BitVec 256) : (x.setC r v).wf = x.wf := rfl
@[simp] theorem setC_rm (x : Tile) (r : CReg) (v : BitVec 256) : (x.setC r v).rm = x.rm := rfl
@[simp] theorem setC_cm (x : Tile) (r : CReg) (v : BitVec 256) : (x.setC r v).cm = x.cm := rfl
@[simp] theorem setC_dc (x : Tile) (r : CReg) (v : BitVec 256) : (x.setC r v).dc = x.dc := rfl
@[simp] theorem setC_pi (x : Tile) (r : CReg) (v : BitVec 256) : (x.setC r v).pi = x.pi := rfl
@[simp] theorem setC_bank0 (x : Tile) (r : CReg) (v : BitVec 256) : (x.setC r v).bank0 = x.bank0 := rfl
@[simp] theorem setC_bank1 (x : Tile) (r : CReg) (v : BitVec 256) : (x.setC r v).bank1 = x.bank1 := rfl
@[simp] theorem setC_bankSel (x : Tile) (r : CReg) (v : BitVec 256) : (x.setC r v).bankSel = x.bankSel := rfl
@[simp] theorem setC_acc (x : Tile) (r : CReg) (v : BitVec 256) : (x.setC r v).acc = x.acc := rfl
@[simp] theorem setC_fflags (x : Tile) (r : CReg) (v : BitVec 256) : (x.setC r v).fflags = x.fflags := rfl
@[simp] theorem setC_views (x : Tile) (r : CReg) (v : BitVec 256) : (x.setC r v).views = x.views := rfl
@[simp] theorem setC_baddr (x : Tile) (r : CReg) (v : BitVec 256) : (x.setC r v).baddr = x.baddr := rfl
@[simp] theorem setC_step (x : Tile) (r : CReg) (v : BitVec 256) : (x.setC r v).step = x.step := rfl
@[simp] theorem setC_fly (x : Tile) (r : CReg) (v : BitVec 256) : (x.setC r v).fly = x.fly := rfl
@[simp] theorem setC_delay (x : Tile) (r : CReg) (v : BitVec 256) : (x.setC r v).delay = x.delay := rfl
@[simp] theorem setC_wait (x : Tile) (r : CReg) (v : BitVec 256) : (x.setC r v).wait = x.wait := rfl
@[simp] theorem setC_lastPark (x : Tile) (r : CReg) (v : BitVec 256) : (x.setC r v).lastPark = x.lastPark := rfl
@[simp] theorem setC_arrivals (x : Tile) (r : CReg) (v : BitVec 256) : (x.setC r v).arrivals = x.arrivals := rfl
@[simp] theorem setC_capt (x : Tile) (r : CReg) (v : BitVec 256) : (x.setC r v).capt = x.capt := rfl
@[simp] theorem setC_exempt (x : Tile) (r : CReg) (v : BitVec 256) : (x.setC r v).exempt = x.exempt := rfl

@[simp] theorem setAcc_k (x : Tile) (i : Nat) (v : W32) : (x.setAcc i v).k = x.k := rfl
@[simp] theorem setAcc_q (x : Tile) (i : Nat) (v : W32) : (x.setAcc i v).q = x.q := rfl
@[simp] theorem setAcc_s (x : Tile) (i : Nat) (v : W32) : (x.setAcc i v).s = x.s := rfl
@[simp] theorem setAcc_c (x : Tile) (i : Nat) (v : W32) : (x.setAcc i v).c = x.c := rfl
@[simp] theorem setAcc_n (x : Tile) (i : Nat) (v : W32) : (x.setAcc i v).n = x.n := rfl
@[simp] theorem setAcc_loops (x : Tile) (i : Nat) (v : W32) : (x.setAcc i v).loops = x.loops := rfl
@[simp] theorem setAcc_lbuf (x : Tile) (i : Nat) (v : W32) : (x.setAcc i v).lbuf = x.lbuf := rfl
@[simp] theorem setAcc_skip (x : Tile) (i : Nat) (v : W32) : (x.setAcc i v).skip = x.skip := rfl
@[simp] theorem setAcc_held (x : Tile) (i : Nat) (v : W32) : (x.setAcc i v).held = x.held := rfl
@[simp] theorem setAcc_af (x : Tile) (i : Nat) (v : W32) : (x.setAcc i v).af = x.af := rfl
@[simp] theorem setAcc_wf (x : Tile) (i : Nat) (v : W32) : (x.setAcc i v).wf = x.wf := rfl
@[simp] theorem setAcc_rm (x : Tile) (i : Nat) (v : W32) : (x.setAcc i v).rm = x.rm := rfl
@[simp] theorem setAcc_cm (x : Tile) (i : Nat) (v : W32) : (x.setAcc i v).cm = x.cm := rfl
@[simp] theorem setAcc_dc (x : Tile) (i : Nat) (v : W32) : (x.setAcc i v).dc = x.dc := rfl
@[simp] theorem setAcc_pi (x : Tile) (i : Nat) (v : W32) : (x.setAcc i v).pi = x.pi := rfl
@[simp] theorem setAcc_bank0 (x : Tile) (i : Nat) (v : W32) : (x.setAcc i v).bank0 = x.bank0 := rfl
@[simp] theorem setAcc_bank1 (x : Tile) (i : Nat) (v : W32) : (x.setAcc i v).bank1 = x.bank1 := rfl
@[simp] theorem setAcc_bankSel (x : Tile) (i : Nat) (v : W32) : (x.setAcc i v).bankSel = x.bankSel := rfl
@[simp] theorem setAcc_fflags (x : Tile) (i : Nat) (v : W32) : (x.setAcc i v).fflags = x.fflags := rfl
@[simp] theorem setAcc_views (x : Tile) (i : Nat) (v : W32) : (x.setAcc i v).views = x.views := rfl
@[simp] theorem setAcc_baddr (x : Tile) (i : Nat) (v : W32) : (x.setAcc i v).baddr = x.baddr := rfl
@[simp] theorem setAcc_step (x : Tile) (i : Nat) (v : W32) : (x.setAcc i v).step = x.step := rfl
@[simp] theorem setAcc_fly (x : Tile) (i : Nat) (v : W32) : (x.setAcc i v).fly = x.fly := rfl
@[simp] theorem setAcc_delay (x : Tile) (i : Nat) (v : W32) : (x.setAcc i v).delay = x.delay := rfl
@[simp] theorem setAcc_wait (x : Tile) (i : Nat) (v : W32) : (x.setAcc i v).wait = x.wait := rfl
@[simp] theorem setAcc_lastPark (x : Tile) (i : Nat) (v : W32) : (x.setAcc i v).lastPark = x.lastPark := rfl
@[simp] theorem setAcc_arrivals (x : Tile) (i : Nat) (v : W32) : (x.setAcc i v).arrivals = x.arrivals := rfl
@[simp] theorem setAcc_capt (x : Tile) (i : Nat) (v : W32) : (x.setAcc i v).capt = x.capt := rfl
@[simp] theorem setAcc_exempt (x : Tile) (i : Nat) (v : W32) : (x.setAcc i v).exempt = x.exempt := rfl

@[simp] theorem setK_q (x : Tile) (r : KReg) (v : W64) : (x.setK r v).q = x.q := by
  unfold Tile.setK; split <;> rfl
@[simp] theorem setK_s (x : Tile) (r : KReg) (v : W64) : (x.setK r v).s = x.s := by
  unfold Tile.setK; split <;> rfl
@[simp] theorem setK_c (x : Tile) (r : KReg) (v : W64) : (x.setK r v).c = x.c := by
  unfold Tile.setK; split <;> rfl
@[simp] theorem setK_n (x : Tile) (r : KReg) (v : W64) : (x.setK r v).n = x.n := by
  unfold Tile.setK; split <;> rfl
@[simp] theorem setK_loops (x : Tile) (r : KReg) (v : W64) : (x.setK r v).loops = x.loops := by
  unfold Tile.setK; split <;> rfl
@[simp] theorem setK_lbuf (x : Tile) (r : KReg) (v : W64) : (x.setK r v).lbuf = x.lbuf := by
  unfold Tile.setK; split <;> rfl
@[simp] theorem setK_skip (x : Tile) (r : KReg) (v : W64) : (x.setK r v).skip = x.skip := by
  unfold Tile.setK; split <;> rfl
@[simp] theorem setK_held (x : Tile) (r : KReg) (v : W64) : (x.setK r v).held = x.held := by
  unfold Tile.setK; split <;> rfl
@[simp] theorem setK_af (x : Tile) (r : KReg) (v : W64) : (x.setK r v).af = x.af := by
  unfold Tile.setK; split <;> rfl
@[simp] theorem setK_wf (x : Tile) (r : KReg) (v : W64) : (x.setK r v).wf = x.wf := by
  unfold Tile.setK; split <;> rfl
@[simp] theorem setK_rm (x : Tile) (r : KReg) (v : W64) : (x.setK r v).rm = x.rm := by
  unfold Tile.setK; split <;> rfl
@[simp] theorem setK_cm (x : Tile) (r : KReg) (v : W64) : (x.setK r v).cm = x.cm := by
  unfold Tile.setK; split <;> rfl
@[simp] theorem setK_dc (x : Tile) (r : KReg) (v : W64) : (x.setK r v).dc = x.dc := by
  unfold Tile.setK; split <;> rfl
@[simp] theorem setK_pi (x : Tile) (r : KReg) (v : W64) : (x.setK r v).pi = x.pi := by
  unfold Tile.setK; split <;> rfl
@[simp] theorem setK_bank0 (x : Tile) (r : KReg) (v : W64) : (x.setK r v).bank0 = x.bank0 := by
  unfold Tile.setK; split <;> rfl
@[simp] theorem setK_bank1 (x : Tile) (r : KReg) (v : W64) : (x.setK r v).bank1 = x.bank1 := by
  unfold Tile.setK; split <;> rfl
@[simp] theorem setK_bankSel (x : Tile) (r : KReg) (v : W64) : (x.setK r v).bankSel = x.bankSel := by
  unfold Tile.setK; split <;> rfl
@[simp] theorem setK_acc (x : Tile) (r : KReg) (v : W64) : (x.setK r v).acc = x.acc := by
  unfold Tile.setK; split <;> rfl
@[simp] theorem setK_fflags (x : Tile) (r : KReg) (v : W64) : (x.setK r v).fflags = x.fflags := by
  unfold Tile.setK; split <;> rfl
@[simp] theorem setK_views (x : Tile) (r : KReg) (v : W64) : (x.setK r v).views = x.views := by
  unfold Tile.setK; split <;> rfl
@[simp] theorem setK_baddr (x : Tile) (r : KReg) (v : W64) : (x.setK r v).baddr = x.baddr := by
  unfold Tile.setK; split <;> rfl
@[simp] theorem setK_step (x : Tile) (r : KReg) (v : W64) : (x.setK r v).step = x.step := by
  unfold Tile.setK; split <;> rfl
@[simp] theorem setK_fly (x : Tile) (r : KReg) (v : W64) : (x.setK r v).fly = x.fly := by
  unfold Tile.setK; split <;> rfl
@[simp] theorem setK_delay (x : Tile) (r : KReg) (v : W64) : (x.setK r v).delay = x.delay := by
  unfold Tile.setK; split <;> rfl
@[simp] theorem setK_wait (x : Tile) (r : KReg) (v : W64) : (x.setK r v).wait = x.wait := by
  unfold Tile.setK; split <;> rfl
@[simp] theorem setK_lastPark (x : Tile) (r : KReg) (v : W64) : (x.setK r v).lastPark = x.lastPark := by
  unfold Tile.setK; split <;> rfl
@[simp] theorem setK_arrivals (x : Tile) (r : KReg) (v : W64) : (x.setK r v).arrivals = x.arrivals := by
  unfold Tile.setK; split <;> rfl
@[simp] theorem setK_capt (x : Tile) (r : KReg) (v : W64) : (x.setK r v).capt = x.capt := by
  unfold Tile.setK; split <;> rfl
@[simp] theorem setK_exempt (x : Tile) (r : KReg) (v : W64) : (x.setK r v).exempt = x.exempt := by
  unfold Tile.setK; split <;> rfl

@[simp] theorem setQ_k (x : Tile) (r : QReg) (v : Bool) : (x.setQ r v).k = x.k := by
  unfold Tile.setQ; split <;> rfl
@[simp] theorem setQ_s (x : Tile) (r : QReg) (v : Bool) : (x.setQ r v).s = x.s := by
  unfold Tile.setQ; split <;> rfl
@[simp] theorem setQ_c (x : Tile) (r : QReg) (v : Bool) : (x.setQ r v).c = x.c := by
  unfold Tile.setQ; split <;> rfl
@[simp] theorem setQ_n (x : Tile) (r : QReg) (v : Bool) : (x.setQ r v).n = x.n := by
  unfold Tile.setQ; split <;> rfl
@[simp] theorem setQ_loops (x : Tile) (r : QReg) (v : Bool) : (x.setQ r v).loops = x.loops := by
  unfold Tile.setQ; split <;> rfl
@[simp] theorem setQ_lbuf (x : Tile) (r : QReg) (v : Bool) : (x.setQ r v).lbuf = x.lbuf := by
  unfold Tile.setQ; split <;> rfl
@[simp] theorem setQ_skip (x : Tile) (r : QReg) (v : Bool) : (x.setQ r v).skip = x.skip := by
  unfold Tile.setQ; split <;> rfl
@[simp] theorem setQ_held (x : Tile) (r : QReg) (v : Bool) : (x.setQ r v).held = x.held := by
  unfold Tile.setQ; split <;> rfl
@[simp] theorem setQ_af (x : Tile) (r : QReg) (v : Bool) : (x.setQ r v).af = x.af := by
  unfold Tile.setQ; split <;> rfl
@[simp] theorem setQ_wf (x : Tile) (r : QReg) (v : Bool) : (x.setQ r v).wf = x.wf := by
  unfold Tile.setQ; split <;> rfl
@[simp] theorem setQ_rm (x : Tile) (r : QReg) (v : Bool) : (x.setQ r v).rm = x.rm := by
  unfold Tile.setQ; split <;> rfl
@[simp] theorem setQ_cm (x : Tile) (r : QReg) (v : Bool) : (x.setQ r v).cm = x.cm := by
  unfold Tile.setQ; split <;> rfl
@[simp] theorem setQ_dc (x : Tile) (r : QReg) (v : Bool) : (x.setQ r v).dc = x.dc := by
  unfold Tile.setQ; split <;> rfl
@[simp] theorem setQ_pi (x : Tile) (r : QReg) (v : Bool) : (x.setQ r v).pi = x.pi := by
  unfold Tile.setQ; split <;> rfl
@[simp] theorem setQ_bank0 (x : Tile) (r : QReg) (v : Bool) : (x.setQ r v).bank0 = x.bank0 := by
  unfold Tile.setQ; split <;> rfl
@[simp] theorem setQ_bank1 (x : Tile) (r : QReg) (v : Bool) : (x.setQ r v).bank1 = x.bank1 := by
  unfold Tile.setQ; split <;> rfl
@[simp] theorem setQ_bankSel (x : Tile) (r : QReg) (v : Bool) : (x.setQ r v).bankSel = x.bankSel := by
  unfold Tile.setQ; split <;> rfl
@[simp] theorem setQ_acc (x : Tile) (r : QReg) (v : Bool) : (x.setQ r v).acc = x.acc := by
  unfold Tile.setQ; split <;> rfl
@[simp] theorem setQ_fflags (x : Tile) (r : QReg) (v : Bool) : (x.setQ r v).fflags = x.fflags := by
  unfold Tile.setQ; split <;> rfl
@[simp] theorem setQ_views (x : Tile) (r : QReg) (v : Bool) : (x.setQ r v).views = x.views := by
  unfold Tile.setQ; split <;> rfl
@[simp] theorem setQ_baddr (x : Tile) (r : QReg) (v : Bool) : (x.setQ r v).baddr = x.baddr := by
  unfold Tile.setQ; split <;> rfl
@[simp] theorem setQ_step (x : Tile) (r : QReg) (v : Bool) : (x.setQ r v).step = x.step := by
  unfold Tile.setQ; split <;> rfl
@[simp] theorem setQ_fly (x : Tile) (r : QReg) (v : Bool) : (x.setQ r v).fly = x.fly := by
  unfold Tile.setQ; split <;> rfl
@[simp] theorem setQ_delay (x : Tile) (r : QReg) (v : Bool) : (x.setQ r v).delay = x.delay := by
  unfold Tile.setQ; split <;> rfl
@[simp] theorem setQ_wait (x : Tile) (r : QReg) (v : Bool) : (x.setQ r v).wait = x.wait := by
  unfold Tile.setQ; split <;> rfl
@[simp] theorem setQ_lastPark (x : Tile) (r : QReg) (v : Bool) : (x.setQ r v).lastPark = x.lastPark := by
  unfold Tile.setQ; split <;> rfl
@[simp] theorem setQ_arrivals (x : Tile) (r : QReg) (v : Bool) : (x.setQ r v).arrivals = x.arrivals := by
  unfold Tile.setQ; split <;> rfl
@[simp] theorem setQ_capt (x : Tile) (r : QReg) (v : Bool) : (x.setQ r v).capt = x.capt := by
  unfold Tile.setQ; split <;> rfl
@[simp] theorem setQ_exempt (x : Tile) (r : QReg) (v : Bool) : (x.setQ r v).exempt = x.exempt := by
  unfold Tile.setQ; split <;> rfl

/-! ### What a part reads as after an update -/

theorem core_modCore (s : State) (c k : Nat) (f : CoreSt → CoreSt) : (s.modCore c f).core k = if k = c then f (s.core c) else s.core k :=
  get_put _ _ _ _ _
@[simp] theorem core_modCore_self (s : State) (c : Nat) (f : CoreSt → CoreSt) : (s.modCore c f).core c = f (s.core c) := by simp [core_modCore]
theorem die_modDie (s : State) (d k : Nat) (f : Die → Die) : (s.modDie d f).die k = if k = d then f (s.die d) else s.die k := get_put _ _ _ _ _
@[simp] theorem die_modDie_self (s : State) (d : Nat) (f : Die → Die) : (s.modDie d f).die d = f (s.die d) := by simp [die_modDie]
@[simp] theorem ctx_modCtx_self (s : State) (n : Nat) (f : Ctx → Ctx) : (s.modCtx n f).ctx n = f (s.ctx n) := get_put_self _ _ _ _
/-- The default of a context slot depends on its number; a change of one leaves every other as it was all the same. -/
theorem ctx_modCtx_ne (s : State) {n k : Nat} (f : Ctx → Ctx) (h : k ≠ n) : (s.modCtx n f).ctx k = s.ctx k := get_put_other _ _ _ _ h
theorem ctx_modCtx (s : State) (n k : Nat) (f : Ctx → Ctx) : (s.modCtx n f).ctx k = if k = n then f (s.ctx n) else s.ctx k := by
  by_cases h : k = n
  · subst h; simp
  · simp [h, ctx_modCtx_ne s f h]
@[simp] theorem core_modDie (s : State) (d k : Nat) (f : Die → Die) : (s.modDie d f).core k = s.core k := rfl
@[simp] theorem core_modCtx (s : State) (n k : Nat) (f : Ctx → Ctx) : (s.modCtx n f).core k = s.core k := rfl
@[simp] theorem core_setTag (s : State) (a k : Nat) (v : Bool) : (s.setTag a v).core k = s.core k := rfl
@[simp] theorem core_post (s : State) (k : Nat) (r : BitVec 512) : (s.post r).core k = s.core k := rfl
@[simp] theorem core_modBlock (s : State) (n k : Nat) (f : Block → Block) : (s.modBlock n f).core k = s.core k := by simp [State.core]
@[simp] theorem die_modCore (s : State) (c k : Nat) (f : CoreSt → CoreSt) : (s.modCore c f).die k = s.die k := rfl
@[simp] theorem die_modBlock (s : State) (n k : Nat) (f : Block → Block) : (s.modBlock n f).die k = s.die k := by simp [State.die]
@[simp] theorem ctx_modCore (s : State) (c k : Nat) (f : CoreSt → CoreSt) : (s.modCore c f).ctx k = s.ctx k := rfl
@[simp] theorem ctx_modDie (s : State) (d k : Nat) (f : Die → Die) : (s.modDie d f).ctx k = s.ctx k := rfl
@[simp] theorem ctx_modBlock (s : State) (n k : Nat) (f : Block → Block) : (s.modBlock n f).ctx k = s.ctx k := by simp [State.ctx]
@[simp] theorem ctx_setTag (s : State) (a k : Nat) (v : Bool) : (s.setTag a v).ctx k = s.ctx k := rfl
@[simp] theorem ctx_post (s : State) (k : Nat) (r : BitVec 512) : (s.post r).ctx k = s.ctx k := rfl
@[simp] theorem block_modCore (s : State) (c n : Nat) (f : CoreSt → CoreSt) : (s.modCore c f).block n = s.block n := rfl
@[simp] theorem block_modDie (s : State) (d n : Nat) (f : Die → Die) : (s.modDie d f).block n = s.block n := rfl
@[simp] theorem block_modCtx (s : State) (m n : Nat) (f : Ctx → Ctx) : (s.modCtx m f).block n = s.block n := rfl
@[simp] theorem block_setTag (s : State) (a n : Nat) (v : Bool) : (s.setTag a v).block n = s.block n := rfl
@[simp] theorem block_post (s : State) (n : Nat) (r : BitVec 512) : (s.post r).block n = s.block n := rfl
@[simp] theorem byte_modCore (s : State) (c a : Nat) (f : CoreSt → CoreSt) : (s.modCore c f).byte a = s.byte a := rfl
@[simp] theorem byte_modDie (s : State) (d a : Nat) (f : Die → Die) : (s.modDie d f).byte a = s.byte a := rfl
@[simp] theorem byte_modCtx (s : State) (n a : Nat) (f : Ctx → Ctx) : (s.modCtx n f).byte a = s.byte a := rfl
@[simp] theorem byte_setTag (s : State) (b a : Nat) (v : Bool) : (s.setTag b v).byte a = s.byte a := rfl
@[simp] theorem byte_post (s : State) (a : Nat) (r : BitVec 512) : (s.post r).byte a = s.byte a := rfl
@[simp] theorem byte_putBlock (s : State) (n a : Nat) (b : Option Block) : (s.putBlock n b).byte a = s.byte a := rfl
@[simp] theorem byte_modBlock (s : State) (n a : Nat) (f : Block → Block) : (s.modBlock n f).byte a = s.byte a := by simp [State.byte]

/-- A block after a change of that block. -/
@[simp] theorem block_modBlock_self (s : State) (b : Nat) (f : Block → Block) : (s.modBlock b f).block b = (s.block b).map f := by
  unfold State.modBlock
  split
  · rename_i h
    simp [h]
  · rename_i x h
    simp [State.block] at h ⊢
    simp [h]
/-- A block after a change of another. -/
theorem block_modBlock_ne (s : State) {b n : Nat} (f : Block → Block) (h : n ≠ b) : (s.modBlock b f).block n = s.block n := by
  unfold State.modBlock
  split
  · rfl
  · simp only [State.block]
    exact get_put_ne _ _ _ h
/-- A block after a block is written. -/
theorem block_putBlock (s : State) (b n : Nat) (x : Option Block) : (s.putBlock b x).block n = if n = b then x else s.block n := get_put _ _ _ _ _
/-- Changes keep the canonical form of the table of blocks. -/
theorem blocks_wf_modBlock {s : State} (h : Tbl.wf none s.blocks = true) (n : Nat) (f : Block → Block) : Tbl.wf none (s.modBlock n f).blocks = true := by
  unfold State.modBlock
  split
  · exact h
  · rename_i b _
    show Tbl.wf none (Tbl.put none s.blocks n (some (f b))) = true
    exact wf_put _ h _ _
theorem blocks_wf_putBlock {s : State} (h : Tbl.wf none s.blocks = true) (n : Nat) (b : Option Block) : Tbl.wf none (s.putBlock n b).blocks = true :=
  wf_put _ h _ _

/-! ### Registers -/

@[simp] theorem kreg_setK (x : Tile) (r q : KReg) (v : W64) : (x.setK r v).kreg q = if q = r ∧ r ≠ 0#6 then v else x.kreg q := by
  unfold Tile.setK Tile.kreg
  by_cases h : r = 0#6
  · simp [h]
  · by_cases hq : q = r
    · subst hq; simp [h]
    · have : q.toNat ≠ r.toNat := fun e => hq (BitVec.eq_of_toNat_eq e)
      simp [h, hq, get_put_ne _ _ _ this]
theorem accWord_setAcc (x : Tile) (i j : Nat) (v : W32) : (x.setAcc i v).accWord j = if j = i then v else x.accWord j := get_put _ _ _ _ _
@[simp] theorem craw_setC (x : Tile) (r q : CReg) (v : BitVec 256) : (x.setC r v).craw q = if q = r then v else x.craw q := by
  simp only [Tile.craw, Tile.setC, get_put]
  by_cases h : q = r
  · simp [h]
  · have : q.toNat ≠ r.toNat := fun e => h (BitVec.eq_of_toNat_eq e)
    simp [h, this]
/-- k0 reads 0, whatever is written. -/
@[simp] theorem kreg_zero (x : Tile) : x.kreg 0#6 = 0#64 := rfl
/-- q0 reads true. -/
@[simp] theorem qreg_zero (x : Tile) : x.qreg 0#3 = true := rfl
/-- p0 reads true. -/
@[simp] theorem pred_zero (t : Thread) : t.pred 0#4 = true := rfl

end Sys2Proof.Laws
end

