-- ==== Sys2Proof/Laws/Lanes.lean ====
section
/-! SUPPORT. What the shared operations on registers, blocks and issued lanes do: one lemma for each, which the proofs about thread
instructions cite. -/

namespace Sys2Proof.Laws

open Sys2Proof Sys2Proof.Machine Sys2Proof.Safety
open Host (Outcome)

/-! ### Registers of a thread -/

@[simp] theorem get_set_self (t : Thread) (r : Nat) (v : W32) : (t.set r v).get r = v := get_put_self _ _ _ _
theorem get_set_ne (t : Thread) {r q : Nat} (v : W32) (h : q ≠ r) : (t.set r v).get q = t.get q := get_put_ne _ _ _ h
theorem get_set (t : Thread) (r q : Nat) (v : W32) : (t.set r v).get q = if q = r then v else t.get q := get_put _ _ _ _ _
@[simp] theorem get_advance (t : Thread) (r : Nat) : t.advance.get r = t.get r := rfl
@[simp] theorem get_with_pc (t : Thread) (p : Addr) (r : Nat) : ({ t with pc := p } : Thread).get r = t.get r := rfl
@[simp] theorem get_with_flags (t : Thread) (p : BitVec 5) (r : Nat) : ({ t with flags := p } : Thread).get r = t.get r := rfl
@[simp] theorem get_with_amax (t : Thread) (p : W32) (r : Nat) : ({ t with amax := p } : Thread).get r = t.get r := rfl
@[simp] theorem get_with_preds (t : Thread) (p : BitVec 16) (r : Nat) : ({ t with preds := p } : Thread).get r = t.get r := rfl

/-- One register written, and on to the next instruction. -/
theorem writes_set (x : Thread) (d : Nat) (v : W32) : Writes d [v] x (x.set d v).advance := by
  refine ⟨rfl, fun i hi => ?_, fun r hr => ?_, rfl⟩
  · have : i = 0 := by simpa using hi
    subst this
    simp
  · have : r ≠ d := by simp at hr; omega
    simp [get_set_ne, this]

/-- A pair written, and on to the next instruction. -/
theorem writes_set64 (x : Thread) (d : Nat) (v : W64) : Writes d (pair v) x (x.set64 d v).advance := by
  refine ⟨rfl, fun i hi => ?_, fun r hr => ?_, rfl⟩
  · simp only [pair, List.length_cons, List.length_nil] at hi
    have : i = 0 ∨ i = 1 := by omega
    rcases this with rfl | rfl
    · simp [Thread.set64, pair, get_set]
    · simp [Thread.set64, pair]
  · simp only [pair, List.length_cons, List.length_nil] at hr
    have h1 : r ≠ d := by omega
    have h2 : r ≠ d + 1 := by omega
    simp [Thread.set64, get_set, h1, h2]

/-- Nothing written, and on to the next instruction. -/
theorem writes_nil (x : Thread) (d : Nat) : Writes d [] x x.advance :=
  ⟨rfl, fun _ hi => absurd hi (by simp), fun _ _ => rfl, rfl⟩

/-! ### Blocks -/

/-- A change of a block changes no field of the device but the blocks. -/
theorem deviceKept_modBlock (s : State) (b : Nat) (f : Block → Block) : DeviceKept s (s.modBlock b f) := by
  unfold State.modBlock
  split <;> exact ⟨rfl, fun _ => rfl⟩

/-- What an instruction that acts on its issued lanes does. -/
theorem onLanes_only (s : State) (f : Nat → Thread → Thread) :
    DeviceKept s (s.onLanes f) ∧ OthersKept s (s.onLanes f) s.cur.blk ∧ LaneChange s (s.onLanes f) fun tid x y => y = f tid x := by
  refine ⟨deviceKept_modBlock _ _ _, fun n h => block_modBlock_ne _ _ h, fun b hb => ?_⟩
  refine ⟨b.onLanes s.cur.lanes f, ?_, rfl, ?_, ?_⟩
  · simp [State.onLanes, block_modBlock_self, hb]
  · simp [Block.onLanes]
  · intro tid x y hx hy
    simp only [Block.onLanes, List.getElem?_mapIdx, hx, Option.map_some, Option.some.injEq] at hy
    subst hy
    by_cases h : tid ∈ s.cur.lanes <;> simp [h]

/-- The shared operation of the instructions that only write registers of their issued lanes. -/
theorem lanes_only (s : State) (g : Guard) (f : Nat → Thread → Thread) (R : Nat → Thread → Thread → Prop)
    (h : ∀ tid x, R tid x (f tid x).advance) : LanesOnly s (s.lanes g f) g R := by
  obtain ⟨h1, h2, h3⟩ := onLanes_only s fun tid t => if t.guard g then (f tid t).advance else t.advance
  refine ⟨h1, h2, fun b hb => ?_⟩
  obtain ⟨c, hc, hk, hl, ht⟩ := h3 b hb
  refine ⟨c, hc, hk, hl, fun tid x y hx hy => ?_⟩
  have := ht tid x y hx hy
  by_cases hm : tid ∈ s.cur.lanes
  · simp only [hm, if_true] at this ⊢
    subst this
    by_cases hg : x.guard g = true <;> simp [hg, h]
  · simpa [hm] using this

/-- The same, as the completion of a meaning. -/
theorem lanesNext_completes {i : Instr} {s : State} {g : Guard} {f : Nat → Thread → Thread} {R : Nat → Thread → Thread → Prop}
    (hi : exec i s = lanesNext s g f) (h : ∀ tid x, R tid x (f tid x).advance) : Completes i s fun t => LanesOnly s t g R :=
  ⟨_, hi, lanes_only s g f R h⟩

/-! ### Predicates -/

/-- A predicate after a write of one. -/
theorem pred_setPred (y : Thread) (c p : Pred) (v : Bool) :
    (y.setPred c v).pred p = if p = c ∧ p ≠ 0#4 then v else y.pred p := by
  have hp := p.isLt
  have hc := c.isLt
  by_cases h0 : p = 0#4
  · subst h0
    have : ∀ z : Thread, z.pred 0#4 = true := fun _ => rfl
    simp [this]
  · have hb : (p == 0#4) = false := by simpa using h0
    by_cases hpc : p = c
    · subst hpc
      simp [Thread.setPred, Thread.pred, hb, hp, h0]
    · have hn : p.toNat ≠ c.toNat := fun e => hpc (BitVec.eq_of_toNat_eq e)
      by_cases hc0 : c = 0#4
      · simp [Thread.setPred, hc0]
      · simp [Thread.setPred, Thread.pred, hb, hp, h0, hpc, hc0]
        by_cases hlt : p.toNat < c.toNat
        · simp [hlt]
        · have h1 : p.toNat - c.toNat ≠ 0 := by omega
          simp [hlt, h1]
/-- A write of a predicate changes no other field. -/
theorem setPred_preds (y : Thread) (c : Pred) (v : Bool) : ∃ q, y.setPred c v = { y with preds := q } := by
  unfold Thread.setPred; split
  · exact ⟨y.preds, rfl⟩
  · exact ⟨_, rfl⟩
/-- A result and its complement written, and on to the next instruction. -/
theorem writesTest_setPreds (x : Thread) (pd pe : Pred) (v : Bool) : WritesTest pd pe v x (x.setPreds pd pe v).advance := by
  have hq : ∃ q, x.setPreds pd pe v = { x with preds := q } := by
    obtain ⟨q, hq⟩ := setPred_preds x pd v
    obtain ⟨r, hr⟩ := setPred_preds (x.setPred pd v) pe (!v)
    exact ⟨r, by rw [Thread.setPreds, hr, hq]⟩
  have hpr : ∀ p, (x.setPreds pd pe v).advance.pred p = if p = pe ∧ p ≠ 0#4 then !v else if p = pd ∧ p ≠ 0#4 then v else x.pred p := by
    intro p
    show (x.setPreds pd pe v).pred p = _
    simp only [Thread.setPreds, pred_setPred]
  obtain ⟨q, hq⟩ := hq
  refine ⟨by rw [hq]; rfl, fun p hp => ?_, fun p hp => ?_, by rw [hq]; rfl⟩
  · rw [hpr]
    obtain ⟨h0, h1⟩ := hp
    by_cases h : p = pe
    · simp [h, h ▸ h0]
    · rcases h1 with h1 | h1
      · subst h1; simp [h, h0]
      · exact absurd h1 h
  · rw [hpr, if_neg, if_neg]
    · exact fun h => hp ⟨h.2, Or.inl h.1⟩
    · exact fun h => hp ⟨h.2, Or.inr h.1⟩

/-! ### Branches and exceptions -/

/-- An operation on the issued lanes that sends those whose guard reads false to the next instruction. -/
theorem lanesOnly_of (s : State) (g : Guard) (f : Nat → Thread → Thread) (R : Nat → Thread → Thread → Prop)
    (hf : ∀ tid t, f tid t = if t.guard g then f tid t else t.advance)
    (h : ∀ tid x, x.guard g = true → R tid x (f tid x)) : LanesOnly s (s.onLanes f) g R := by
  obtain ⟨h1, h2, h3⟩ := onLanes_only s f
  refine ⟨h1, h2, fun b hb => ?_⟩
  obtain ⟨c, hc, hk, hl, ht⟩ := h3 b hb
  refine ⟨c, hc, hk, hl, fun tid x y hx hy => ?_⟩
  have := ht tid x y hx hy
  by_cases hm : tid ∈ s.cur.lanes
  · simp only [hm, if_true] at this ⊢
    subst this
    by_cases hg : x.guard g = true
    · simp [hg]; exact h tid x hg
    · simp [hg]; rw [hf]; simp [hg]
  · simpa [hm] using this
/-- A branch. -/
theorem branch_only {i : Instr} {s : State} {g : Guard} {f : Thread → Thread} {R : Nat → Thread → Thread → Prop}
    (hi : exec i s = .next (branchLanes s g f)) (h : ∀ tid x, R tid x (f x)) : Completes i s fun t => LanesOnly s t g R :=
  ⟨_, hi, lanesOnly_of _ _ _ _ (fun tid t => by by_cases hg : t.guard g = true <;> simp [hg]) (fun tid x hx => by simpa [hx] using h tid x)⟩
/-- A fault without an address finds no error. -/
theorem found_bare (s : State) {c : Code} (h : c ≠ .ecc) : s.found (stopBare c) = s := by
  cases c <;> first | exact absurd rfl h | rfl
/-- A fault with a code alone: the lanes enter the handler with that record, and take up no access to another device. -/
theorem faultAll_bare (s : State) (who l : List Nat) {c : Code} (h : c ≠ .ecc) :
    Faults s (s.faultAll who l (stopBare c)) who (bareRec s l c) s.cur.pc := by
  have e : ({ s.threadRec l with code := c.num, num := 0, va := 0, pa := 0, detail := 0 } : Rec) = bareRec s l c := by
    unfold bareRec State.threadRec
    cases s.block s.cur.blk <;> rfl
  show ((s.found (stopBare c)).abandon s.cur.blk s.cur.lanes.contains).enterLanes s.cur.blk who
    (Rec.bits { s.threadRec l with code := c.num, num := 0, va := 0, pa := 0, detail := 0 }) s.cur.pc = _
  rw [e, found_bare s h]

end Sys2Proof.Laws
end

