-- ==== Sys2Proof/Laws/Memory.lean ====
section
/-! SUPPORT. Memory: a read after a write, what a write leaves as it was, and that every memory operation keeps the canonical form. -/

namespace Sys2Proof.Laws

open Sys2Proof Sys2Proof.Machine Sys2Proof.Safety

/-! ### Bytes and numbers -/

@[simp] theorem length_leBytes (n v : Nat) : (leBytes n v).length = n := by
  induction n generalizing v with
  | zero => rfl
  | succ n ih => simp [leBytes, ih]
/-- Byte i of a number. -/
theorem getElem_leBytes (n v i : Nat) (h : i < n) : (leBytes n v)[i]? = some (BitVec.ofNat 8 (v / 256 ^ i)) := by
  induction n generalizing v i with
  | zero => omega
  | succ n ih =>
    cases i with
    | zero => simp [leBytes]
    | succ i => simp [leBytes, ih _ i (by omega), Nat.div_div_eq_div_mul, Nat.pow_succ, Nat.mul_comm]
/-- A number that n bytes hold reads back. -/
theorem leNat_leBytes (n v : Nat) : leNat (leBytes n v) = v % 256 ^ n := by
  induction n generalizing v with
  | zero => simp [leBytes, leNat, Nat.mod_one]
  | succ n ih =>
    simp only [leBytes, leNat, ih, BitVec.toNat_ofNat]
    have h : v % (256 * 256 ^ n) = v % 256 + 256 * (v / 256 % 256 ^ n) := Nat.mod_mul
    rw [Nat.pow_succ 256, Nat.mul_comm (256 ^ n), h]
theorem leNat_lt (l : List Byte) : leNat l < 256 ^ l.length := by
  induction l with
  | nil => simp [leNat]
  | cons b l ih =>
    have := b.isLt
    simp only [leNat, List.length_cons, Nat.pow_succ]
    omega

/-! ### Writes -/

/-- A byte after bytes are written. -/
theorem get_writeBytes (m : Memory) (loc : Nat) (l : List Byte) (a : Nat) :
    Tbl.get 0#8 (writeBytes m loc l) a = if loc ≤ a ∧ a < loc + l.length then l.getD (a - loc) 0#8 else Tbl.get 0#8 m a := by
  induction l generalizing m loc with
  | nil => simp [writeBytes]
  | cons b l ih =>
    rw [writeBytes, ih, get_put]
    by_cases h : a = loc
    · subst h; simp
    · by_cases h1 : loc + 1 ≤ a ∧ a < loc + 1 + l.length
      · have h2 : loc ≤ a ∧ a < loc + (b :: l).length := by simp; omega
        have : a - loc = (a - (loc + 1)) + 1 := by omega
        rw [if_pos h1, if_pos h2, this]
        simp
      · have h2 : ¬ (loc ≤ a ∧ a < loc + (b :: l).length) := by simp; omega
        rw [if_neg h1, if_neg h2, if_neg h]
/-- Writing bytes keeps the canonical form. -/
theorem wf_writeBytes {m : Memory} (h : m.wf = true) (loc : Nat) (l : List Byte) : Memory.wf (writeBytes m loc l) = true := by
  induction l generalizing m loc with
  | nil => exact h
  | cons b l ih => exact ih (wf_put _ h _ _) _

/-- Only the poison marks and the uncorrectable errors change. -/
theorem clearPoison_eq (s : State) (loc n : Nat) : ∃ p b, s.clearPoison loc n = { s with poison := p, bad := b } := by
  unfold State.clearPoison
  generalize wholeWords16 loc n = l
  induction l generalizing s with
  | nil => exact ⟨_, _, rfl⟩
  | cons w l ih => exact ih _
theorem poisonBad_eq (s : State) (loc n : Nat) : ∃ p b, s.poisonBad loc n = { s with poison := p, bad := b } := by
  unfold State.poisonBad
  generalize words16 loc n = l
  induction l generalizing s with
  | nil => exact ⟨_, _, rfl⟩
  | cons w l ih =>
    rw [List.foldl_cons]
    by_cases h : Tbl.get 0 s.bad w ≠ 0
    · rw [if_pos h]
      exact ih _
    · rw [if_neg h]
      exact ih _
/-- Only the dies' monitors change. -/
theorem disarm_eq (s : State) (loc n : Nat) : ∃ d, s.disarm loc n = { s with dies := d } := by
  unfold State.disarm
  split
  · exact ⟨_, rfl⟩
  · exact ⟨_, rfl⟩
/-- What a write that performs at the home changes: the bytes, the poison marks, the monitors, what the fabric is given, what is under way
to copies on this device, and what a later count may notify. -/
theorem store_eq (s : State) (loc : Nat) (l : List Byte) : ∃ p b d f c n,
    s.store loc l = { s with mem := writeBytes s.mem loc l, poison := p, bad := b, dies := d, flitsOut := f, casting := c, notified := n } := by
  unfold State.store
  split
  · rename_i h
    subst h
    exact ⟨_, _, _, _, _, _, rfl⟩
  · obtain ⟨p, b, h1⟩ := clearPoison_eq { s with mem := writeBytes s.mem loc l } loc l.length
    simp only [h1]
    obtain ⟨d, h2⟩ := disarm_eq { s with mem := writeBytes s.mem loc l, poison := p, bad := b } loc l.length
    rw [h2]
    exact ⟨_, _, _, _, _, _, rfl⟩
@[simp] theorem mem_store (s : State) (loc : Nat) (l : List Byte) : (s.store loc l).mem = writeBytes s.mem loc l := by
  obtain ⟨_, _, _, _, _, _, h⟩ := store_eq s loc l
  rw [h]
/-- A byte after a write at the home. -/
theorem byte_store (s : State) (loc : Nat) (l : List Byte) (a : Nat) :
    (s.store loc l).byte a = if loc ≤ a ∧ a < loc + l.length then l.getD (a - loc) 0#8 else s.byte a := by
  rw [State.byte, mem_store, get_writeBytes]
  rfl
/-- A write at the home keeps the canonical form. -/
theorem wf_store {s : State} (h : MemoryCanonical s) (loc : Nat) (l : List Byte) : MemoryCanonical (s.store loc l) := by
  rw [MemoryCanonical, mem_store]
  exact wf_writeBytes h loc l
@[simp] theorem block_store (s : State) (loc : Nat) (l : List Byte) (n : Nat) : (s.store loc l).block n = s.block n := by
  obtain ⟨_, _, _, _, _, _, h⟩ := store_eq s loc l
  rw [h]
  rfl
@[simp] theorem core_store (s : State) (loc : Nat) (l : List Byte) (n : Nat) : (s.store loc l).core n = s.core n := by
  obtain ⟨_, _, _, _, _, _, h⟩ := store_eq s loc l
  rw [h]
  rfl
@[simp] theorem ctx_store (s : State) (loc : Nat) (l : List Byte) (n : Nat) : (s.store loc l).ctx n = s.ctx n := by
  obtain ⟨_, _, _, _, _, _, h⟩ := store_eq s loc l
  rw [h]
  rfl
@[simp] theorem cur_store (s : State) (loc : Nat) (l : List Byte) : (s.store loc l).cur = s.cur := by
  obtain ⟨_, _, _, _, _, _, h⟩ := store_eq s loc l
  rw [h]

end Sys2Proof.Laws
end

