-- ==== Sys2Proof/Laws/Frames.lean ====
section
/-! SUPPORT. Which fields of the state the shared operations of accesses and of fetching can change: one relation, which composes, and one
lemma for each operation, which the proofs cite in place of unfolding them. -/

namespace Sys2Proof.Laws

open Sys2Proof Sys2Proof.Machine

/-- What accesses can change: memory with its marks and monitors, what writes hand to the fabric, the cores, the dies, the counted requests
and the outstanding accesses to other devices. Every other field is as before. -/
def AccessFrame (s t : State) : Prop :=
  ∃ m p b f c n x d k r, t = { s with mem := m, poison := p, bad := b, flitsOut := f, casting := c, notified := n, cores := x, dies := d, counts := k, remotes := r }

theorem AccessFrame.refl (s : State) : AccessFrame s s := ⟨_, _, _, _, _, _, _, _, _, _, rfl⟩
theorem AccessFrame.trans {s t u : State} (h1 : AccessFrame s t) (h2 : AccessFrame t u) : AccessFrame s u := by
  obtain ⟨_, _, _, _, _, _, _, _, _, _, rfl⟩ := h1
  obtain ⟨_, _, _, _, _, _, _, _, _, _, rfl⟩ := h2
  exact ⟨_, _, _, _, _, _, _, _, _, _, rfl⟩
/-- A fold of operations on accesses. -/
theorem AccessFrame.foldl {α : Type} {f : State → α → State} (hf : ∀ s x, AccessFrame s (f s x)) (l : List α) (s : State) :
    AccessFrame s (l.foldl f s) := by
  induction l generalizing s with
  | nil => exact .refl s
  | cons x l ih => exact (hf s x).trans (ih _)
/-- The blocks are as before, and so are the contexts, the cursor and the agenda. -/
theorem AccessFrame.kept {s t : State} (h : AccessFrame s t) :
    t.blocks = s.blocks ∧ t.ctxs = s.ctxs ∧ t.cur = s.cur ∧ t.agenda = s.agenda ∧ t.clock = s.clock ∧ t.off = s.off ∧ t.upsets = s.upsets := by
  obtain ⟨_, _, _, _, _, _, _, _, _, _, rfl⟩ := h
  exact ⟨rfl, rfl, rfl, rfl, rfl, rfl, rfl⟩
theorem AccessFrame.block {s t : State} (h : AccessFrame s t) (n : Nat) : t.block n = s.block n := by
  rw [State.block, h.kept.1]; rfl
theorem AccessFrame.ctx {s t : State} (h : AccessFrame s t) (n : Nat) : t.ctx n = s.ctx n := by
  rw [State.ctx, h.kept.2.1]; rfl

theorem modCore_frame (s : State) (c : Nat) (f : CoreSt → CoreSt) : AccessFrame s (s.modCore c f) := ⟨_, _, _, _, _, _, _, _, _, _, rfl⟩
theorem modDie_frame (s : State) (d : Nat) (f : Die → Die) : AccessFrame s (s.modDie d f) := ⟨_, _, _, _, _, _, _, _, _, _, rfl⟩
/-- A write that performs at the home. -/
theorem store_frame (s : State) (loc : Nat) (l : List Byte) : AccessFrame s (s.store loc l) := by
  obtain ⟨p, b, d, f, c, n, h⟩ := store_eq s loc l
  exact ⟨_, p, b, f, c, n, _, d, _, _, h⟩
/-- Runs of bytes stored at their home. -/
theorem storeRuns_frame (s : State) (l : List (Nat × List Byte)) : AccessFrame s (s.storeRuns l) :=
  AccessFrame.foldl (fun s (x : Nat × List Byte) => store_frame s x.1 x.2) l s
/-- Errors of a held line overwritten. -/
theorem clearHeld_frame (s : State) (loc n : Nat) : AccessFrame s (s.clearHeld loc n) := by
  unfold State.clearHeld
  refine .foldl (fun s w => ?_) _ s
  split
  · exact ⟨_, _, _, _, _, _, _, _, _, _, rfl⟩
  · exact .refl s
theorem writeBack_frame (s : State) (core line : Nat) : AccessFrame s (s.writeBack core line) := by
  unfold State.writeBack
  split
  · exact .refl s
  · exact (modCore_frame s core _).trans (storeRuns_frame _ _)
theorem fetchHome_frame (s : State) (loc : Nat) : AccessFrame s (s.fetchHome loc) := by
  unfold State.fetchHome
  split
  · exact .refl s
  · split
    · exact .refl s
    · exact writeBack_frame s _ _
/-- Private lines that a range touches, at their homes. -/
theorem fetchRange_frame (s : State) (loc n : Nat) : AccessFrame s (s.fetchRange loc n) := by
  unfold State.fetchRange
  refine .foldl (fun s i => ?_) _ s
  split
  · exact fetchHome_frame s _
  · exact .refl s
theorem ownLine_frame (s : State) (core loc : Nat) : AccessFrame s (s.ownLine core loc) := by
  unfold State.ownLine
  split
  · exact .refl s
  · exact modCore_frame s _ _
theorem storeBytes_frame (s : State) (core loc : Nat) (l : List Byte) : AccessFrame s (s.storeBytes core loc l) := by
  unfold State.storeBytes
  split
  · exact .refl s
  · split
    · split
      · refine (ownLine_frame s core loc).trans ?_
        dsimp only
        split
        · exact (clearHeld_frame _ _ _).trans (modCore_frame _ _ _)
        · exact (modCore_frame _ _ _).trans (store_frame _ _ _)
      · exact (modCore_frame s _ _).trans (store_frame _ _ _)
    · exact store_frame s _ _
theorem homeStore_frame (s : State) (core loc : Nat) (l : List Byte) : AccessFrame s (s.homeStore core loc l) := by
  unfold State.homeStore
  split
  · exact .refl s
  · exact ((fetchRange_frame s loc l.length).trans (modCore_frame _ _ _)).trans (store_frame _ _ _)
/-- A counted request. -/
theorem count_frame (s : State) (slot va : Nat) (pl : Place) : AccessFrame s (s.count slot va pl) := by
  unfold State.count; split
  · exact .refl s
  · exact ⟨_, _, _, _, _, _, _, _, _, _, rfl⟩
/-- Acknowledged accesses taken up. -/
theorem consume_frame (s : State) (ids : List Nat) : AccessFrame s (s.consume ids) := by
  unfold State.consume; split
  · exact .refl s
  · exact ⟨_, _, _, _, _, _, _, _, _, _, rfl⟩
/-- An acquire changes cores. -/
theorem acquire_frame (s : State) (core : Nat) (sc : Scope) : AccessFrame s (s.acquire core sc) := by
  cases sc <;> first | exact .refl s | exact modCore_frame s _ _
theorem acquires_frame (s : State) (core : Nat) (sc : Scope) (n : Nat) : AccessFrame s (s.acquires core sc n) := by
  induction n with
  | zero => exact .refl s
  | succ n ih => exact ih.trans (acquire_frame _ _ _)
/-- Held translations. -/
theorem remember_frame (s : State) (core : Nat) (l : List TlbEntry) : AccessFrame s (s.remember core l) := by
  unfold State.remember
  split
  · exact .refl s
  · exact (modCore_frame s _ _).trans (modDie_frame _ _ _)
/-- What a read leaves in the L1. -/
theorem afterLoad_frame (s : State) (core loc : Nat) (h : Hint) : AccessFrame s (s.afterLoad core loc h) := by
  unfold State.afterLoad
  split
  · exact .refl s
  · split
    · split
      · split
        · exact .refl s
        · exact modCore_frame s _ _
      · exact modCore_frame s _ _
    · exact .refl s
/-- A performed access, in the translation machinery. -/
theorem used_frame (s : State) (core : Nat) (pl : Place) : AccessFrame s (s.used core pl) := by
  unfold State.used
  split
  · exact .refl s
  · exact ((AccessFrame.foldl (fun s (e : TlbEntry) => fetchHome_frame s e.ptea) _ s).trans (remember_frame _ _ _)).trans (acquire_frame _ _ _)
/-- Performed accesses of an instruction. -/
theorem settled_frame (s : State) (p : Party) (l : List (Nat × Place × Nat)) : AccessFrame s (s.settled p l) := by
  unfold State.settled
  exact ((AccessFrame.foldl (fun s (x : Nat × Place × Nat) => used_frame s p.core x.2.1) l s).trans
    (AccessFrame.foldl (fun s (x : Nat × Place × Nat) => count_frame s p.slot x.1 x.2.1) _ _)).trans (consume_frame _ _)
/-- Bytes read by virtual address. -/
theorem virtRead_frame {s t : State} {p : Party} {va n : Nat} {l : List Byte} (h : s.virtRead p va n = .ok (l, t)) : AccessFrame s t := by
  unfold State.virtRead at h
  split at h
  · cases h
  · split at h
    · cases h
    · simp only [Except.ok.injEq, Prod.mk.injEq] at h
      rw [← h.2]
      exact (settled_frame s p _).trans (AccessFrame.foldl (fun s (x : Nat × Place × Nat) => afterLoad_frame s p.core x.2.1.loc .none) _ _)
/-- Bytes written by virtual address. -/
theorem virtWrite_frame {s t : State} {p : Party} {va : Nat} {bs : List Byte} (h : s.virtWrite p va bs = .ok t) : AccessFrame s t := by
  unfold State.virtWrite at h
  split at h
  · cases h
  · split at h
    · cases h
    · simp only [Except.ok.injEq] at h
      rw [← h]
      exact (settled_frame s p _).trans (AccessFrame.foldl (fun s (x : Nat × Place × List Byte) => storeBytes_frame s p.core x.2.1.loc x.2.2) _ _)
/-- A fetched thread instruction. -/
theorem fetchThread_frame {s t : State} {b : Block} {blk : Nat} {sys : Bool} {who : Nat} {pc : Addr} {w : W64}
    (h : s.fetchThread b blk sys who pc = .ok (w, t)) : AccessFrame s t := by
  unfold State.fetchThread at h
  split at h
  · cases h
  · rename_i pl _
    have h0 := used_frame s b.core pl
    dsimp only at h
    split at h
    · injection h with h; injection h with _ h; rw [← h]; exact h0
    · split at h
      · cases h
      · injection h with h; injection h with _ h
        rw [← h]
        have h1 : ∀ c : Bool, AccessFrame s (if c = true then s.used b.core pl else (s.used b.core pl).count b.slot pc.toNat pl) := by
          intro c
          cases c
          · exact h0.trans (count_frame _ _ _ _)
          · exact h0
        split
        · exact ((h1 _).trans (consume_frame _ _)).trans (modCore_frame _ _ _)
        · exact (h1 _).trans (consume_frame _ _)

end Sys2Proof.Laws
end

