-- ==== Sys2Proof/Laws/Invariant.lean ====
section
/-! SUPPORT. The shared operations keep the model's invariant: the canonical forms of memory and of the table of blocks, and whole lines
in every L1. -/

namespace Sys2Proof.Laws

open Sys2Proof Sys2Proof.Machine Sys2Proof.Safety
open Host (Outcome)

/-- The invariant is a matter of memory, the cores and the blocks alone. -/
theorem inv_congr {s t : State} (h : Invariant s) (hm : t.mem = s.mem) (hc : t.cores = s.cores) (hb : t.blocks = s.blocks) : Invariant t := by
  obtain ⟨h1, h2, h3⟩ := h
  refine ⟨?_, ?_, ?_⟩
  · rw [MemoryCanonical, hm]; exact h1
  · intro c l hl
    rw [State.core, hc] at hl
    exact h2 c l hl
  · rw [hb]; exact h3

/-- A fold of steps that keep the invariant. -/
theorem inv_foldl {α : Type} {f : State → α → State} (hf : ∀ {s : State}, Invariant s → ∀ x, Invariant (f s x)) (l : List α) {s : State}
    (h : Invariant s) : Invariant (l.foldl f s) := by
  induction l generalizing s with
  | nil => exact h
  | cons x l ih => exact ih (hf h x)

/-- A core's lines are whole. -/
def Whole (c : CoreSt) : Prop := ∀ l ∈ c.l1, l.data.length = 128

theorem whole_core {s : State} (h : Invariant s) (c : Nat) : Whole (s.core c) := h.2.1 c

theorem inv_modCore {s : State} (h : Invariant s) (c : Nat) {f : CoreSt → CoreSt} (hf : Whole (f (s.core c))) : Invariant (s.modCore c f) := by
  refine ⟨h.1, ?_, h.2.2⟩
  intro k l hl
  rw [core_modCore] at hl
  split at hl
  · exact hf l hl
  · exact h.2.1 k l hl
theorem inv_modBlock {s : State} (h : Invariant s) (n : Nat) (f : Block → Block) : Invariant (s.modBlock n f) :=
  ⟨by rw [MemoryCanonical, modBlock_mem]; exact h.1, fun c l hl => h.2.1 c l (by simpa using hl), blocks_wf_modBlock h.2.2 n f⟩
theorem inv_modThread {s : State} (h : Invariant s) (n tid : Nat) (f : Thread → Thread) : Invariant (s.modThread n tid f) := inv_modBlock h _ _
theorem inv_onLanes {s : State} (h : Invariant s) (f : Nat → Thread → Thread) : Invariant (s.onLanes f) := inv_modBlock h _ _
theorem inv_putBlock {s : State} (h : Invariant s) (n : Nat) (b : Option Block) : Invariant (s.putBlock n b) :=
  ⟨h.1, h.2.1, blocks_wf_putBlock h.2.2 n b⟩
/-- A change of every block. -/
theorem inv_mapBlocks {s : State} (h : Invariant s) (f : Block → Block) :
    Invariant { s with blocks := s.blocks.map fun e => (e.1, e.2.map f) } := by
  refine ⟨h.1, h.2.1, ?_⟩
  have := (wf_iff none s.blocks).mp h.2.2
  refine (wf_iff none _).mpr ⟨?_, ?_⟩
  · exact List.Pairwise.map _ (fun _ _ h => h) this.1
  · intro e he
    obtain ⟨x, hx, rfl⟩ := List.mem_map.mp he
    have := this.2 x hx
    simpa using this

/-! ### Lines -/

theorem whole_write {l : L1Line} (h : l.data.length = 128) (loc : Nat) (bs : List Byte) : (l.write loc bs).data.length = 128 := by
  simp [L1Line.write, h]
theorem whole_fill {c : CoreSt} (h : Whole c) (line : Nat) {data : List Byte} (hd : data.length = 128) (refs : BitVec 16) (dirty : Bool)
    (m : LineMark) : Whole (c.fill line data refs dirty m) := by
  have hr : ∀ l ∈ c.l1.filter (fun l => l.line != line), l.data.length = 128 := fun l hl => h l (List.mem_of_mem_filter hl)
  intro l hl
  unfold CoreSt.fill at hl
  dsimp only at hl
  split at hl
  · rcases List.mem_cons.mp hl with rfl | hl
    · exact hd
    · exact hr l hl
  · split at hl
    · exact hr l hl
    · rcases List.mem_cons.mp hl with rfl | hl
      · exact hd
      · exact hr l (List.mem_of_mem_filter hl)
theorem whole_map {c : CoreSt} (h : Whole c) {f : L1Line → L1Line} (hf : ∀ l, l.data.length = 128 → (f l).data.length = 128) (d : CoreSt)
    (hd : d.l1 = c.l1.map f) : Whole d := by
  intro l hl
  rw [hd] at hl
  obtain ⟨x, hx, rfl⟩ := List.mem_map.mp hl
  exact hf x (h x hx)
theorem whole_filter {c : CoreSt} (h : Whole c) {p : L1Line → Bool} (d : CoreSt) (hd : d.l1 = c.l1.filter p) : Whole d := by
  intro l hl
  rw [hd] at hl
  exact h l (List.mem_of_mem_filter hl)
theorem whole_same {c : CoreSt} (h : Whole c) (d : CoreSt) (hd : d.l1 = c.l1) : Whole d := by
  intro l hl
  rw [hd] at hl
  exact h l hl
@[simp] theorem length_lineBytes (s : State) (l : L1Line) (loc n : Nat) : (s.lineBytes l loc n).length = n := by simp [State.lineBytes]
@[simp] theorem length_bytes (s : State) (loc n : Nat) : (s.bytes loc n).length = n := by simp [State.bytes]
theorem whole_bumpVer {c : CoreSt} (h : Whole c) : Whole c.bumpVer := by
  unfold CoreSt.bumpVer
  dsimp only
  split
  · exact whole_map (c := { c with l1 := c.l1.filter (·.dirty) }) (whole_filter h _ rfl) (f := fun l => { l with tag := 0#8 })
      (fun _ hl => hl) _ rfl
  · exact h

/-! ### Memory -/

theorem inv_store {s : State} (h : Invariant s) (loc : Nat) (l : List Byte) : Invariant (s.store loc l) := by
  refine ⟨wf_store h.1 loc l, fun c x hx => h.2.1 c x (by simpa using hx), ?_⟩
  obtain ⟨_, _, _, _, _, _, e⟩ := store_eq s loc l
  rw [e]
  exact h.2.2
theorem inv_storeRuns {s : State} (h : Invariant s) (l : List (Nat × List Byte)) : Invariant (s.storeRuns l) :=
  inv_foldl (fun h _ => inv_store h _ _) _ h
theorem inv_clearHeld {s : State} (h : Invariant s) (loc n : Nat) : Invariant (s.clearHeld loc n) := by
  refine inv_foldl (fun h w => ?_) _ h
  split
  · exact inv_congr h rfl rfl rfl
  · exact h
theorem inv_poisonBad {s : State} (h : Invariant s) (loc n : Nat) : Invariant (s.poisonBad loc n) := by
  obtain ⟨_, _, e⟩ := poisonBad_eq s loc n
  rw [e]
  exact h
theorem inv_disarm {s : State} (h : Invariant s) (loc n : Nat) : Invariant (s.disarm loc n) := by
  obtain ⟨_, e⟩ := disarm_eq s loc n
  rw [e]
  exact h
theorem inv_afterLoad {s : State} (h : Invariant s) (core loc : Nat) (hint : Hint) : Invariant (s.afterLoad core loc hint) := by
  unfold State.afterLoad
  split
  · exact h
  · rename_i m _
    split
    · split
      · split
        · exact h
        · refine inv_modCore h _ (whole_map (f := fun x => if x.line == loc / 128 then { x with mark := m } else x) (whole_core h _) (fun x hx => ?_) _ rfl)
          split <;> exact hx
      · exact inv_modCore h _ (whole_fill (whole_core h _) _ (length_bytes _ _ _) _ _ _)
    · exact h
theorem inv_ownLine {s : State} (h : Invariant s) (core loc : Nat) : Invariant (s.ownLine core loc) := by
  unfold State.ownLine
  split
  · exact h
  · exact inv_modCore h _ (whole_fill (whole_core h _) _ (length_bytes _ _ _) _ _ _)
theorem whole_dropBtb {c : CoreSt} (h : Whole c) (loc n : Nat) : Whole (c.dropBtb loc n) := h
theorem inv_dropClean {s : State} (h : Invariant s) (core loc : Nat) : Invariant (s.dropClean core loc) :=
  inv_modCore h _ (whole_filter (whole_core h _) _ rfl)
theorem inv_storeBytes {s : State} (h : Invariant s) (core loc : Nat) (l : List Byte) : Invariant (s.storeBytes core loc l) := by
  have hw : ∀ (x : L1Line), x.data.length = 128 → (if x.line == loc / 128 then x.write loc l else x).data.length = 128 := by
    intro x hx
    split
    · exact whole_write hx _ _
    · exact hx
  have hd : ∀ (x : L1Line), x.data.length = 128 →
      (if x.line == loc / 128 then
        { x.write loc l with dirty := true, wr := (if x.dirty then x.wr else 0#128) ||| x.cover loc l.length } else x).data.length = 128 := by
    intro x hx
    split
    · exact whole_write hx _ _
    · exact hx
  unfold State.storeBytes
  split
  · exact h
  · split
    · split
      · have h1 := inv_ownLine h core loc
        dsimp only
        split
        · have h2 := inv_clearHeld h1 loc l.length
          exact inv_modCore h2 _ (whole_map (whole_core h2 _) hd _ rfl)
        · exact inv_store (inv_modCore h1 _ (whole_dropBtb (whole_core h1 _) _ _)) _ _
      · exact inv_store (inv_modCore h _ (whole_map (whole_core h _) hw _ rfl)) _ _
    · exact inv_store h _ _
theorem inv_writeBack {s : State} (h : Invariant s) (core line : Nat) : Invariant (s.writeBack core line) := by
  unfold State.writeBack
  split
  · exact h
  · rename_i l _
    refine inv_storeRuns (inv_modCore h _ (whole_map (f := fun x => if x.line == line && x.dirty then
      { x with dirty := false, wr := 0#128, data := s.lineBytes l (line * 128) 128, refs := s.lineRefs line } else x) (whole_core h _)
      (fun x hx => ?_) _ rfl)) _
    split
    · exact length_lineBytes _ _ _ _
    · exact hx
theorem inv_fetchHome {s : State} (h : Invariant s) (loc : Nat) : Invariant (s.fetchHome loc) := by
  unfold State.fetchHome
  split
  · exact h
  · split
    · exact h
    · exact inv_writeBack h _ _
theorem inv_fetchRange {s : State} (h : Invariant s) (loc n : Nat) : Invariant (s.fetchRange loc n) := by
  refine inv_foldl (fun h i => ?_) _ h
  split
  · exact inv_fetchHome h _
  · exact h
theorem inv_homeStore {s : State} (h : Invariant s) (core loc : Nat) (l : List Byte) : Invariant (s.homeStore core loc l) := by
  unfold State.homeStore
  split
  · exact h
  · have h1 := inv_fetchRange h loc l.length
    exact inv_store (inv_modCore h1 _ (whole_map (whole_core h1 _) (f := fun x => x.write loc l) (fun _ hx => whole_write hx _ _) _ rfl)) _ _
theorem inv_acquire {s : State} (h : Invariant s) (core : Nat) (sc : Scope) : Invariant (s.acquire core sc) := by
  cases sc <;> first | exact h | exact inv_modCore h _ (whole_bumpVer (whole_core h _))
theorem inv_acquires {s : State} (h : Invariant s) (core : Nat) (sc : Scope) (n : Nat) : Invariant (s.acquires core sc n) := by
  induction n with
  | zero => exact h
  | succ n ih => exact inv_acquire ih _ _
theorem inv_remember {s : State} (h : Invariant s) (core : Nat) (l : List TlbEntry) : Invariant (s.remember core l) := by
  unfold State.remember
  split
  · exact h
  · exact inv_congr (inv_modCore h core (f := fun c => { c with tlb := (l ++ c.tlb).take 256 }) (whole_core h _)) rfl rfl rfl
theorem inv_used {s : State} (h : Invariant s) (core : Nat) (pl : Place) : Invariant (s.used core pl) := by
  unfold State.used
  split
  · exact h
  · exact inv_acquire (inv_remember (inv_foldl (fun h e => inv_fetchHome h _) _ h) _ _) _ _
theorem inv_count {s : State} (h : Invariant s) (slot va : Nat) (pl : Place) : Invariant (s.count slot va pl) := by
  unfold State.count
  split <;> exact h
theorem inv_consume {s : State} (h : Invariant s) (ids : List Nat) : Invariant (s.consume ids) := by
  unfold State.consume
  split <;> exact h
theorem inv_found {s : State} (h : Invariant s) (f : Stop) : Invariant (s.found f) := by
  unfold State.found
  split
  · exact inv_poisonBad h _ _
  all_goals exact h

theorem inv_abandon {s : State} (h : Invariant s) (blk : Nat) (who : Nat → Bool) : Invariant (s.abandon blk who) := by
  unfold State.abandon
  split <;> exact h

/-! ### Accesses by virtual address -/

theorem inv_settled {s : State} (h : Invariant s) (p : Party) (l : List (Nat × Place × Nat)) : Invariant (s.settled p l) :=
  inv_consume (inv_foldl (fun h _ => inv_count h _ _ _) _ (inv_foldl (fun h _ => inv_used h _ _) _ h)) _
theorem inv_virtRead {s t : State} {p : Party} {va n : Nat} {l : List Byte} (h : Invariant s) (e : s.virtRead p va n = .ok (l, t)) : Invariant t := by
  unfold State.virtRead at e
  split at e
  · cases e
  · split at e
    · cases e
    · simp only [Except.ok.injEq, Prod.mk.injEq] at e
      rw [← e.2]
      exact inv_foldl (fun h _ => inv_afterLoad h _ _ _) _ (inv_settled h _ _)
theorem inv_storePieces {s : State} (h : Invariant s) (core : Nat) (l : List (Nat × Place × List Byte)) : Invariant (s.storePieces core l) :=
  inv_foldl (fun h _ => inv_storeBytes h _ _ _) _ h
theorem inv_virtWrite {s t : State} {p : Party} {va : Nat} {bs : List Byte} (h : Invariant s) (e : s.virtWrite p va bs = .ok t) : Invariant t := by
  unfold State.virtWrite at e
  split at e
  · cases e
  · split at e
    · cases e
    · simp only [Except.ok.injEq] at e
      rw [← e]
      exact inv_storePieces (inv_settled h _ _) _ _

end Sys2Proof.Laws
end

