-- ==== Sys2Proof/Laws/Homes.lean ====
section
/-! SUPPORT. What memory reads at its homes (09_memory_model.md R220) after the operations of reads and translations: the same, wherever every
line of an L1 is whole. -/

namespace Sys2Proof.Laws

open Sys2Proof Sys2Proof.Machine Sys2Proof.Safety

/-- The data of the dirty line of a number that an L1 holds, with the bytes of it that its core has written. -/
def dirtyData (c : CoreSt) (n : Nat) : Option (List Byte × BitVec 128) := (c.l1.find? fun l => l.line == n && l.dirty).map fun l => (l.data, l.wr)
/-- A byte that a core has written in a dirty line, or else the home's. -/
def dirtyByte (d : Option (List Byte × BitVec 128)) (i : Nat) (home : Byte) : Byte :=
  match d with
  | none => home
  | some (l, w) => if w.getLsbD i then l.getD i 0#8 else home

theorem homeKept_refl (s : State) : HomeKept s s := fun _ => rfl
theorem homeKept_trans {s t u : State} (h1 : HomeKept s t) (h2 : HomeKept t u) : HomeKept s u := fun a => (h2 a).trans (h1 a)
/-- A byte at its home: of a private line that its owner's L1 holds dirty, that one's. -/
theorem homeBytes_one (s : State) (a : Nat) : s.homeBytes a 1 = match if isScr a then 0 else Tbl.get 0 s.prv (a / 128) with
    | 0 => [s.byte a]
    | c + 1 => [dirtyByte (dirtyData (s.core c) (a / 128)) (a % 128) (s.byte a)] := by
  have e : s.homeBytes a 1 = [s.homeByte a] := rfl
  rw [e]
  unfold State.homeByte dirtyData
  generalize (if isScr a then 0 else Tbl.get 0 s.prv (a / 128)) = k
  cases k with
  | zero => rfl
  | succ c => dsimp only; split <;> rename_i h <;> simp only [h] <;> rfl
/-- Memory reads the same at its homes where the bytes, the ownership of lines and the dirty lines are the same. -/
theorem homeKept_of {s t : State} (hp : t.prv = s.prv) (hb : ∀ a, t.byte a = s.byte a)
    (hd : ∀ c n, dirtyData (t.core c) n = dirtyData (s.core c) n) : HomeKept s t := by
  intro a
  simp only [homeBytes_one, hp, hb, hd]
/-- A change of one core that keeps its dirty lines. -/
theorem homeKept_modCore (s : State) (c : Nat) {f : CoreSt → CoreSt} (hf : ∀ n, dirtyData (f (s.core c)) n = dirtyData (s.core c) n) :
    HomeKept s (s.modCore c f) := by
  refine homeKept_of rfl (fun _ => rfl) fun k n => ?_
  rw [core_modCore]
  split
  · rename_i h; subst h; exact hf n
  · rfl

/-- The dirty lines of an L1 with a line filled clean that had none of that number. -/
theorem dirtyData_fill {c : CoreSt} {line : Nat} (h : dirtyData c line = none) (data : List Byte) (refs : BitVec 16) (m : LineMark) (n : Nat) :
    dirtyData (c.fill line data refs false m) n = dirtyData c n := by
  have hl : ∀ x ∈ c.l1, x.line = line → x.dirty = false := by
    intro x hx e
    simp only [dirtyData, Option.map_eq_none_iff, List.find?_eq_none] at h
    simpa [e] using h x hx
  have hr : (c.l1.filter fun l => l.line != line).find? (fun l => l.line == n && l.dirty) = c.l1.find? fun l => l.line == n && l.dirty := by
    generalize c.l1 = l at hl
    induction l with
    | nil => rfl
    | cons x l ih =>
      have ih := ih fun y hy => hl y (List.mem_cons_of_mem _ hy)
      by_cases hx : x.line = line
      · simp [hx, ih, hl x List.mem_cons_self hx]
      · simp only [List.filter_cons, bne_iff_ne, ne_eq, hx, not_false_eq_true, if_true, List.find?_cons, ih]
  have hv : ∀ (v : L1Line) (l : List L1Line), (l.filter fun x => x.line != v.line || x.dirty).find? (fun l => l.line == n && l.dirty) =
      l.find? fun l => l.line == n && l.dirty := by
    intro v l
    induction l with
    | nil => rfl
    | cons x l ih =>
      cases hd : x.dirty
      · by_cases hx : x.line = v.line <;> simp [hx, hd, ih]
      · simp only [List.filter_cons, hd, Bool.or_true, if_true, List.find?_cons, ih]
  unfold dirtyData CoreSt.fill
  dsimp only
  split
  · simp only [List.find?_cons, Bool.and_false, hr]
  · split
    · simp only [hr]
    · simp only [List.find?_cons, Bool.and_false, hv, hr]
/-- A line that misses is not held dirty. -/
theorem dirtyData_of_miss {c : CoreSt} {loc : Nat} (h : c.hit loc = none) : dirtyData c (loc / 128) = none := by
  simp only [dirtyData, Option.map_eq_none_iff]
  unfold CoreSt.hit at h
  rw [List.find?_eq_none] at h ⊢
  intro x hx hc
  simp only [Bool.and_eq_true] at hc
  exact h x hx (by simp [hc.1, hc.2])
/-- A change of lines that keeps numbers, dirty marks and data. -/
theorem dirtyData_map {c d : CoreSt} {f : L1Line → L1Line} (hd : d.l1 = c.l1.map f)
    (hf : ∀ x, (f x).line = x.line ∧ (f x).dirty = x.dirty ∧ (f x).data = x.data ∧ (f x).wr = x.wr) (n : Nat) : dirtyData d n = dirtyData c n := by
  unfold dirtyData
  rw [hd, List.find?_map, Option.map_map]
  have e : ((fun l : L1Line => l.line == n && l.dirty) ∘ f) = fun l => l.line == n && l.dirty := by
    funext x; simp [(hf x).1, (hf x).2.1]
  have e2 : ((fun l : L1Line => (l.data, l.wr)) ∘ f) = fun l => (l.data, l.wr) := by funext x; simp [(hf x).2.2.1, (hf x).2.2.2]
  rw [e, e2]
theorem homeKept_afterLoad (s : State) (core loc : Nat) (h : Hint) : HomeKept s (s.afterLoad core loc h) := by
  unfold State.afterLoad
  split
  · exact homeKept_refl s
  · rename_i m _
    split
    · split
      · split
        · exact homeKept_refl s
        · refine homeKept_modCore s core (dirtyData_map (f := fun x => if x.line == loc / 128 then { x with mark := m } else x) rfl fun x => ?_)
          split <;> exact ⟨rfl, rfl, rfl, rfl⟩
      · rename_i hn
        exact homeKept_modCore s core fun n => dirtyData_fill (dirtyData_of_miss hn) _ _ _ n
    · exact homeKept_refl s
theorem dirtyData_bumpVer (c : CoreSt) (n : Nat) : dirtyData c.bumpVer n = dirtyData c n := by
  unfold CoreSt.bumpVer
  dsimp only
  split
  · unfold dirtyData
    generalize c.l1 = l
    induction l with
    | nil => rfl
    | cons x l ih =>
      cases hd : x.dirty
      · simpa [hd] using ih
      · by_cases hx : x.line = n
        · simp [hd, hx]
        · simpa [hd, hx] using ih
  · rfl
theorem homeKept_acquire (s : State) (core : Nat) (sc : Scope) : HomeKept s (s.acquire core sc) := by
  cases sc
  · exact homeKept_refl s
  · exact homeKept_refl s
  all_goals exact homeKept_modCore s core (dirtyData_bumpVer _)
theorem homeKept_remember (s : State) (core : Nat) (l : List TlbEntry) : HomeKept s (s.remember core l) := by
  unfold State.remember
  split
  · exact homeKept_refl s
  · exact homeKept_trans (homeKept_modCore s core (f := fun c => { c with tlb := (l ++ c.tlb).take 256 }) fun _ => rfl)
      (homeKept_of rfl (fun _ => rfl) fun _ _ => rfl)
/-! ### Write-backs -/

/-- What a run of bytes makes of the byte at a location. -/
def runAt (a : Nat) (v : Byte) (x : Nat × List Byte) : Byte := if x.1 ≤ a ∧ a < x.1 + x.2.length then x.2.getD (a - x.1) 0#8 else v
theorem byte_storeRuns (s : State) (l : List (Nat × List Byte)) (a : Nat) : (s.storeRuns l).byte a = l.foldl (runAt a) (s.byte a) := by
  unfold State.storeRuns
  induction l generalizing s with
  | nil => rfl
  | cons x l ih => rw [List.foldl_cons, ih, List.foldl_cons, byte_store]; rfl
@[simp] theorem core_storeRuns (s : State) (l : List (Nat × List Byte)) (c : Nat) : (s.storeRuns l).core c = s.core c := by
  unfold State.storeRuns
  induction l generalizing s with
  | nil => rfl
  | cons x l ih => rw [List.foldl_cons, ih, core_store]
@[simp] theorem prv_storeRuns (s : State) (l : List (Nat × List Byte)) : (s.storeRuns l).prv = s.prv := by
  obtain ⟨_, _, _, _, _, _, _, _, _, _, e⟩ := storeRuns_frame s l
  rw [e]
/-- The runs of a line hold the bytes that are written in it, each at its place. -/
theorem runs_at (l : List (Option Byte)) (base a : Nat) (v : Byte) :
    (dirtyRuns base l).foldl (runAt a) v = if base ≤ a then ((l[a - base]?).getD none).getD v else v := by
  induction l generalizing base v with
  | nil => simp [dirtyRuns]
  | cons x l ih =>
    have hs : ∀ v, (if base + 1 ≤ a then ((l[a - (base + 1)]?).getD none).getD v else v) =
        if base ≤ a then (if a = base then v else (((x :: l)[a - base]?).getD none).getD v) else v := by
      intro v
      by_cases h1 : base + 1 ≤ a
      · have e : a - base = a - (base + 1) + 1 := by omega
        rw [if_pos h1, if_pos (by omega), if_neg (by omega), e, List.getElem?_cons_succ]
      · by_cases h2 : a = base
        · rw [if_neg h1, if_pos (by omega), if_pos h2]
        · rw [if_neg h1, if_neg (by omega)]
    cases x with
    | none =>
      rw [dirtyRuns, ih, hs]
      by_cases h2 : a = base
      · subst h2; simp
      · simp [h2]
    | some b =>
      have hb : ∀ v, (if base ≤ a then (if a = base then b else (((some b :: l)[a - base]?).getD none).getD v) else v) =
          if base ≤ a then (((some b :: l)[a - base]?).getD none).getD v else v := by
        intro v
        by_cases h2 : a = base
        · subst h2; simp
        · simp [h2]
      rw [dirtyRuns, ← hb]
      rcases hr : dirtyRuns (base + 1) l with _ | ⟨⟨k, bs⟩, r⟩
      · have h0 := fun v => (hr ▸ ih (base + 1) v).trans (hs v)
        have h0 := h0 v
        simp only [List.foldl_nil] at h0
        simp only [List.foldl_cons, List.foldl_nil, runAt, List.length_singleton]
        by_cases h2 : a = base
        · subst h2; simp
        · by_cases h1 : base ≤ a
          · rw [if_neg (by omega), if_pos h1, if_neg h2]
            rw [if_pos h1, if_neg h2] at h0
            exact h0
          · rw [if_neg (by omega), if_neg h1]
      · have h0 := fun v => (hr ▸ ih (base + 1) v).trans (hs v)
        simp only [List.foldl_cons] at h0
        dsimp only
        split
        · rename_i hk
          subst hk
          rw [List.foldl_cons]
          by_cases h2 : a = base
          · subst h2
            have h3 := h0 b
            have e : runAt a b (a + 1, bs) = b := by rw [runAt, if_neg (by dsimp only; omega)]
            rw [e] at h3
            have e2 : runAt a v (a, b :: bs) = b := by rw [runAt, if_pos (by simp)]; simp
            rw [e2, h3]
            simp
          · have e : runAt a v (base, b :: bs) = runAt a v (base + 1, bs) := by
              unfold runAt
              by_cases h3 : base + 1 ≤ a ∧ a < base + 1 + bs.length
              · have e : a - base = a - (base + 1) + 1 := by omega
                rw [if_pos h3, if_pos (by simp; omega), e]
                simp
              · rw [if_neg h3, if_neg (by simp; omega)]
            rw [e, h0 v]
            simp [h2]
        · rw [List.foldl_cons, List.foldl_cons]
          by_cases h2 : a = base
          · subst h2
            have e : runAt a v (a, [b]) = b := by rw [runAt, if_pos (by simp)]; simp
            rw [e, h0 b]
            simp
          · have e : runAt a v (base, [b]) = v := by rw [runAt, if_neg (by simp; omega)]
            rw [e, h0 v]
            simp [h2]
/-- A byte after a write-back of a whole line: of those that the core has written, the core's. -/
theorem byte_runs (s : State) {l : L1Line} (h : l.data.length = 128) (a : Nat) :
    (s.storeRuns l.runs).byte a = if a / 128 = l.line then dirtyByte (some (l.data, l.wr)) (a % 128) (s.byte a) else s.byte a := by
  rw [byte_storeRuns, L1Line.runs, runs_at]
  by_cases ha : a / 128 = l.line
  · have h1 : a - 128 * l.line = a % 128 := by omega
    have h2 : a % 128 < l.data.length := by omega
    rw [if_pos (by omega), if_pos ha, h1]
    simp only [List.getElem?_mapIdx, List.getElem?_eq_getElem h2, Option.map_some, Option.getD_some, dirtyByte]
    cases l.wr.getLsbD (a % 128) <;> simp [List.getD_eq_getElem?_getD, h2]
  · rw [if_neg ha]
    split
    · have h3 : l.data.length ≤ a - 128 * l.line := by omega
      simp [List.getElem?_mapIdx, List.getElem?_eq_none h3]
    · rfl
/-- A private line comes to its home as its owner's L1 holds it. -/
theorem homeKept_fetchHome {s : State} (hw : L1LinesWhole s) (loc : Nat) : HomeKept s (s.fetchHome loc) := by
  unfold State.fetchHome
  split
  · exact homeKept_refl s
  · rename_i hs
    split
    · exact homeKept_refl s
    · rename_i c hc
      unfold State.writeBack
      split
      · exact homeKept_refl s
      · rename_i l hl
        have hlen : l.data.length = 128 := hw c l (List.mem_of_find?_eq_some hl)
        have hline : l.line = loc / 128 := by
          have := List.find?_some hl
          simp only [Bool.and_eq_true, beq_iff_eq] at this
          exact this.1
        intro a
        rw [homeBytes_one, homeBytes_one, prv_storeRuns, byte_runs _ hlen, hline, byte_modCore]
        simp only [core_storeRuns, core_modCore, modCore_prv]
        by_cases ha : a / 128 = loc / 128
        · have h1 : isScr a = false := by
            have h0 : ¬ scrBase ≤ loc := by simpa [isScr] using hs
            have h1 : ¬ scrBase ≤ a := by unfold scrBase at *; omega
            simpa [isScr] using h1
          have h4 : dirtyData (s.core c) (loc / 128) = some (l.data, l.wr) := by simp [dirtyData, hl]
          have h5 : ∀ d : CoreSt, d.l1 = ((s.core c).l1.map fun x => if x.line == loc / 128 && x.dirty then
              { x with dirty := false, wr := 0#128, data := s.lineBytes l (loc / 128 * 128) 128, refs := s.lineRefs (loc / 128) } else x) →
              dirtyData d (loc / 128) = none := by
            intro d hd
            simp only [dirtyData, Option.map_eq_none_iff, List.find?_eq_none, hd, List.mem_map]
            rintro y ⟨x, _, rfl⟩
            cases hd : x.dirty <;> by_cases hx : x.line = loc / 128 <;> simp [hd, hx]
          rw [ha, h1]
          simp only [Bool.false_eq_true, if_false, hc, if_true]
          rw [h4, h5 _ rfl]
          rfl
        · rw [if_neg ha]
          split
          · rfl
          · rename_i k _
            have h6 : ∀ d : CoreSt, d.l1 = ((s.core c).l1.map fun x => if x.line == loc / 128 && x.dirty then
                { x with dirty := false, wr := 0#128, data := s.lineBytes l (loc / 128 * 128) 128, refs := s.lineRefs (loc / 128) } else x) →
                dirtyData d (a / 128) = dirtyData (s.core c) (a / 128) := by
              intro d hd
              unfold dirtyData
              rw [hd]
              generalize (s.core c).l1 = m
              induction m with
              | nil => rfl
              | cons x m ih =>
                by_cases hx : x.line = loc / 128
                · have hn : x.line ≠ a / 128 := by omega
                  cases hd : x.dirty <;> simpa [hd, hx, hn, Ne.symm ha] using ih
                · have hb : (x.line == loc / 128) = false := by simpa using hx
                  simp only [List.map_cons, hb, Bool.false_and, Bool.false_eq_true, if_false, List.find?_cons]
                  split
                  · rfl
                  · exact ih
            split
            · rename_i hk
              subst hk
              rw [h6 _ rfl]
            · rfl

/-- Every line of an L1 is still whole once a private line has come to its home. -/
theorem whole_fetchHome {s : State} (hw : L1LinesWhole s) (loc : Nat) : L1LinesWhole (s.fetchHome loc) := by
  unfold State.fetchHome
  split
  · exact hw
  · split
    · exact hw
    · unfold State.writeBack
      split
      · exact hw
      · intro c l hl
        simp only [core_storeRuns, core_modCore] at hl
        split at hl
        · obtain ⟨x, hx, rfl⟩ := List.mem_map.mp hl
          have := hw _ x hx
          split
          · exact length_lineBytes _ _ _ _
          · exact this
        · exact hw c l hl
theorem homeKept_used {s : State} (hw : L1LinesWhole s) (core : Nat) (pl : Place) : HomeKept s (s.used core pl) := by
  have hf : ∀ (l : List TlbEntry) {s : State}, L1LinesWhole s → HomeKept s (l.foldl (fun s e => s.fetchHome e.ptea) s) := by
    intro l
    induction l with
    | nil => exact fun _ => homeKept_refl _
    | cons e l ih => exact fun h => homeKept_trans (homeKept_fetchHome h _) (ih (whole_fetchHome h _))
  unfold State.used
  split
  · exact homeKept_refl s
  · exact homeKept_trans (hf _ hw) (homeKept_trans (homeKept_remember _ _ _) (homeKept_acquire _ _ _))
theorem whole_used {s : State} (hw : L1LinesWhole s) (core : Nat) (pl : Place) : L1LinesWhole (s.used core pl) := by
  have hf : ∀ (l : List TlbEntry) {s : State}, L1LinesWhole s → L1LinesWhole (l.foldl (fun s e => s.fetchHome e.ptea) s) := by
    intro l
    induction l with
    | nil => exact fun h => h
    | cons e l ih => exact fun h => ih (whole_fetchHome h _)
  have hr : ∀ {s : State}, L1LinesWhole s → L1LinesWhole (s.remember core pl.read) := by
    intro s h
    unfold State.remember
    split
    · exact h
    · intro c l hl
      simp only [core_modDie, core_modCore] at hl
      split at hl
      · exact h _ l hl
      · exact h c l hl
  unfold State.used
  split
  · exact hw
  · intro c l hl
    have h1 := hr (hf pl.read hw)
    rw [State.acquire, core_modCore] at hl
    split at hl
    · exact whole_bumpVer (fun l hl => h1 core l hl) l hl
    · exact h1 c l hl
theorem homeKept_count (s : State) (slot va : Nat) (pl : Place) : HomeKept s (s.count slot va pl) := by
  unfold State.count
  split
  · exact homeKept_refl s
  · exact homeKept_of rfl (fun _ => rfl) fun _ _ => rfl
/-- What performed accesses leave in the translation machinery changes no byte at its home. -/
theorem homeKept_settled {s : State} (hw : L1LinesWhole s) (p : Party) (l : List (Nat × Place × Nat)) : HomeKept s (s.settled p l) := by
  have h1 : ∀ (l : List (Nat × Place × Nat)) {s : State}, L1LinesWhole s → HomeKept s (l.foldl (fun s x => s.used p.core x.2.1) s) := by
    intro l
    induction l with
    | nil => exact fun _ => homeKept_refl _
    | cons e l ih => exact fun h => homeKept_trans (homeKept_used h _ _) (ih (whole_used h _ _))
  have h2 : ∀ (l : List (Nat × Place × Nat)) (s : State), HomeKept s (l.foldl (fun s x => s.count p.slot x.1 x.2.1) s) := by
    intro l
    induction l with
    | nil => exact homeKept_refl
    | cons e l ih => exact fun s => homeKept_trans (homeKept_count s _ _ _) (ih _)
  have h3 : ∀ (s : State) (ids : List Nat), HomeKept s (s.consume ids) := by
    intro s ids
    unfold State.consume
    split
    · exact homeKept_refl s
    · exact homeKept_of rfl (fun _ => rfl) fun _ _ => rfl
  exact homeKept_trans (h1 l hw) (homeKept_trans (h2 _ _) (h3 _ _))
/-- A read by virtual address changes no byte at its home. -/
theorem homeKept_virtRead {s t : State} (hw : L1LinesWhole s) {p : Party} {va n : Nat} {l : List Byte} (h : s.virtRead p va n = .ok (l, t)) :
    HomeKept s t := by
  have hl : ∀ (l : List (Nat × Place × Nat)) (s : State), HomeKept s (l.foldl (fun s x => s.afterLoad p.core x.2.1.loc .none) s) := by
    intro l
    induction l with
    | nil => exact homeKept_refl
    | cons e l ih => exact fun s => homeKept_trans (homeKept_afterLoad s _ _ _) (ih _)
  unfold State.virtRead at h
  split at h
  · cases h
  · split at h
    · cases h
    · simp only [Except.ok.injEq, Prod.mk.injEq] at h
      rw [← h.2]
      exact homeKept_trans (homeKept_settled hw _ _) (hl _ _)

end Sys2Proof.Laws
end

