-- ==== Sys2Proof/Laws/PerInstr.lean ====
section
/-! SUPPORT. The encoder and the decoder agree, instruction by instruction: what a field of a word reads as, the parser of an opcode, and
one lemma for each constructor. -/

set_option linter.unusedSimpArgs false

namespace Sys2Proof.Laws

open Sys2Proof

/-! ### Fields of words -/

/-- Two bit vectors side by side. -/
def cat {w v : Nat} (x : BitVec w) (y : BitVec v) : BitVec (w + v) := x ++ y
@[simp] theorem cat_lo {w v : Nat} (x : BitVec w) (y : BitVec v) (i n : Nat) (h : i + n ≤ v) : (cat x y).extractLsb' i n = y.extractLsb' i n :=
  BitVec.extractLsb'_append_eq_of_add_le h
@[simp] theorem cat_hi {w v : Nat} (x : BitVec w) (y : BitVec v) (i n : Nat) (h : v ≤ i) : (cat x y).extractLsb' i n = x.extractLsb' (i - v) n :=
  BitVec.extractLsb'_append_eq_of_le h
theorem cat_bit (w v : Nat) (x : BitVec w) (y : BitVec v) (i : Nat) : (cat x y).getLsbD i = if i < v then y.getLsbD i else x.getLsbD (i - v) :=
  BitVec.getLsbD_append
@[simp] theorem bit_lo {w v : Nat} (x : BitVec w) (y : BitVec v) (i : Nat) (h : i < v) : (cat x y).getLsbD i = y.getLsbD i := by
  rw [cat_bit, if_pos h]
@[simp] theorem bit_hi {w v : Nat} (x : BitVec w) (y : BitVec v) (i : Nat) (h : v ≤ i) : (cat x y).getLsbD i = x.getLsbD (i - v) := by
  rw [cat_bit, if_neg (Nat.not_lt.mpr h)]
@[simp] theorem bit_ofBool (b : Bool) : (BitVec.ofBool b).getLsbD 0 = b := by cases b <;> rfl
@[simp] theorem guard_p (g : Guard) : g.code.extractLsb' 0 4 = g.p := by
  show (cat (BitVec.ofBool g.neg) g.p).extractLsb' 0 4 = g.p
  simp
@[simp] theorem guard_neg (g : Guard) : g.code.getLsbD 4 = g.neg := by
  show (cat (BitVec.ofBool g.neg) g.p).getLsbD 4 = g.neg
  simp [-BitVec.getLsbD_eq_getElem]

/-! ### Codes -/

@[simp] theorem scope_ofCode (x : Scope) : Scope.ofCode x.code = some x := by cases x <;> rfl
@[simp] theorem order_ofCode (x : Order) : Order.ofCode x.code = some x := by cases x <;> rfl
@[simp] theorem fence_ofCode (x : FenceKind) : FenceKind.ofCode x.code = some x := by cases x <;> rfl
@[simp] theorem rm_ofCode (x : Rm) : Rm.ofCode x.code = some x := by cases x <;> rfl
@[simp] theorem fty_ofCode (x : FTy) : FTy.ofCode x.code = some x := by cases x <;> rfl
@[simp] theorem ty_ofCode (x : Ty) : Ty.ofCode x.code = some x := by cases x <;> rfl
@[simp] theorem ovf_ofCode (x : Ovf) : Ovf.ofCode x.code = some x := by cases x <;> rfl
@[simp] theorem cond_ofCode (x : Cond) : Cond.ofCode x.code = some x := by cases x <;> rfl
@[simp] theorem fcond_ofCode (x : FCond) : FCond.ofCode x.code = some x := by cases x <;> rfl
@[simp] theorem sz_ofCode (x : Sz) : Sz.ofCode x.code = some x := by cases x <;> rfl
@[simp] theorem hint_ofCode (x : Hint) : Hint.ofCode x.code = some x := by cases x <;> rfl
@[simp] theorem brHint_ofCode (x : BrHint) : BrHint.ofCode x.code = some x := by cases x <;> rfl
@[simp] theorem shfl_ofCode (x : ShflMode) : ShflMode.ofCode x.code = some x := by cases x <;> rfl
@[simp] theorem seg_ofCode (x : Seg) : Seg.ofCode x.code = some x := by cases x <;> rfl
@[simp] theorem atom_ofCode (x : AtomOp) : AtomOp.ofCode x.code = some x := by cases x <;> rfl
@[simp] theorem special_ofCode (x : Special) : Special.ofCode x.code = some x := by cases x <;> rfl
@[simp] theorem sysReg_ofCode (x : SysReg) : SysReg.ofCode x.code = some x := by cases x <;> rfl
@[simp] theorem cacheTgt_ofCode (x : CacheTgt) : CacheTgt.ofCode x.code = some x := by cases x <;> rfl
@[simp] theorem accW_ofCode (x : AccW) : AccW.ofCode x.code = some x := by cases x <;> rfl
@[simp] theorem acqOf_code (x : Option Scope) : acqOf (acqCode x) = some x := by rcases x with _ | x <;> [rfl; cases x <;> rfl]
@[simp] theorem relOf_code (x : Option Scope) : relOf (relCode x) = some x := by rcases x with _ | x <;> [rfl; cases x <;> rfl]
@[simp] theorem halfOf_code (b : Bool) : halfOf (halfCode b) = some b := by cases b <;> rfl
@[simp] theorem cvOf_code (x : Option CopyCv) : cvOf (cvCode x) = some x := by
  rcases x with _ | ⟨a, b, c⟩
  · rfl
  · cases a <;> cases b <;> cases c <;> rfl
@[simp] theorem optReg_code (x : Option Reg) : optReg x.isSome (x.getD 0#8) = some x := by cases x <;> rfl

theorem field_of_bit {w s n : Nat} {x : BitVec w} (j : Nat) (h : (x.extractLsb' s n).getLsbD j = true) :
    (x.extractLsb' s n == 0#n) = false := by
  refine beq_false_of_ne fun e => ?_
  rw [e] at h; simp at h

/-! ### The parser of an opcode -/

theorem parse_00 (w : W64) (h : w.extractLsb' 56 8 = 0x00#8) : parseThread w = (decNop w) := by
  unfold parseThread; rw [h]; rfl
theorem parse_01 (w : W64) (h : w.extractLsb' 56 8 = 0x01#8) : parseThread w = (decAdd w) := by
  unfold parseThread; rw [h]; rfl
theorem parse_02 (w : W64) (h : w.extractLsb' 56 8 = 0x02#8) : parseThread w = (decSub w) := by
  unfold parseThread; rw [h]; rfl
theorem parse_03 (w : W64) (h : w.extractLsb' 56 8 = 0x03#8) : parseThread w = (decMul w) := by
  unfold parseThread; rw [h]; rfl
theorem parse_04 (w : W64) (h : w.extractLsb' 56 8 = 0x04#8) : parseThread w = (decMulh w) := by
  unfold parseThread; rw [h]; rfl
theorem parse_05 (w : W64) (h : w.extractLsb' 56 8 = 0x05#8) : parseThread w = (decMulw w) := by
  unfold parseThread; rw [h]; rfl
theorem parse_06 (w : W64) (h : w.extractLsb' 56 8 = 0x06#8) : parseThread w = (decMad w) := by
  unfold parseThread; rw [h]; rfl
theorem parse_07 (w : W64) (h : w.extractLsb' 56 8 = 0x07#8) : parseThread w = (decAnd w) := by
  unfold parseThread; rw [h]; rfl
theorem parse_08 (w : W64) (h : w.extractLsb' 56 8 = 0x08#8) : parseThread w = (decOr w) := by
  unfold parseThread; rw [h]; rfl
theorem parse_09 (w : W64) (h : w.extractLsb' 56 8 = 0x09#8) : parseThread w = (decXor w) := by
  unfold parseThread; rw [h]; rfl
theorem parse_0A (w : W64) (h : w.extractLsb' 56 8 = 0x0A#8) : parseThread w = (decAndn w) := by
  unfold parseThread; rw [h]; rfl
theorem parse_0B (w : W64) (h : w.extractLsb' 56 8 = 0x0B#8) : parseThread w = (decShl w) := by
  unfold parseThread; rw [h]; rfl
theorem parse_0C (w : W64) (h : w.extractLsb' 56 8 = 0x0C#8) : parseThread w = (decShr w) := by
  unfold parseThread; rw [h]; rfl
theorem parse_0D (w : W64) (h : w.extractLsb' 56 8 = 0x0D#8) : parseThread w = (decRot w) := by
  unfold parseThread; rw [h]; rfl
theorem parse_0E (w : W64) (h : w.extractLsb' 56 8 = 0x0E#8) : parseThread w = (decMin w) := by
  unfold parseThread; rw [h]; rfl
theorem parse_0F (w : W64) (h : w.extractLsb' 56 8 = 0x0F#8) : parseThread w = (decMax w) := by
  unfold parseThread; rw [h]; rfl
theorem parse_10 (w : W64) (h : w.extractLsb' 56 8 = 0x10#8) : parseThread w = (decAbs w) := by
  unfold parseThread; rw [h]; rfl
theorem parse_11 (w : W64) (h : w.extractLsb' 56 8 = 0x11#8) : parseThread w = (decClz w) := by
  unfold parseThread; rw [h]; rfl
theorem parse_12 (w : W64) (h : w.extractLsb' 56 8 = 0x12#8) : parseThread w = (decPopc w) := by
  unfold parseThread; rw [h]; rfl
theorem parse_13 (w : W64) (h : w.extractLsb' 56 8 = 0x13#8) : parseThread w = (decBrev w) := by
  unfold parseThread; rw [h]; rfl
theorem parse_14 (w : W64) (h : w.extractLsb' 56 8 = 0x14#8) : parseThread w = (decBfx w) := by
  unfold parseThread; rw [h]; rfl
theorem parse_15 (w : W64) (h : w.extractLsb' 56 8 = 0x15#8) : parseThread w = (decBfi w) := by
  unfold parseThread; rw [h]; rfl
theorem parse_16 (w : W64) (h : w.extractLsb' 56 8 = 0x16#8) : parseThread w = (decAddx w) := by
  unfold parseThread; rw [h]; rfl
theorem parse_17 (w : W64) (h : w.extractLsb' 56 8 = 0x17#8) : parseThread w = (decSubx w) := by
  unfold parseThread; rw [h]; rfl
theorem parse_18 (w : W64) (h : w.extractLsb' 56 8 = 0x18#8) : parseThread w = (decAdd64 w) := by
  unfold parseThread; rw [h]; rfl
theorem parse_19 (w : W64) (h : w.extractLsb' 56 8 = 0x19#8) : parseThread w = (decSub64 w) := by
  unfold parseThread; rw [h]; rfl
theorem parse_1A (w : W64) (h : w.extractLsb' 56 8 = 0x1A#8) : parseThread w = (decShl64 w) := by
  unfold parseThread; rw [h]; rfl
theorem parse_1B (w : W64) (h : w.extractLsb' 56 8 = 0x1B#8) : parseThread w = (decShr64 w) := by
  unfold parseThread; rw [h]; rfl
theorem parse_1C (w : W64) (h : w.extractLsb' 56 8 = 0x1C#8) : parseThread w = (decMul64 w) := by
  unfold parseThread; rw [h]; rfl
theorem parse_1D (w : W64) (h : w.extractLsb' 56 8 = 0x1D#8) : parseThread w = (decLea w) := by
  unfold parseThread; rw [h]; rfl
theorem parse_1E (w : W64) (h : w.extractLsb' 56 8 = 0x1E#8) : parseThread w = (decIdot4 w) := by
  unfold parseThread; rw [h]; rfl
theorem parse_1F (w : W64) (h : w.extractLsb' 56 8 = 0x1F#8) : parseThread w = (decIdot8 w) := by
  unfold parseThread; rw [h]; rfl
theorem parse_20 (w : W64) (h : w.extractLsb' 56 8 = 0x20#8) : parseThread w = (decAddi w) := by
  unfold parseThread; rw [h]; rfl
theorem parse_21 (w : W64) (h : w.extractLsb' 56 8 = 0x21#8) : parseThread w = (decAndi w) := by
  unfold parseThread; rw [h]; rfl
theorem parse_22 (w : W64) (h : w.extractLsb' 56 8 = 0x22#8) : parseThread w = (decOri w) := by
  unfold parseThread; rw [h]; rfl
theorem parse_23 (w : W64) (h : w.extractLsb' 56 8 = 0x23#8) : parseThread w = (decXori w) := by
  unfold parseThread; rw [h]; rfl
theorem parse_24 (w : W64) (h : w.extractLsb' 56 8 = 0x24#8) : parseThread w = (decShli w) := by
  unfold parseThread; rw [h]; rfl
theorem parse_25 (w : W64) (h : w.extractLsb' 56 8 = 0x25#8) : parseThread w = (decShri w) := by
  unfold parseThread; rw [h]; rfl
theorem parse_26 (w : W64) (h : w.extractLsb' 56 8 = 0x26#8) : parseThread w = (decMovi w) := by
  unfold parseThread; rw [h]; rfl
theorem parse_27 (w : W64) (h : w.extractLsb' 56 8 = 0x27#8) : parseThread w = (decMovih w) := by
  unfold parseThread; rw [h]; rfl
theorem parse_28 (w : W64) (h : w.extractLsb' 56 8 = 0x28#8) : parseThread w = (decCmpi w) := by
  unfold parseThread; rw [h]; rfl
theorem parse_29 (w : W64) (h : w.extractLsb' 56 8 = 0x29#8) : parseThread w = (decMuli w) := by
  unfold parseThread; rw [h]; rfl
theorem parse_30 (w : W64) (h : w.extractLsb' 56 8 = 0x30#8) : parseThread w = (decCmp w <|> decCmpFloat w) := by
  unfold parseThread; rw [h]; rfl
theorem parse_31 (w : W64) (h : w.extractLsb' 56 8 = 0x31#8) : parseThread w = (decPlog w) := by
  unfold parseThread; rw [h]; rfl
theorem parse_32 (w : W64) (h : w.extractLsb' 56 8 = 0x32#8) : parseThread w = (decP2d w) := by
  unfold parseThread; rw [h]; rfl
theorem parse_33 (w : W64) (h : w.extractLsb' 56 8 = 0x33#8) : parseThread w = (decD2p w) := by
  unfold parseThread; rw [h]; rfl
theorem parse_34 (w : W64) (h : w.extractLsb' 56 8 = 0x34#8) : parseThread w = (decSel w) := by
  unfold parseThread; rw [h]; rfl
theorem parse_40 (w : W64) (h : w.extractLsb' 56 8 = 0x40#8) : parseThread w = (decFadd w) := by
  unfold parseThread; rw [h]; rfl
theorem parse_41 (w : W64) (h : w.extractLsb' 56 8 = 0x41#8) : parseThread w = (decFsub w) := by
  unfold parseThread; rw [h]; rfl
theorem parse_42 (w : W64) (h : w.extractLsb' 56 8 = 0x42#8) : parseThread w = (decFmul w) := by
  unfold parseThread; rw [h]; rfl
theorem parse_43 (w : W64) (h : w.extractLsb' 56 8 = 0x43#8) : parseThread w = (decFma w) := by
  unfold parseThread; rw [h]; rfl
theorem parse_44 (w : W64) (h : w.extractLsb' 56 8 = 0x44#8) : parseThread w = (decFmin w) := by
  unfold parseThread; rw [h]; rfl
theorem parse_45 (w : W64) (h : w.extractLsb' 56 8 = 0x45#8) : parseThread w = (decFmax w) := by
  unfold parseThread; rw [h]; rfl
theorem parse_46 (w : W64) (h : w.extractLsb' 56 8 = 0x46#8) : parseThread w = (decFdot2 w) := by
  unfold parseThread; rw [h]; rfl
theorem parse_47 (w : W64) (h : w.extractLsb' 56 8 = 0x47#8) : parseThread w = (decFclass w) := by
  unfold parseThread; rw [h]; rfl
theorem parse_48 (w : W64) (h : w.extractLsb' 56 8 = 0x48#8) : parseThread w = (decFscale w) := by
  unfold parseThread; rw [h]; rfl
theorem parse_49 (w : W64) (h : w.extractLsb' 56 8 = 0x49#8) : parseThread w = (decFrnd w) := by
  unfold parseThread; rw [h]; rfl
theorem parse_50 (w : W64) (h : w.extractLsb' 56 8 = 0x50#8) : parseThread w = (decCvt w) := by
  unfold parseThread; rw [h]; rfl
theorem parse_51 (w : W64) (h : w.extractLsb' 56 8 = 0x51#8) : parseThread w = (decCvtf w) := by
  unfold parseThread; rw [h]; rfl
theorem parse_52 (w : W64) (h : w.extractLsb' 56 8 = 0x52#8) : parseThread w = (decQuant w) := by
  unfold parseThread; rw [h]; rfl
theorem parse_53 (w : W64) (h : w.extractLsb' 56 8 = 0x53#8) : parseThread w = (decDeq w) := by
  unfold parseThread; rw [h]; rfl
theorem parse_54 (w : W64) (h : w.extractLsb' 56 8 = 0x54#8) : parseThread w = (decAmax w) := by
  unfold parseThread; rw [h]; rfl
theorem parse_55 (w : W64) (h : w.extractLsb' 56 8 = 0x55#8) : parseThread w = (decPerm w) := by
  unfold parseThread; rw [h]; rfl
theorem parse_58 (w : W64) (h : w.extractLsb' 56 8 = 0x58#8) : parseThread w = (decRcp w) := by
  unfold parseThread; rw [h]; rfl
theorem parse_59 (w : W64) (h : w.extractLsb' 56 8 = 0x59#8) : parseThread w = (decRsqrt w) := by
  unfold parseThread; rw [h]; rfl
theorem parse_5A (w : W64) (h : w.extractLsb' 56 8 = 0x5A#8) : parseThread w = (decSqrt w) := by
  unfold parseThread; rw [h]; rfl
theorem parse_5B (w : W64) (h : w.extractLsb' 56 8 = 0x5B#8) : parseThread w = (decExp2 w) := by
  unfold parseThread; rw [h]; rfl
theorem parse_5C (w : W64) (h : w.extractLsb' 56 8 = 0x5C#8) : parseThread w = (decLog2 w) := by
  unfold parseThread; rw [h]; rfl
theorem parse_5D (w : W64) (h : w.extractLsb' 56 8 = 0x5D#8) : parseThread w = (decSin w) := by
  unfold parseThread; rw [h]; rfl
theorem parse_5E (w : W64) (h : w.extractLsb' 56 8 = 0x5E#8) : parseThread w = (decCos w) := by
  unfold parseThread; rw [h]; rfl
theorem parse_5F (w : W64) (h : w.extractLsb' 56 8 = 0x5F#8) : parseThread w = (decTanh w) := by
  unfold parseThread; rw [h]; rfl
theorem parse_60 (w : W64) (h : w.extractLsb' 56 8 = 0x60#8) : parseThread w = (decSigm w) := by
  unfold parseThread; rw [h]; rfl
theorem parse_61 (w : W64) (h : w.extractLsb' 56 8 = 0x61#8) : parseThread w = (decErf w) := by
  unfold parseThread; rw [h]; rfl
theorem parse_68 (w : W64) (h : w.extractLsb' 56 8 = 0x68#8) : parseThread w = (decMov w) := by
  unfold parseThread; rw [h]; rfl
theorem parse_69 (w : W64) (h : w.extractLsb' 56 8 = 0x69#8) : parseThread w = (decRds w) := by
  unfold parseThread; rw [h]; rfl
theorem parse_6A (w : W64) (h : w.extractLsb' 56 8 = 0x6A#8) : parseThread w = (decShfl w) := by
  unfold parseThread; rw [h]; rfl
theorem parse_70 (w : W64) (h : w.extractLsb' 56 8 = 0x70#8) : parseThread w = (decBr w) := by
  unfold parseThread; rw [h]; rfl
theorem parse_71 (w : W64) (h : w.extractLsb' 56 8 = 0x71#8) : parseThread w = (decBrx w) := by
  unfold parseThread; rw [h]; rfl
theorem parse_72 (w : W64) (h : w.extractLsb' 56 8 = 0x72#8) : parseThread w = (decCall w) := by
  unfold parseThread; rw [h]; rfl
theorem parse_73 (w : W64) (h : w.extractLsb' 56 8 = 0x73#8) : parseThread w = (decRet w) := by
  unfold parseThread; rw [h]; rfl
theorem parse_74 (w : W64) (h : w.extractLsb' 56 8 = 0x74#8) : parseThread w = (decBrc w) := by
  unfold parseThread; rw [h]; rfl
theorem parse_75 (w : W64) (h : w.extractLsb' 56 8 = 0x75#8) : parseThread w = (decReformDirect w <|> decReformIndirect w) := by
  unfold parseThread; rw [h]; rfl
theorem parse_76 (w : W64) (h : w.extractLsb' 56 8 = 0x76#8) : parseThread w = (decRejoin w) := by
  unfold parseThread; rw [h]; rfl
theorem parse_77 (w : W64) (h : w.extractLsb' 56 8 = 0x77#8) : parseThread w = (decBar w) := by
  unfold parseThread; rw [h]; rfl
theorem parse_78 (w : W64) (h : w.extractLsb' 56 8 = 0x78#8) : parseThread w = (decGate w) := by
  unfold parseThread; rw [h]; rfl
theorem parse_79 (w : W64) (h : w.extractLsb' 56 8 = 0x79#8) : parseThread w = (decExit w) := by
  unfold parseThread; rw [h]; rfl
theorem parse_7A (w : W64) (h : w.extractLsb' 56 8 = 0x7A#8) : parseThread w = (decTrap w) := by
  unfold parseThread; rw [h]; rfl
theorem parse_7B (w : W64) (h : w.extractLsb' 56 8 = 0x7B#8) : parseThread w = (decBrk w) := by
  unfold parseThread; rw [h]; rfl
theorem parse_80 (w : W64) (h : w.extractLsb' 56 8 = 0x80#8) : parseThread w = (decLd w) := by
  unfold parseThread; rw [h]; rfl
theorem parse_81 (w : W64) (h : w.extractLsb' 56 8 = 0x81#8) : parseThread w = (decSt w) := by
  unfold parseThread; rw [h]; rfl
theorem parse_82 (w : W64) (h : w.extractLsb' 56 8 = 0x82#8) : parseThread w = (decLdr w) := by
  unfold parseThread; rw [h]; rfl
theorem parse_83 (w : W64) (h : w.extractLsb' 56 8 = 0x83#8) : parseThread w = (decStr w) := by
  unfold parseThread; rw [h]; rfl
theorem parse_84 (w : W64) (h : w.extractLsb' 56 8 = 0x84#8) : parseThread w = (decPub w) := by
  unfold parseThread; rw [h]; rfl
theorem parse_85 (w : W64) (h : w.extractLsb' 56 8 = 0x85#8) : parseThread w = (decPref w) := by
  unfold parseThread; rw [h]; rfl
theorem parse_86 (w : W64) (h : w.extractLsb' 56 8 = 0x86#8) : parseThread w = (decTagld w) := by
  unfold parseThread; rw [h]; rfl
theorem parse_87 (w : W64) (h : w.extractLsb' 56 8 = 0x87#8) : parseThread w = (decObjinit w) := by
  unfold parseThread; rw [h]; rfl
theorem parse_88 (w : W64) (h : w.extractLsb' 56 8 = 0x88#8) : parseThread w = (decAtom w) := by
  unfold parseThread; rw [h]; rfl
theorem parse_89 (w : W64) (h : w.extractLsb' 56 8 = 0x89#8) : parseThread w = (decCas w) := by
  unfold parseThread; rw [h]; rfl
theorem parse_8A (w : W64) (h : w.extractLsb' 56 8 = 0x8A#8) : parseThread w = (decFence w) := by
  unfold parseThread; rw [h]; rfl
theorem parse_8B (w : W64) (h : w.extractLsb' 56 8 = 0x8B#8) : parseThread w = (decWait w) := by
  unfold parseThread; rw [h]; rfl
theorem parse_8C (w : W64) (h : w.extractLsb' 56 8 = 0x8C#8) : parseThread w = (decQpush w) := by
  unfold parseThread; rw [h]; rfl
theorem parse_8D (w : W64) (h : w.extractLsb' 56 8 = 0x8D#8) : parseThread w = (decQpop w) := by
  unfold parseThread; rw [h]; rfl
theorem parse_8E (w : W64) (h : w.extractLsb' 56 8 = 0x8E#8) : parseThread w = (decQszCnt w <|> decQszInit w <|> decQszFin w) := by
  unfold parseThread; rw [h]; rfl
theorem parse_90 (w : W64) (h : w.extractLsb' 56 8 = 0x90#8) : parseThread w = (decCpy w) := by
  unfold parseThread; rw [h]; rfl
theorem parse_91 (w : W64) (h : w.extractLsb' 56 8 = 0x91#8) : parseThread w = (decCpn w) := by
  unfold parseThread; rw [h]; rfl
theorem parse_92 (w : W64) (h : w.extractLsb' 56 8 = 0x92#8) : parseThread w = (decCwait w) := by
  unfold parseThread; rw [h]; rfl
theorem parse_93 (w : W64) (h : w.extractLsb' 56 8 = 0x93#8) : parseThread w = (decCstat w) := by
  unfold parseThread; rw [h]; rfl
theorem parse_94 (w : W64) (h : w.extractLsb' 56 8 = 0x94#8) : parseThread w = (decCabort w) := by
  unfold parseThread; rw [h]; rfl
theorem parse_95 (w : W64) (h : w.extractLsb' 56 8 = 0x95#8) : parseThread w = (decBarr w) := by
  unfold parseThread; rw [h]; rfl
theorem parse_96 (w : W64) (h : w.extractLsb' 56 8 = 0x96#8) : parseThread w = (decBarw w) := by
  unfold parseThread; rw [h]; rfl
theorem parse_97 (w : W64) (h : w.extractLsb' 56 8 = 0x97#8) : parseThread w = (decBari w) := by
  unfold parseThread; rw [h]; rfl
theorem parse_98 (w : W64) (h : w.extractLsb' 56 8 = 0x98#8) : parseThread w = (decWopen w) := by
  unfold parseThread; rw [h]; rfl
theorem parse_99 (w : W64) (h : w.extractLsb' 56 8 = 0x99#8) : parseThread w = (decWclose w) := by
  unfold parseThread; rw [h]; rfl
theorem parse_9A (w : W64) (h : w.extractLsb' 56 8 = 0x9A#8) : parseThread w = (decSubsc w) := by
  unfold parseThread; rw [h]; rfl
theorem parse_9B (w : W64) (h : w.extractLsb' 56 8 = 0x9B#8) : parseThread w = (decUnsubsc w) := by
  unfold parseThread; rw [h]; rfl
theorem parse_9C (w : W64) (h : w.extractLsb' 56 8 = 0x9C#8) : parseThread w = (decVwait w) := by
  unfold parseThread; rw [h]; rfl
theorem parse_9D (w : W64) (h : w.extractLsb' 56 8 = 0x9D#8) : parseThread w = (decKvref w <|> decKvrefClaim w) := by
  unfold parseThread; rw [h]; rfl
theorem parse_9E (w : W64) (h : w.extractLsb' 56 8 = 0x9E#8) : parseThread w = (decKvunref w) := by
  unfold parseThread; rw [h]; rfl
theorem parse_9F (w : W64) (h : w.extractLsb' 56 8 = 0x9F#8) : parseThread w = (decLaunch w) := by
  unfold parseThread; rw [h]; rfl
theorem parse_A0 (w : W64) (h : w.extractLsb' 56 8 = 0xA0#8) : parseThread w = (decAccld w) := by
  unfold parseThread; rw [h]; rfl
theorem parse_A1 (w : W64) (h : w.extractLsb' 56 8 = 0xA1#8) : parseThread w = (decAccst w) := by
  unfold parseThread; rw [h]; rfl
theorem parse_A2 (w : W64) (h : w.extractLsb' 56 8 = 0xA2#8) : parseThread w = (decTbw w) := by
  unfold parseThread; rw [h]; rfl
theorem parse_A3 (w : W64) (h : w.extractLsb' 56 8 = 0xA3#8) : parseThread w = (decTba w) := by
  unfold parseThread; rw [h]; rfl
theorem parse_C0 (w : W64) (h : w.extractLsb' 56 8 = 0xC0#8) : parseThread w = (decSysr w) := by
  unfold parseThread; rw [h]; rfl
theorem parse_C1 (w : W64) (h : w.extractLsb' 56 8 = 0xC1#8) : parseThread w = (decSysw w) := by
  unfold parseThread; rw [h]; rfl
theorem parse_C2 (w : W64) (h : w.extractLsb' 56 8 = 0xC2#8) : parseThread w = (decEret w) := by
  unfold parseThread; rw [h]; rfl
theorem parse_C3 (w : W64) (h : w.extractLsb' 56 8 = 0xC3#8) : parseThread w = (decTlbiAll w <|> decTlbiAsid w <|> decTlbiVa w) := by
  unfold parseThread; rw [h]; rfl
theorem parse_C4 (w : W64) (h : w.extractLsb' 56 8 = 0xC4#8) : parseThread w = (decCflush w <|> decCflushAll w) := by
  unfold parseThread; rw [h]; rfl
theorem parse_C5 (w : W64) (h : w.extractLsb' 56 8 = 0xC5#8) : parseThread w = (decCinval w) := by
  unfold parseThread; rw [h]; rfl
theorem parse_C6 (w : W64) (h : w.extractLsb' 56 8 = 0xC6#8) : parseThread w = (decIdle w) := by
  unfold parseThread; rw [h]; rfl
theorem parse_C7 (w : W64) (h : w.extractLsb' 56 8 = 0xC7#8) : parseThread w = (decDbgrRd w <|> decDbgrWr w) := by
  unfold parseThread; rw [h]; rfl
theorem parseS_00 (w : W32) (h : w.extractLsb' 26 6 = 0x00#6) : parseSlot .s w = (decKadd w) := by
  unfold parseSlot parseS; rw [h]; rfl
theorem parseS_01 (w : W32) (h : w.extractLsb' 26 6 = 0x01#6) : parseSlot .s w = (decKsub w) := by
  unfold parseSlot parseS; rw [h]; rfl
theorem parseS_02 (w : W32) (h : w.extractLsb' 26 6 = 0x02#6) : parseSlot .s w = (decKmul w) := by
  unfold parseSlot parseS; rw [h]; rfl
theorem parseS_03 (w : W32) (h : w.extractLsb' 26 6 = 0x03#6) : parseSlot .s w = (decKand w) := by
  unfold parseSlot parseS; rw [h]; rfl
theorem parseS_04 (w : W32) (h : w.extractLsb' 26 6 = 0x04#6) : parseSlot .s w = (decKor w) := by
  unfold parseSlot parseS; rw [h]; rfl
theorem parseS_05 (w : W32) (h : w.extractLsb' 26 6 = 0x05#6) : parseSlot .s w = (decKxor w) := by
  unfold parseSlot parseS; rw [h]; rfl
theorem parseS_06 (w : W32) (h : w.extractLsb' 26 6 = 0x06#6) : parseSlot .s w = (decKshl w) := by
  unfold parseSlot parseS; rw [h]; rfl
theorem parseS_07 (w : W32) (h : w.extractLsb' 26 6 = 0x07#6) : parseSlot .s w = (decKshr w) := by
  unfold parseSlot parseS; rw [h]; rfl
theorem parseS_08 (w : W32) (h : w.extractLsb' 26 6 = 0x08#6) : parseSlot .s w = (decKmin w) := by
  unfold parseSlot parseS; rw [h]; rfl
theorem parseS_09 (w : W32) (h : w.extractLsb' 26 6 = 0x09#6) : parseSlot .s w = (decKmax w) := by
  unfold parseSlot parseS; rw [h]; rfl
theorem parseS_0A (w : W32) (h : w.extractLsb' 26 6 = 0x0A#6) : parseSlot .s w = (decKaddi w) := by
  unfold parseSlot parseS; rw [h]; rfl
theorem parseS_0B (w : W32) (h : w.extractLsb' 26 6 = 0x0B#6) : parseSlot .s w = (decKmovi w) := by
  unfold parseSlot parseS; rw [h]; rfl
theorem parseS_0C (w : W32) (h : w.extractLsb' 26 6 = 0x0C#6) : parseSlot .s w = (decKcmp w) := by
  unfold parseSlot parseS; rw [h]; rfl
theorem parseS_0D (w : W32) (h : w.extractLsb' 26 6 = 0x0D#6) : parseSlot .s w = (decKsel w) := by
  unfold parseSlot parseS; rw [h]; rfl
theorem parseS_0E (w : W32) (h : w.extractLsb' 26 6 = 0x0E#6) : parseSlot .s w = (decKld w) := by
  unfold parseSlot parseS; rw [h]; rfl
theorem parseS_0F (w : W32) (h : w.extractLsb' 26 6 = 0x0F#6) : parseSlot .s w = (decKst w) := by
  unfold parseSlot parseS; rw [h]; rfl
theorem parseM_00 (w : W32) (h : w.extractLsb' 26 6 = 0x00#6) : parseSlot .m w = (decScfg w) := by
  unfold parseSlot parseM; rw [h]; rfl
theorem parseM_01 (w : W32) (h : w.extractLsb' 26 6 = 0x01#6) : parseSlot .m w = (decSbase w) := by
  unfold parseSlot parseM; rw [h]; rfl
theorem parseM_02 (w : W32) (h : w.extractLsb' 26 6 = 0x02#6) : parseSlot .m w = (decSadv w <|> decSadvB w) := by
  unfold parseSlot parseM; rw [h]; rfl
theorem parseM_03 (w : W32) (h : w.extractLsb' 26 6 = 0x03#6) : parseSlot .m w = (decSgbt w) := by
  unfold parseSlot parseM; rw [h]; rfl
theorem parseM_04 (w : W32) (h : w.extractLsb' 26 6 = 0x04#6) : parseSlot .m w = (decSropeAdj w <|> decSropeHalf w <|> decSropeOff w) := by
  unfold parseSlot parseM; rw [h]; rfl
theorem parseM_05 (w : W32) (h : w.extractLsb' 26 6 = 0x05#6) : parseSlot .m w = (decCbi w) := by
  unfold parseSlot parseM; rw [h]; rfl
theorem parseM_06 (w : W32) (h : w.extractLsb' 26 6 = 0x06#6) : parseSlot .m w = (decCbw w) := by
  unfold parseSlot parseM; rw [h]; rfl
theorem parseM_07 (w : W32) (h : w.extractLsb' 26 6 = 0x07#6) : parseSlot .m w = (decCbf w) := by
  unfold parseSlot parseM; rw [h]; rfl
theorem parseM_08 (w : W32) (h : w.extractLsb' 26 6 = 0x08#6) : parseSlot .m w = (decCbaF w <|> decCbaE w) := by
  unfold parseSlot parseM; rw [h]; rfl
theorem parseM_09 (w : W32) (h : w.extractLsb' 26 6 = 0x09#6) : parseSlot .m w = (decSscale w) := by
  unfold parseSlot parseM; rw [h]; rfl
theorem parseM_0A (w : W32) (h : w.extractLsb' 26 6 = 0x0A#6) : parseSlot .m w = (decSmask w) := by
  unfold parseSlot parseM; rw [h]; rfl
theorem parseX_00 (w : W32) (h : w.extractLsb' 26 6 = 0x00#6) : parseSlot .x w = (decXpush w) := by
  unfold parseSlot parseX; rw [h]; rfl
theorem parseX_01 (w : W32) (h : w.extractLsb' 26 6 = 0x01#6) : parseSlot .x w = (decXswap w) := by
  unfold parseSlot parseX; rw [h]; rfl
theorem parseX_02 (w : W32) (h : w.extractLsb' 26 6 = 0x02#6) : parseSlot .x w = (decXshift w) := by
  unfold parseSlot parseX; rw [h]; rfl
theorem parseX_03 (w : W32) (h : w.extractLsb' 26 6 = 0x03#6) : parseSlot .x w = (decXacc w) := by
  unfold parseSlot parseX; rw [h]; rfl
theorem parseX_04 (w : W32) (h : w.extractLsb' 26 6 = 0x04#6) : parseSlot .x w = (decXdrain w) := by
  unfold parseSlot parseX; rw [h]; rfl
theorem parseX_05 (w : W32) (h : w.extractLsb' 26 6 = 0x05#6) : parseSlot .x w = (decXmask w) := by
  unfold parseSlot parseX; rw [h]; rfl
theorem parseX_06 (w : W32) (h : w.extractLsb' 26 6 = 0x06#6) : parseSlot .x w = (decXmode w) := by
  unfold parseSlot parseX; rw [h]; rfl
theorem parseY_00 (w : W32) (h : w.extractLsb' 26 6 = 0x00#6) : parseSlot .y w = (decYadd w) := by
  unfold parseSlot parseY; rw [h]; rfl
theorem parseY_01 (w : W32) (h : w.extractLsb' 26 6 = 0x01#6) : parseSlot .y w = (decYmul w) := by
  unfold parseSlot parseY; rw [h]; rfl
theorem parseY_02 (w : W32) (h : w.extractLsb' 26 6 = 0x02#6) : parseSlot .y w = (decYrsc w) := by
  unfold parseSlot parseY; rw [h]; rfl
theorem parseY_03 (w : W32) (h : w.extractLsb' 26 6 = 0x03#6) : parseSlot .y w = (decYexp w) := by
  unfold parseSlot parseY; rw [h]; rfl
theorem parseY_04 (w : W32) (h : w.extractLsb' 26 6 = 0x04#6) : parseSlot .y w = (decYrmax w) := by
  unfold parseSlot parseY; rw [h]; rfl
theorem parseY_05 (w : W32) (h : w.extractLsb' 26 6 = 0x05#6) : parseSlot .y w = (decYrsum w) := by
  unfold parseSlot parseY; rw [h]; rfl
theorem parseY_06 (w : W32) (h : w.extractLsb' 26 6 = 0x06#6) : parseSlot .y w = (decYmov w) := by
  unfold parseSlot parseY; rw [h]; rfl
theorem parseY_07 (w : W32) (h : w.extractLsb' 26 6 = 0x07#6) : parseSlot .y w = (decYcvt w) := by
  unfold parseSlot parseY; rw [h]; rfl
theorem parseY_08 (w : W32) (h : w.extractLsb' 26 6 = 0x08#6) : parseSlot .y w = (decYtr w) := by
  unfold parseSlot parseY; rw [h]; rfl
theorem parseY_09 (w : W32) (h : w.extractLsb' 26 6 = 0x09#6) : parseSlot .y w = (decSmst w) := by
  unfold parseSlot parseY; rw [h]; rfl
theorem parseY_0A (w : W32) (h : w.extractLsb' 26 6 = 0x0A#6) : parseSlot .y w = (decSmrg w) := by
  unfold parseSlot parseY; rw [h]; rfl
theorem parseY_0B (w : W32) (h : w.extractLsb' 26 6 = 0x0B#6) : parseSlot .y w = (decYbarArv w <|> decYbarWt w) := by
  unfold parseSlot parseY; rw [h]; rfl
theorem parseC_00 (w : W32) (h : w.extractLsb' 26 6 = 0x00#6) : parseSlot .c w = (decCcpy w) := by
  unfold parseSlot parseC; rw [h]; rfl
theorem parseC_01 (w : W32) (h : w.extractLsb' 26 6 = 0x01#6) : parseSlot .c w = (decCcpn w <|> decCcpnRing w) := by
  unfold parseSlot parseC; rw [h]; rfl
theorem parseC_02 (w : W32) (h : w.extractLsb' 26 6 = 0x02#6) : parseSlot .c w = (decCgath w) := by
  unfold parseSlot parseC; rw [h]; rfl
theorem parseC_03 (w : W32) (h : w.extractLsb' 26 6 = 0x03#6) : parseSlot .c w = (decCscat w) := by
  unfold parseSlot parseC; rw [h]; rfl
theorem parseC_04 (w : W32) (h : w.extractLsb' 26 6 = 0x04#6) : parseSlot .c w = (decCcwt w) := by
  unfold parseSlot parseC; rw [h]; rfl
theorem parseF_00 (w : W32) (h : w.extractLsb' 26 6 = 0x00#6) : parseSlot .f w = (decFbr w) := by
  unfold parseSlot parseF; rw [h]; rfl
theorem parseF_01 (w : W32) (h : w.extractLsb' 26 6 = 0x01#6) : parseSlot .f w = (decFjmp w <|> decFjmpIndirect w) := by
  unfold parseSlot parseF; rw [h]; rfl
theorem parseF_02 (w : W32) (h : w.extractLsb' 26 6 = 0x02#6) : parseSlot .f w = (decFcall w) := by
  unfold parseSlot parseF; rw [h]; rfl
theorem parseF_03 (w : W32) (h : w.extractLsb' 26 6 = 0x03#6) : parseSlot .f w = (decFret w) := by
  unfold parseSlot parseF; rw [h]; rfl
theorem parseF_04 (w : W32) (h : w.extractLsb' 26 6 = 0x04#6) : parseSlot .f w = (decFloop w) := by
  unfold parseSlot parseF; rw [h]; rfl
theorem parseF_05 (w : W32) (h : w.extractLsb' 26 6 = 0x05#6) : parseSlot .f w = (decGret w) := by
  unfold parseSlot parseF; rw [h]; rfl
theorem parseF_06 (w : W32) (h : w.extractLsb' 26 6 = 0x06#6) : parseSlot .f w = (decFtrap w) := by
  unfold parseSlot parseF; rw [h]; rfl
theorem parseF_07 (w : W32) (h : w.extractLsb' 26 6 = 0x07#6) : parseSlot .f w = (decFbrk w) := by
  unfold parseSlot parseF; rw [h]; rfl
theorem parseF_08 (w : W32) (h : w.extractLsb' 26 6 = 0x08#6) : parseSlot .f w = (decFfence w) := by
  unfold parseSlot parseF; rw [h]; rfl
theorem parseF_09 (w : W32) (h : w.extractLsb' 26 6 = 0x09#6) : parseSlot .f w = (decFwait w) := by
  unfold parseSlot parseF; rw [h]; rfl

/-! ### Decoding -/

theorem decodeThread_of {w : W64} {i : Instr} {g : Guard} (hi : i.guard? = some g) (hw : i.wf = true) (hg : guardOf w = g)
    (hp : parseThread w = some i) : decodeThread w = .ok i := by
  unfold decodeThread
  rw [hg, hp]
  simp only [Instr.wf, Instr.guardOk, hi, Bool.and_eq_true, Bool.or_eq_true, beq_iff_eq] at hw
  by_cases hs : g.isSkip = true
  · simp only [hs, Bool.not_true, Bool.false_eq_true, false_or] at hw
    simp [hs, hw.1]
  · have : i.wf = true := by simp [Instr.wf, Instr.guardOk, hi, hw.2, hs]
    simp [hs, checked, this]
theorem decodeSlot_of {k : SlotClass} {w : W32} {i : Instr} (hw : i.wf = true) (hk : (k == .f && w.getLsbD 25) = false)
    (hp : parseSlot k w = some i) : decodeSlot k w = .ok i := by
  unfold decodeSlot
  rw [hk, hp, if_neg (by simp)]
  simp [checked, hw]
theorem idleStep_decodes (o : Header) : decodeEnc (encode (.idleStep o)) = .ok (.idleStep o) := by
  obtain ⟨dp, sc⟩ := o
  rcases sc with _ | sc
  · cases dp <;> rfl
  · cases dp <;> cases sc <;> rfl

namespace Encoding

/-- The words of a well-formed instruction decode to it. -/
def Statement (i : Instr) : Prop := i.wf = true → encode i ≠ .event → decodeEnc (encode i) = .ok i


theorem nop (g : Guard) : Statement (.nop g) := by
  intro h _
  show decodeThread (cat (cat 0x00#8 g.code) 0#51) = _
  refine decodeThread_of (g := g) rfl h ?_ ((parse_00 _ ?_).trans ?_)
  · simp [guardOf, -BitVec.getLsbD_eq_getElem]
  · simp [-BitVec.getLsbD_eq_getElem]
  · simp [decNop, guardOf, -BitVec.getLsbD_eq_getElem]
theorem add (o : R3) : Statement (.add o) := by
  intro h _
  show decodeThread (cat (cat (cat (cat (cat (cat 0x01#8 o.g.code) o.d) o.a) o.b) 0#8) 0#19) = _
  refine decodeThread_of (g := o.g) rfl h ?_ ((parse_01 _ ?_).trans ?_)
  · simp [guardOf, -BitVec.getLsbD_eq_getElem]
  · simp [-BitVec.getLsbD_eq_getElem]
  · simp [decAdd, guardOf, -BitVec.getLsbD_eq_getElem]
theorem sub (o : R3) : Statement (.sub o) := by
  intro h _
  show decodeThread (cat (cat (cat (cat (cat (cat 0x02#8 o.g.code) o.d) o.a) o.b) 0#8) 0#19) = _
  refine decodeThread_of (g := o.g) rfl h ?_ ((parse_02 _ ?_).trans ?_)
  · simp [guardOf, -BitVec.getLsbD_eq_getElem]
  · simp [-BitVec.getLsbD_eq_getElem]
  · simp [decSub, guardOf, -BitVec.getLsbD_eq_getElem]
theorem mul (o : R3) : Statement (.mul o) := by
  intro h _
  show decodeThread (cat (cat (cat (cat (cat (cat 0x03#8 o.g.code) o.d) o.a) o.b) 0#8) 0#19) = _
  refine decodeThread_of (g := o.g) rfl h ?_ ((parse_03 _ ?_).trans ?_)
  · simp [guardOf, -BitVec.getLsbD_eq_getElem]
  · simp [-BitVec.getLsbD_eq_getElem]
  · simp [decMul, guardOf, -BitVec.getLsbD_eq_getElem]
theorem mulh (o : R3f) : Statement (.mulh o) := by
  intro h _
  show decodeThread (cat (cat (cat (cat (cat (cat (cat 0x04#8 o.g.code) o.d) o.a) o.b) 0#8) 0#18) (BitVec.ofBool o.f)) = _
  refine decodeThread_of (g := o.g) rfl h ?_ ((parse_04 _ ?_).trans ?_)
  · simp [guardOf, -BitVec.getLsbD_eq_getElem]
  · simp [-BitVec.getLsbD_eq_getElem]
  · simp [decMulh, guardOf, -BitVec.getLsbD_eq_getElem]
theorem mulw (o : R3f) : Statement (.mulw o) := by
  intro h _
  show decodeThread (cat (cat (cat (cat (cat (cat (cat 0x05#8 o.g.code) o.d) o.a) o.b) 0#8) 0#18) (BitVec.ofBool o.f)) = _
  refine decodeThread_of (g := o.g) rfl h ?_ ((parse_05 _ ?_).trans ?_)
  · simp [guardOf, -BitVec.getLsbD_eq_getElem]
  · simp [-BitVec.getLsbD_eq_getElem]
  · simp [decMulw, guardOf, -BitVec.getLsbD_eq_getElem]
theorem mad (o : R4) : Statement (.mad o) := by
  intro h _
  show decodeThread (cat (cat (cat (cat (cat (cat 0x06#8 o.g.code) o.d) o.a) o.b) o.c) 0#19) = _
  refine decodeThread_of (g := o.g) rfl h ?_ ((parse_06 _ ?_).trans ?_)
  · simp [guardOf, -BitVec.getLsbD_eq_getElem]
  · simp [-BitVec.getLsbD_eq_getElem]
  · simp [decMad, guardOf, -BitVec.getLsbD_eq_getElem]
theorem and (o : R3) : Statement (.and o) := by
  intro h _
  show decodeThread (cat (cat (cat (cat (cat (cat 0x07#8 o.g.code) o.d) o.a) o.b) 0#8) 0#19) = _
  refine decodeThread_of (g := o.g) rfl h ?_ ((parse_07 _ ?_).trans ?_)
  · simp [guardOf, -BitVec.getLsbD_eq_getElem]
  · simp [-BitVec.getLsbD_eq_getElem]
  · simp [decAnd, guardOf, -BitVec.getLsbD_eq_getElem]
theorem or (o : R3) : Statement (.or o) := by
  intro h _
  show decodeThread (cat (cat (cat (cat (cat (cat 0x08#8 o.g.code) o.d) o.a) o.b) 0#8) 0#19) = _
  refine decodeThread_of (g := o.g) rfl h ?_ ((parse_08 _ ?_).trans ?_)
  · simp [guardOf, -BitVec.getLsbD_eq_getElem]
  · simp [-BitVec.getLsbD_eq_getElem]
  · simp [decOr, guardOf, -BitVec.getLsbD_eq_getElem]
theorem xor (o : R3) : Statement (.xor o) := by
  intro h _
  show decodeThread (cat (cat (cat (cat (cat (cat 0x09#8 o.g.code) o.d) o.a) o.b) 0#8) 0#19) = _
  refine decodeThread_of (g := o.g) rfl h ?_ ((parse_09 _ ?_).trans ?_)
  · simp [guardOf, -BitVec.getLsbD_eq_getElem]
  · simp [-BitVec.getLsbD_eq_getElem]
  · simp [decXor, guardOf, -BitVec.getLsbD_eq_getElem]
theorem andn (o : R3) : Statement (.andn o) := by
  intro h _
  show decodeThread (cat (cat (cat (cat (cat (cat 0x0A#8 o.g.code) o.d) o.a) o.b) 0#8) 0#19) = _
  refine decodeThread_of (g := o.g) rfl h ?_ ((parse_0A _ ?_).trans ?_)
  · simp [guardOf, -BitVec.getLsbD_eq_getElem]
  · simp [-BitVec.getLsbD_eq_getElem]
  · simp [decAndn, guardOf, -BitVec.getLsbD_eq_getElem]
theorem shl (o : R3) : Statement (.shl o) := by
  intro h _
  show decodeThread (cat (cat (cat (cat (cat (cat 0x0B#8 o.g.code) o.d) o.a) o.b) 0#8) 0#19) = _
  refine decodeThread_of (g := o.g) rfl h ?_ ((parse_0B _ ?_).trans ?_)
  · simp [guardOf, -BitVec.getLsbD_eq_getElem]
  · simp [-BitVec.getLsbD_eq_getElem]
  · simp [decShl, guardOf, -BitVec.getLsbD_eq_getElem]
theorem shr (o : R3f) : Statement (.shr o) := by
  intro h _
  show decodeThread (cat (cat (cat (cat (cat (cat (cat 0x0C#8 o.g.code) o.d) o.a) o.b) 0#8) 0#18) (BitVec.ofBool o.f)) = _
  refine decodeThread_of (g := o.g) rfl h ?_ ((parse_0C _ ?_).trans ?_)
  · simp [guardOf, -BitVec.getLsbD_eq_getElem]
  · simp [-BitVec.getLsbD_eq_getElem]
  · simp [decShr, guardOf, -BitVec.getLsbD_eq_getElem]
theorem rot (o : R3f) : Statement (.rot o) := by
  intro h _
  show decodeThread (cat (cat (cat (cat (cat (cat (cat 0x0D#8 o.g.code) o.d) o.a) o.b) 0#8) 0#18) (BitVec.ofBool o.f)) = _
  refine decodeThread_of (g := o.g) rfl h ?_ ((parse_0D _ ?_).trans ?_)
  · simp [guardOf, -BitVec.getLsbD_eq_getElem]
  · simp [-BitVec.getLsbD_eq_getElem]
  · simp [decRot, guardOf, -BitVec.getLsbD_eq_getElem]
theorem min (o : R3f) : Statement (.min o) := by
  intro h _
  show decodeThread (cat (cat (cat (cat (cat (cat (cat 0x0E#8 o.g.code) o.d) o.a) o.b) 0#8) 0#18) (BitVec.ofBool o.f)) = _
  refine decodeThread_of (g := o.g) rfl h ?_ ((parse_0E _ ?_).trans ?_)
  · simp [guardOf, -BitVec.getLsbD_eq_getElem]
  · simp [-BitVec.getLsbD_eq_getElem]
  · simp [decMin, guardOf, -BitVec.getLsbD_eq_getElem]
theorem max (o : R3f) : Statement (.max o) := by
  intro h _
  show decodeThread (cat (cat (cat (cat (cat (cat (cat 0x0F#8 o.g.code) o.d) o.a) o.b) 0#8) 0#18) (BitVec.ofBool o.f)) = _
  refine decodeThread_of (g := o.g) rfl h ?_ ((parse_0F _ ?_).trans ?_)
  · simp [guardOf, -BitVec.getLsbD_eq_getElem]
  · simp [-BitVec.getLsbD_eq_getElem]
  · simp [decMax, guardOf, -BitVec.getLsbD_eq_getElem]
theorem abs (o : R2f) : Statement (.abs o) := by
  intro h _
  show decodeThread (cat (cat (cat (cat (cat (cat (cat 0x10#8 o.g.code) o.d) o.a) 0#8) 0#8) 0#18) (BitVec.ofBool o.f)) = _
  refine decodeThread_of (g := o.g) rfl h ?_ ((parse_10 _ ?_).trans ?_)
  · simp [guardOf, -BitVec.getLsbD_eq_getElem]
  · simp [-BitVec.getLsbD_eq_getElem]
  · simp [decAbs, guardOf, -BitVec.getLsbD_eq_getElem]
theorem clz (o : R2) : Statement (.clz o) := by
  intro h _
  show decodeThread (cat (cat (cat (cat (cat (cat 0x11#8 o.g.code) o.d) o.a) 0#8) 0#8) 0#19) = _
  refine decodeThread_of (g := o.g) rfl h ?_ ((parse_11 _ ?_).trans ?_)
  · simp [guardOf, -BitVec.getLsbD_eq_getElem]
  · simp [-BitVec.getLsbD_eq_getElem]
  · simp [decClz, guardOf, -BitVec.getLsbD_eq_getElem]
theorem popc (o : R2) : Statement (.popc o) := by
  intro h _
  show decodeThread (cat (cat (cat (cat (cat (cat 0x12#8 o.g.code) o.d) o.a) 0#8) 0#8) 0#19) = _
  refine decodeThread_of (g := o.g) rfl h ?_ ((parse_12 _ ?_).trans ?_)
  · simp [guardOf, -BitVec.getLsbD_eq_getElem]
  · simp [-BitVec.getLsbD_eq_getElem]
  · simp [decPopc, guardOf, -BitVec.getLsbD_eq_getElem]
theorem brev (o : R2) : Statement (.brev o) := by
  intro h _
  show decodeThread (cat (cat (cat (cat (cat (cat 0x13#8 o.g.code) o.d) o.a) 0#8) 0#8) 0#19) = _
  refine decodeThread_of (g := o.g) rfl h ?_ ((parse_13 _ ?_).trans ?_)
  · simp [guardOf, -BitVec.getLsbD_eq_getElem]
  · simp [-BitVec.getLsbD_eq_getElem]
  · simp [decBrev, guardOf, -BitVec.getLsbD_eq_getElem]
theorem bfx (o : R3f) : Statement (.bfx o) := by
  intro h _
  show decodeThread (cat (cat (cat (cat (cat (cat (cat 0x14#8 o.g.code) o.d) o.a) o.b) 0#8) 0#18) (BitVec.ofBool o.f)) = _
  refine decodeThread_of (g := o.g) rfl h ?_ ((parse_14 _ ?_).trans ?_)
  · simp [guardOf, -BitVec.getLsbD_eq_getElem]
  · simp [-BitVec.getLsbD_eq_getElem]
  · simp [decBfx, guardOf, -BitVec.getLsbD_eq_getElem]
theorem bfi (o : R4) : Statement (.bfi o) := by
  intro h _
  show decodeThread (cat (cat (cat (cat (cat (cat 0x15#8 o.g.code) o.d) o.a) o.b) o.c) 0#19) = _
  refine decodeThread_of (g := o.g) rfl h ?_ ((parse_15 _ ?_).trans ?_)
  · simp [guardOf, -BitVec.getLsbD_eq_getElem]
  · simp [-BitVec.getLsbD_eq_getElem]
  · simp [decBfi, guardOf, -BitVec.getLsbD_eq_getElem]
theorem addx (o : CarryOp) : Statement (.addx o) := by
  intro h _
  show decodeThread (cat (cat (cat (cat (cat (cat (cat (cat (cat 0x16#8 o.g.code) o.d) o.a) o.b) 0#8) 0#10) o.co) (BitVec.ofBool o.ce)) o.cin) = _
  refine decodeThread_of (g := o.g) rfl h ?_ ((parse_16 _ ?_).trans ?_)
  · simp [guardOf, -BitVec.getLsbD_eq_getElem]
  · simp [-BitVec.getLsbD_eq_getElem]
  · simp [decAddx, guardOf, -BitVec.getLsbD_eq_getElem]
theorem subx (o : CarryOp) : Statement (.subx o) := by
  intro h _
  show decodeThread (cat (cat (cat (cat (cat (cat (cat (cat (cat 0x17#8 o.g.code) o.d) o.a) o.b) 0#8) 0#10) o.co) (BitVec.ofBool o.ce)) o.cin) = _
  refine decodeThread_of (g := o.g) rfl h ?_ ((parse_17 _ ?_).trans ?_)
  · simp [guardOf, -BitVec.getLsbD_eq_getElem]
  · simp [-BitVec.getLsbD_eq_getElem]
  · simp [decSubx, guardOf, -BitVec.getLsbD_eq_getElem]
theorem add64 (o : R3) : Statement (.add64 o) := by
  intro h _
  show decodeThread (cat (cat (cat (cat (cat (cat 0x18#8 o.g.code) o.d) o.a) o.b) 0#8) 0#19) = _
  refine decodeThread_of (g := o.g) rfl h ?_ ((parse_18 _ ?_).trans ?_)
  · simp [guardOf, -BitVec.getLsbD_eq_getElem]
  · simp [-BitVec.getLsbD_eq_getElem]
  · simp [decAdd64, guardOf, -BitVec.getLsbD_eq_getElem]
theorem sub64 (o : R3) : Statement (.sub64 o) := by
  intro h _
  show decodeThread (cat (cat (cat (cat (cat (cat 0x19#8 o.g.code) o.d) o.a) o.b) 0#8) 0#19) = _
  refine decodeThread_of (g := o.g) rfl h ?_ ((parse_19 _ ?_).trans ?_)
  · simp [guardOf, -BitVec.getLsbD_eq_getElem]
  · simp [-BitVec.getLsbD_eq_getElem]
  · simp [decSub64, guardOf, -BitVec.getLsbD_eq_getElem]
theorem shl64 (o : R3) : Statement (.shl64 o) := by
  intro h _
  show decodeThread (cat (cat (cat (cat (cat (cat 0x1A#8 o.g.code) o.d) o.a) o.b) 0#8) 0#19) = _
  refine decodeThread_of (g := o.g) rfl h ?_ ((parse_1A _ ?_).trans ?_)
  · simp [guardOf, -BitVec.getLsbD_eq_getElem]
  · simp [-BitVec.getLsbD_eq_getElem]
  · simp [decShl64, guardOf, -BitVec.getLsbD_eq_getElem]
theorem shr64 (o : R3f) : Statement (.shr64 o) := by
  intro h _
  show decodeThread (cat (cat (cat (cat (cat (cat (cat 0x1B#8 o.g.code) o.d) o.a) o.b) 0#8) 0#18) (BitVec.ofBool o.f)) = _
  refine decodeThread_of (g := o.g) rfl h ?_ ((parse_1B _ ?_).trans ?_)
  · simp [guardOf, -BitVec.getLsbD_eq_getElem]
  · simp [-BitVec.getLsbD_eq_getElem]
  · simp [decShr64, guardOf, -BitVec.getLsbD_eq_getElem]
theorem mul64 (o : R3) : Statement (.mul64 o) := by
  intro h _
  show decodeThread (cat (cat (cat (cat (cat (cat 0x1C#8 o.g.code) o.d) o.a) o.b) 0#8) 0#19) = _
  refine decodeThread_of (g := o.g) rfl h ?_ ((parse_1C _ ?_).trans ?_)
  · simp [guardOf, -BitVec.getLsbD_eq_getElem]
  · simp [-BitVec.getLsbD_eq_getElem]
  · simp [decMul64, guardOf, -BitVec.getLsbD_eq_getElem]
theorem lea (o : LeaOp) : Statement (.lea o) := by
  intro h _
  show decodeThread (cat (cat (cat (cat (cat (cat (cat (cat 0x1D#8 o.g.code) o.d) o.a) o.b) 0#8) 0#15) (BitVec.ofBool o.sx)) o.sh) = _
  refine decodeThread_of (g := o.g) rfl h ?_ ((parse_1D _ ?_).trans ?_)
  · simp [guardOf, -BitVec.getLsbD_eq_getElem]
  · simp [-BitVec.getLsbD_eq_getElem]
  · simp [decLea, guardOf, -BitVec.getLsbD_eq_getElem]
theorem idot4 (o : DotOp) : Statement (.idot4 o) := by
  intro h _
  show decodeThread (cat (cat (cat (cat (cat (cat (cat (cat (cat 0x1E#8 o.g.code) o.d) o.a) o.b) o.c) 0#16) (BitVec.ofBool o.sat)) (BitVec.ofBool o.sb)) (BitVec.ofBool o.sa)) = _
  refine decodeThread_of (g := o.g) rfl h ?_ ((parse_1E _ ?_).trans ?_)
  · simp [guardOf, -BitVec.getLsbD_eq_getElem]
  · simp [-BitVec.getLsbD_eq_getElem]
  · simp [decIdot4, guardOf, -BitVec.getLsbD_eq_getElem]
theorem idot8 (o : DotOp) : Statement (.idot8 o) := by
  intro h _
  show decodeThread (cat (cat (cat (cat (cat (cat (cat (cat (cat 0x1F#8 o.g.code) o.d) o.a) o.b) o.c) 0#16) (BitVec.ofBool o.sat)) (BitVec.ofBool o.sb)) (BitVec.ofBool o.sa)) = _
  refine decodeThread_of (g := o.g) rfl h ?_ ((parse_1F _ ?_).trans ?_)
  · simp [guardOf, -BitVec.getLsbD_eq_getElem]
  · simp [-BitVec.getLsbD_eq_getElem]
  · simp [decIdot8, guardOf, -BitVec.getLsbD_eq_getElem]
theorem addi (o : ImmOp) : Statement (.addi o) := by
  intro h _
  show decodeThread (cat (cat (cat (cat (cat 0x20#8 o.g.code) o.d) o.a) 0#3) o.imm) = _
  refine decodeThread_of (g := o.g) rfl h ?_ ((parse_20 _ ?_).trans ?_)
  · simp [guardOf, -BitVec.getLsbD_eq_getElem]
  · simp [-BitVec.getLsbD_eq_getElem]
  · simp [decAddi, guardOf, -BitVec.getLsbD_eq_getElem]
theorem andi (o : ImmOp) : Statement (.andi o) := by
  intro h _
  show decodeThread (cat (cat (cat (cat (cat 0x21#8 o.g.code) o.d) o.a) 0#3) o.imm) = _
  refine decodeThread_of (g := o.g) rfl h ?_ ((parse_21 _ ?_).trans ?_)
  · simp [guardOf, -BitVec.getLsbD_eq_getElem]
  · simp [-BitVec.getLsbD_eq_getElem]
  · simp [decAndi, guardOf, -BitVec.getLsbD_eq_getElem]
theorem ori (o : ImmOp) : Statement (.ori o) := by
  intro h _
  show decodeThread (cat (cat (cat (cat (cat 0x22#8 o.g.code) o.d) o.a) 0#3) o.imm) = _
  refine decodeThread_of (g := o.g) rfl h ?_ ((parse_22 _ ?_).trans ?_)
  · simp [guardOf, -BitVec.getLsbD_eq_getElem]
  · simp [-BitVec.getLsbD_eq_getElem]
  · simp [decOri, guardOf, -BitVec.getLsbD_eq_getElem]
theorem xori (o : ImmOp) : Statement (.xori o) := by
  intro h _
  show decodeThread (cat (cat (cat (cat (cat 0x23#8 o.g.code) o.d) o.a) 0#3) o.imm) = _
  refine decodeThread_of (g := o.g) rfl h ?_ ((parse_23 _ ?_).trans ?_)
  · simp [guardOf, -BitVec.getLsbD_eq_getElem]
  · simp [-BitVec.getLsbD_eq_getElem]
  · simp [decXori, guardOf, -BitVec.getLsbD_eq_getElem]
theorem shli (o : ShiftImm) : Statement (.shli o) := by
  intro h _
  show decodeThread (cat (cat (cat (cat (cat (cat (cat 0x24#8 o.g.code) o.d) o.a) 0#2) (BitVec.ofBool o.ar)) 0#27) o.n) = _
  refine decodeThread_of (g := o.g) rfl h ?_ ((parse_24 _ ?_).trans ?_)
  · simp [guardOf, -BitVec.getLsbD_eq_getElem]
  · simp [-BitVec.getLsbD_eq_getElem]
  · simp [decShli, guardOf, -BitVec.getLsbD_eq_getElem]
theorem shri (o : ShiftImm) : Statement (.shri o) := by
  intro h _
  show decodeThread (cat (cat (cat (cat (cat (cat (cat 0x25#8 o.g.code) o.d) o.a) 0#2) (BitVec.ofBool o.ar)) 0#27) o.n) = _
  refine decodeThread_of (g := o.g) rfl h ?_ ((parse_25 _ ?_).trans ?_)
  · simp [guardOf, -BitVec.getLsbD_eq_getElem]
  · simp [-BitVec.getLsbD_eq_getElem]
  · simp [decShri, guardOf, -BitVec.getLsbD_eq_getElem]
theorem movi (o : MoviOp) : Statement (.movi o) := by
  intro h _
  show decodeThread (cat (cat (cat (cat 0x26#8 o.g.code) o.d) 0#11) o.imm) = _
  refine decodeThread_of (g := o.g) rfl h ?_ ((parse_26 _ ?_).trans ?_)
  · simp [guardOf, -BitVec.getLsbD_eq_getElem]
  · simp [-BitVec.getLsbD_eq_getElem]
  · simp [decMovi, guardOf, -BitVec.getLsbD_eq_getElem]
theorem movih (o : MovihOp) : Statement (.movih o) := by
  intro h _
  show decodeThread (cat (cat (cat (cat (cat 0x27#8 o.g.code) o.d) o.a) 0#19) o.imm) = _
  refine decodeThread_of (g := o.g) rfl h ?_ ((parse_27 _ ?_).trans ?_)
  · simp [guardOf, -BitVec.getLsbD_eq_getElem]
  · simp [-BitVec.getLsbD_eq_getElem]
  · simp [decMovih, guardOf, -BitVec.getLsbD_eq_getElem]
theorem cmpi (o : CmpiOp) : Statement (.cmpi o) := by
  intro h _
  show decodeThread (cat (cat (cat (cat (cat (cat 0x28#8 o.g.code) o.pd) o.pe) o.a) o.cond.code) o.imm) = _
  refine decodeThread_of (g := o.g) rfl h ?_ ((parse_28 _ ?_).trans ?_)
  · simp [guardOf, -BitVec.getLsbD_eq_getElem]
  · simp [-BitVec.getLsbD_eq_getElem]
  · simp [decCmpi, guardOf, -BitVec.getLsbD_eq_getElem]
theorem muli (o : ImmOp) : Statement (.muli o) := by
  intro h _
  show decodeThread (cat (cat (cat (cat (cat 0x29#8 o.g.code) o.d) o.a) 0#3) o.imm) = _
  refine decodeThread_of (g := o.g) rfl h ?_ ((parse_29 _ ?_).trans ?_)
  · simp [guardOf, -BitVec.getLsbD_eq_getElem]
  · simp [-BitVec.getLsbD_eq_getElem]
  · simp [decMuli, guardOf, -BitVec.getLsbD_eq_getElem]
theorem cmp (o : CmpOp) : Statement (.cmp o) := by
  intro h _
  show decodeThread (cat (cat (cat (cat (cat (cat (cat 0x30#8 o.g.code) o.pd) o.pe) o.a) o.b) 0#24) o.cond.code) = _
  refine decodeThread_of (g := o.g) rfl h ?_ ((parse_30 _ ?_).trans ?_)
  · simp [guardOf, -BitVec.getLsbD_eq_getElem]
  · simp [-BitVec.getLsbD_eq_getElem]
  · simp [decCmp, decCmpFloat, guardOf, -BitVec.getLsbD_eq_getElem]
theorem cmpFloat (o : CmpFOp) : Statement (.cmpFloat o) := by
  intro h _
  show decodeThread (cat (cat (cat (cat (cat (cat (cat (cat (cat (cat (cat 0x30#8 o.g.code) o.pd) o.pe) o.a) o.b) 0#10) o.ty.code) 0#10) (BitVec.ofBool o.hs)) 1#1) o.cond.code) = _
  refine decodeThread_of (g := o.g) rfl h ?_ ((parse_30 _ ?_).trans ?_)
  · simp [guardOf, -BitVec.getLsbD_eq_getElem]
  · simp [-BitVec.getLsbD_eq_getElem]
  · unfold decCmp decCmpFloat
    rw [field_of_bit 0]
    · simp [guardOf, slotOf, -BitVec.getLsbD_eq_getElem]
    · simp [-BitVec.getLsbD_eq_getElem]
theorem plog (o : PlogOp) : Statement (.plog o) := by
  intro h _
  show decodeThread (cat (cat (cat (cat (cat (cat (cat (cat (cat 0x31#8 o.g.code) o.pd) o.pe) 0#4) o.pa) 0#4) o.pb) 0#23) o.tt) = _
  refine decodeThread_of (g := o.g) rfl h ?_ ((parse_31 _ ?_).trans ?_)
  · simp [guardOf, -BitVec.getLsbD_eq_getElem]
  · simp [-BitVec.getLsbD_eq_getElem]
  · simp [decPlog, guardOf, -BitVec.getLsbD_eq_getElem]
theorem p2d (o : P2dOp) : Statement (.p2d o) := by
  intro h _
  show decodeThread (cat (cat (cat 0x32#8 o.g.code) o.d) 0#43) = _
  refine decodeThread_of (g := o.g) rfl h ?_ ((parse_32 _ ?_).trans ?_)
  · simp [guardOf, -BitVec.getLsbD_eq_getElem]
  · simp [-BitVec.getLsbD_eq_getElem]
  · simp [decP2d, guardOf, -BitVec.getLsbD_eq_getElem]
theorem d2p (o : D2pOp) : Statement (.d2p o) := by
  intro h _
  show decodeThread (cat (cat (cat (cat (cat (cat 0x33#8 o.g.code) 0#8) o.a) 0#19) o.mask) 0#1) = _
  refine decodeThread_of (g := o.g) rfl h ?_ ((parse_33 _ ?_).trans ?_)
  · simp [guardOf, -BitVec.getLsbD_eq_getElem]
  · simp [-BitVec.getLsbD_eq_getElem]
  · simp [decD2p, guardOf, -BitVec.getLsbD_eq_getElem]
theorem sel (o : SelOp) : Statement (.sel o) := by
  intro h _
  show decodeThread (cat (cat (cat (cat (cat (cat (cat (cat (cat 0x34#8 o.g.code) o.d) o.a) o.b) 0#8) 0#13) (BitVec.ofBool o.w)) (BitVec.ofBool o.n)) o.s) = _
  refine decodeThread_of (g := o.g) rfl h ?_ ((parse_34 _ ?_).trans ?_)
  · simp [guardOf, -BitVec.getLsbD_eq_getElem]
  · simp [-BitVec.getLsbD_eq_getElem]
  · simp [decSel, guardOf, -BitVec.getLsbD_eq_getElem]
theorem fadd (o : F3) : Statement (.fadd o) := by
  intro h _
  show decodeThread (cat (cat (cat (cat (cat (cat (cat (cat 0x40#8 o.g.code) o.d) o.a) o.b) 0#8) o.rm.code) o.ty.code) 0#15) = _
  refine decodeThread_of (g := o.g) rfl h ?_ ((parse_40 _ ?_).trans ?_)
  · simp [guardOf, -BitVec.getLsbD_eq_getElem]
  · simp [-BitVec.getLsbD_eq_getElem]
  · simp [decFadd, guardOf, -BitVec.getLsbD_eq_getElem]
theorem fsub (o : F3) : Statement (.fsub o) := by
  intro h _
  show decodeThread (cat (cat (cat (cat (cat (cat (cat (cat 0x41#8 o.g.code) o.d) o.a) o.b) 0#8) o.rm.code) o.ty.code) 0#15) = _
  refine decodeThread_of (g := o.g) rfl h ?_ ((parse_41 _ ?_).trans ?_)
  · simp [guardOf, -BitVec.getLsbD_eq_getElem]
  · simp [-BitVec.getLsbD_eq_getElem]
  · simp [decFsub, guardOf, -BitVec.getLsbD_eq_getElem]
theorem fmul (o : F3) : Statement (.fmul o) := by
  intro h _
  show decodeThread (cat (cat (cat (cat (cat (cat (cat (cat 0x42#8 o.g.code) o.d) o.a) o.b) 0#8) o.rm.code) o.ty.code) 0#15) = _
  refine decodeThread_of (g := o.g) rfl h ?_ ((parse_42 _ ?_).trans ?_)
  · simp [guardOf, -BitVec.getLsbD_eq_getElem]
  · simp [-BitVec.getLsbD_eq_getElem]
  · simp [decFmul, guardOf, -BitVec.getLsbD_eq_getElem]
theorem fma (o : F4) : Statement (.fma o) := by
  intro h _
  show decodeThread (cat (cat (cat (cat (cat (cat (cat (cat 0x43#8 o.g.code) o.d) o.a) o.b) o.c) o.rm.code) o.ty.code) 0#15) = _
  refine decodeThread_of (g := o.g) rfl h ?_ ((parse_43 _ ?_).trans ?_)
  · simp [guardOf, -BitVec.getLsbD_eq_getElem]
  · simp [-BitVec.getLsbD_eq_getElem]
  · simp [decFma, guardOf, -BitVec.getLsbD_eq_getElem]
theorem fmin (o : FMinOp) : Statement (.fmin o) := by
  intro h _
  show decodeThread (cat (cat (cat (cat (cat (cat (cat (cat 0x44#8 o.g.code) o.d) o.a) o.b) 0#8) 0#2) o.ty.code) 0#15) = _
  refine decodeThread_of (g := o.g) rfl h ?_ ((parse_44 _ ?_).trans ?_)
  · simp [guardOf, -BitVec.getLsbD_eq_getElem]
  · simp [-BitVec.getLsbD_eq_getElem]
  · simp [decFmin, guardOf, -BitVec.getLsbD_eq_getElem]
theorem fmax (o : FMinOp) : Statement (.fmax o) := by
  intro h _
  show decodeThread (cat (cat (cat (cat (cat (cat (cat (cat 0x45#8 o.g.code) o.d) o.a) o.b) 0#8) 0#2) o.ty.code) 0#15) = _
  refine decodeThread_of (g := o.g) rfl h ?_ ((parse_45 _ ?_).trans ?_)
  · simp [guardOf, -BitVec.getLsbD_eq_getElem]
  · simp [-BitVec.getLsbD_eq_getElem]
  · simp [decFmax, guardOf, -BitVec.getLsbD_eq_getElem]
theorem fdot2 (o : FDotOp) : Statement (.fdot2 o) := by
  intro h _
  show decodeThread (cat (cat (cat (cat (cat (cat (cat (cat 0x46#8 o.g.code) o.d) o.a) o.b) o.c) o.rm.code) (halfCode o.bf)) 0#15) = _
  refine decodeThread_of (g := o.g) rfl h ?_ ((parse_46 _ ?_).trans ?_)
  · simp [guardOf, -BitVec.getLsbD_eq_getElem]
  · simp [-BitVec.getLsbD_eq_getElem]
  · simp [decFdot2, guardOf, -BitVec.getLsbD_eq_getElem]
theorem fclass (o : FClassOp) : Statement (.fclass o) := by
  intro h _
  show decodeThread (cat (cat (cat (cat (cat (cat (cat (cat 0x47#8 o.g.code) o.d) o.a) 0#8) 0#8) 0#2) o.ty.code) 0#15) = _
  refine decodeThread_of (g := o.g) rfl h ?_ ((parse_47 _ ?_).trans ?_)
  · simp [guardOf, -BitVec.getLsbD_eq_getElem]
  · simp [-BitVec.getLsbD_eq_getElem]
  · simp [decFclass, guardOf, -BitVec.getLsbD_eq_getElem]
theorem fscale (o : F3) : Statement (.fscale o) := by
  intro h _
  show decodeThread (cat (cat (cat (cat (cat (cat (cat (cat 0x48#8 o.g.code) o.d) o.a) o.b) 0#8) o.rm.code) o.ty.code) 0#15) = _
  refine decodeThread_of (g := o.g) rfl h ?_ ((parse_48 _ ?_).trans ?_)
  · simp [guardOf, -BitVec.getLsbD_eq_getElem]
  · simp [-BitVec.getLsbD_eq_getElem]
  · simp [decFscale, guardOf, -BitVec.getLsbD_eq_getElem]
theorem frnd (o : FRndOp) : Statement (.frnd o) := by
  intro h _
  show decodeThread (cat (cat (cat (cat (cat (cat (cat (cat (cat 0x49#8 o.g.code) o.d) o.a) 0#8) 0#8) o.rm.code) o.ty.code) (BitVec.ofBool o.x)) 0#14) = _
  refine decodeThread_of (g := o.g) rfl h ?_ ((parse_49 _ ?_).trans ?_)
  · simp [guardOf, -BitVec.getLsbD_eq_getElem]
  · simp [-BitVec.getLsbD_eq_getElem]
  · simp [decFrnd, guardOf, -BitVec.getLsbD_eq_getElem]
theorem cvt (o : CvtOp) : Statement (.cvt o) := by
  intro h _
  show decodeThread (cat (cat (cat (cat (cat (cat (cat (cat (cat (cat (cat 0x50#8 o.g.code) o.d) o.a) 0#8) 0#8) o.rm.code) 0#5) o.sel) o.ovf.code) o.td.code) o.ts.code) = _
  refine decodeThread_of (g := o.g) rfl h ?_ ((parse_50 _ ?_).trans ?_)
  · simp [guardOf, -BitVec.getLsbD_eq_getElem]
  · simp [-BitVec.getLsbD_eq_getElem]
  · simp [decCvt, guardOf, -BitVec.getLsbD_eq_getElem]
theorem cvtf (o : CvtfOp) : Statement (.cvtf o) := by
  intro h _
  show decodeThread (cat (cat (cat (cat (cat (cat (cat (cat (cat (cat 0x51#8 o.g.code) o.d) o.a) o.b) 0#8) o.rm.code) 0#7) o.ovf.code) o.td.code) 6#4) = _
  refine decodeThread_of (g := o.g) rfl h ?_ ((parse_51 _ ?_).trans ?_)
  · simp [guardOf, -BitVec.getLsbD_eq_getElem]
  · simp [-BitVec.getLsbD_eq_getElem]
  · simp [decCvtf, guardOf, -BitVec.getLsbD_eq_getElem]
theorem quant (o : QuantOp) : Statement (.quant o) := by
  intro h _
  show decodeThread (cat (cat (cat (cat (cat (cat (cat (cat (cat 0x52#8 o.g.code) o.d) o.a) o.b) o.c) o.rm.code) 0#9) o.ty.code) 6#4) = _
  refine decodeThread_of (g := o.g) rfl h ?_ ((parse_52 _ ?_).trans ?_)
  · simp [guardOf, -BitVec.getLsbD_eq_getElem]
  · simp [-BitVec.getLsbD_eq_getElem]
  · simp [decQuant, guardOf, -BitVec.getLsbD_eq_getElem]
theorem deq (o : QuantOp) : Statement (.deq o) := by
  intro h _
  show decodeThread (cat (cat (cat (cat (cat (cat (cat (cat 0x53#8 o.g.code) o.d) o.a) o.b) o.c) o.rm.code) 0#13) o.ty.code) = _
  refine decodeThread_of (g := o.g) rfl h ?_ ((parse_53 _ ?_).trans ?_)
  · simp [guardOf, -BitVec.getLsbD_eq_getElem]
  · simp [-BitVec.getLsbD_eq_getElem]
  · simp [decDeq, guardOf, -BitVec.getLsbD_eq_getElem]
theorem amax (o : AmaxOp) : Statement (.amax o) := by
  intro h _
  show decodeThread (cat (cat (cat (cat (cat (cat (cat 0x54#8 o.g.code) o.d) o.a) 0#8) 0#8) 0#15) o.ts.code) = _
  refine decodeThread_of (g := o.g) rfl h ?_ ((parse_54 _ ?_).trans ?_)
  · simp [guardOf, -BitVec.getLsbD_eq_getElem]
  · simp [-BitVec.getLsbD_eq_getElem]
  · simp [decAmax, guardOf, -BitVec.getLsbD_eq_getElem]
theorem perm (o : R4) : Statement (.perm o) := by
  intro h _
  show decodeThread (cat (cat (cat (cat (cat (cat 0x55#8 o.g.code) o.d) o.a) o.b) o.c) 0#19) = _
  refine decodeThread_of (g := o.g) rfl h ?_ ((parse_55 _ ?_).trans ?_)
  · simp [guardOf, -BitVec.getLsbD_eq_getElem]
  · simp [-BitVec.getLsbD_eq_getElem]
  · simp [decPerm, guardOf, -BitVec.getLsbD_eq_getElem]
theorem rcp (o : SfuOp) : Statement (.rcp o) := by
  intro h _
  show decodeThread (cat (cat (cat (cat (cat (cat (cat 0x58#8 o.g.code) o.d) o.a) 0#8) 0#8) o.rm.code) 0#17) = _
  refine decodeThread_of (g := o.g) rfl h ?_ ((parse_58 _ ?_).trans ?_)
  · simp [guardOf, -BitVec.getLsbD_eq_getElem]
  · simp [-BitVec.getLsbD_eq_getElem]
  · simp [decRcp, guardOf, -BitVec.getLsbD_eq_getElem]
theorem rsqrt (o : SfuOp) : Statement (.rsqrt o) := by
  intro h _
  show decodeThread (cat (cat (cat (cat (cat (cat (cat 0x59#8 o.g.code) o.d) o.a) 0#8) 0#8) o.rm.code) 0#17) = _
  refine decodeThread_of (g := o.g) rfl h ?_ ((parse_59 _ ?_).trans ?_)
  · simp [guardOf, -BitVec.getLsbD_eq_getElem]
  · simp [-BitVec.getLsbD_eq_getElem]
  · simp [decRsqrt, guardOf, -BitVec.getLsbD_eq_getElem]
theorem sqrt (o : SfuOp) : Statement (.sqrt o) := by
  intro h _
  show decodeThread (cat (cat (cat (cat (cat (cat (cat 0x5A#8 o.g.code) o.d) o.a) 0#8) 0#8) o.rm.code) 0#17) = _
  refine decodeThread_of (g := o.g) rfl h ?_ ((parse_5A _ ?_).trans ?_)
  · simp [guardOf, -BitVec.getLsbD_eq_getElem]
  · simp [-BitVec.getLsbD_eq_getElem]
  · simp [decSqrt, guardOf, -BitVec.getLsbD_eq_getElem]
theorem exp2 (o : SfuOp) : Statement (.exp2 o) := by
  intro h _
  show decodeThread (cat (cat (cat (cat (cat (cat (cat 0x5B#8 o.g.code) o.d) o.a) 0#8) 0#8) o.rm.code) 0#17) = _
  refine decodeThread_of (g := o.g) rfl h ?_ ((parse_5B _ ?_).trans ?_)
  · simp [guardOf, -BitVec.getLsbD_eq_getElem]
  · simp [-BitVec.getLsbD_eq_getElem]
  · simp [decExp2, guardOf, -BitVec.getLsbD_eq_getElem]
theorem log2 (o : SfuOp) : Statement (.log2 o) := by
  intro h _
  show decodeThread (cat (cat (cat (cat (cat (cat (cat 0x5C#8 o.g.code) o.d) o.a) 0#8) 0#8) o.rm.code) 0#17) = _
  refine decodeThread_of (g := o.g) rfl h ?_ ((parse_5C _ ?_).trans ?_)
  · simp [guardOf, -BitVec.getLsbD_eq_getElem]
  · simp [-BitVec.getLsbD_eq_getElem]
  · simp [decLog2, guardOf, -BitVec.getLsbD_eq_getElem]
theorem sin (o : SfuOp) : Statement (.sin o) := by
  intro h _
  show decodeThread (cat (cat (cat (cat (cat (cat (cat 0x5D#8 o.g.code) o.d) o.a) 0#8) 0#8) o.rm.code) 0#17) = _
  refine decodeThread_of (g := o.g) rfl h ?_ ((parse_5D _ ?_).trans ?_)
  · simp [guardOf, -BitVec.getLsbD_eq_getElem]
  · simp [-BitVec.getLsbD_eq_getElem]
  · simp [decSin, guardOf, -BitVec.getLsbD_eq_getElem]
theorem cos (o : SfuOp) : Statement (.cos o) := by
  intro h _
  show decodeThread (cat (cat (cat (cat (cat (cat (cat 0x5E#8 o.g.code) o.d) o.a) 0#8) 0#8) o.rm.code) 0#17) = _
  refine decodeThread_of (g := o.g) rfl h ?_ ((parse_5E _ ?_).trans ?_)
  · simp [guardOf, -BitVec.getLsbD_eq_getElem]
  · simp [-BitVec.getLsbD_eq_getElem]
  · simp [decCos, guardOf, -BitVec.getLsbD_eq_getElem]
theorem tanh (o : SfuOp) : Statement (.tanh o) := by
  intro h _
  show decodeThread (cat (cat (cat (cat (cat (cat (cat 0x5F#8 o.g.code) o.d) o.a) 0#8) 0#8) o.rm.code) 0#17) = _
  refine decodeThread_of (g := o.g) rfl h ?_ ((parse_5F _ ?_).trans ?_)
  · simp [guardOf, -BitVec.getLsbD_eq_getElem]
  · simp [-BitVec.getLsbD_eq_getElem]
  · simp [decTanh, guardOf, -BitVec.getLsbD_eq_getElem]
theorem sigm (o : SfuOp) : Statement (.sigm o) := by
  intro h _
  show decodeThread (cat (cat (cat (cat (cat (cat (cat 0x60#8 o.g.code) o.d) o.a) 0#8) 0#8) o.rm.code) 0#17) = _
  refine decodeThread_of (g := o.g) rfl h ?_ ((parse_60 _ ?_).trans ?_)
  · simp [guardOf, -BitVec.getLsbD_eq_getElem]
  · simp [-BitVec.getLsbD_eq_getElem]
  · simp [decSigm, guardOf, -BitVec.getLsbD_eq_getElem]
theorem erf (o : SfuOp) : Statement (.erf o) := by
  intro h _
  show decodeThread (cat (cat (cat (cat (cat (cat (cat 0x61#8 o.g.code) o.d) o.a) 0#8) 0#8) o.rm.code) 0#17) = _
  refine decodeThread_of (g := o.g) rfl h ?_ ((parse_61 _ ?_).trans ?_)
  · simp [guardOf, -BitVec.getLsbD_eq_getElem]
  · simp [-BitVec.getLsbD_eq_getElem]
  · simp [decErf, guardOf, -BitVec.getLsbD_eq_getElem]
theorem mov (o : R2f) : Statement (.mov o) := by
  intro h _
  show decodeThread (cat (cat (cat (cat (cat (cat (cat 0x68#8 o.g.code) o.d) o.a) 0#8) 0#8) 0#18) (BitVec.ofBool o.f)) = _
  refine decodeThread_of (g := o.g) rfl h ?_ ((parse_68 _ ?_).trans ?_)
  · simp [guardOf, -BitVec.getLsbD_eq_getElem]
  · simp [-BitVec.getLsbD_eq_getElem]
  · simp [decMov, guardOf, -BitVec.getLsbD_eq_getElem]
theorem rds (o : RdsOp) : Statement (.rds o) := by
  intro h _
  show decodeThread (cat (cat (cat (cat (cat (cat (cat (cat 0x69#8 o.g.code) o.d) 0#8) 0#8) 0#8) 0#10) (BitVec.ofBool o.clr)) o.name.code) = _
  refine decodeThread_of (g := o.g) rfl h ?_ ((parse_69 _ ?_).trans ?_)
  · simp [guardOf, -BitVec.getLsbD_eq_getElem]
  · simp [-BitVec.getLsbD_eq_getElem]
  · simp [decRds, guardOf, -BitVec.getLsbD_eq_getElem]
theorem shfl (o : ShflOp) : Statement (.shfl o) := by
  intro h _
  show decodeThread (cat (cat (cat (cat (cat (cat (cat (cat (cat (cat 0x6A#8 o.g.code) o.d) o.a) o.b) 0#8) 0#9) o.k) (BitVec.ofBool o.i)) o.seg.code) o.mode.code) = _
  refine decodeThread_of (g := o.g) rfl h ?_ ((parse_6A _ ?_).trans ?_)
  · simp [guardOf, -BitVec.getLsbD_eq_getElem]
  · simp [-BitVec.getLsbD_eq_getElem]
  · simp [decShfl, guardOf, -BitVec.getLsbD_eq_getElem]
theorem br (o : BrOp) : Statement (.br o) := by
  intro h _
  show decodeThread (cat (cat (cat (cat 0x70#8 o.g.code) 0#16) o.hint.code) o.off) = _
  refine decodeThread_of (g := o.g) rfl h ?_ ((parse_70 _ ?_).trans ?_)
  · simp [guardOf, -BitVec.getLsbD_eq_getElem]
  · simp [-BitVec.getLsbD_eq_getElem]
  · simp [decBr, guardOf, -BitVec.getLsbD_eq_getElem]
theorem brx (o : RegOp) : Statement (.brx o) := by
  intro h _
  show decodeThread (cat (cat (cat (cat (cat (cat 0x71#8 o.g.code) 0#8) o.a) 0#8) 0#8) 0#19) = _
  refine decodeThread_of (g := o.g) rfl h ?_ ((parse_71 _ ?_).trans ?_)
  · simp [guardOf, -BitVec.getLsbD_eq_getElem]
  · simp [-BitVec.getLsbD_eq_getElem]
  · simp [decBrx, guardOf, -BitVec.getLsbD_eq_getElem]
theorem call (o : BrDOp) : Statement (.call o) := by
  intro h _
  show decodeThread (cat (cat (cat (cat (cat 0x72#8 o.g.code) o.d) 0#8) o.hint.code) o.off) = _
  refine decodeThread_of (g := o.g) rfl h ?_ ((parse_72 _ ?_).trans ?_)
  · simp [guardOf, -BitVec.getLsbD_eq_getElem]
  · simp [-BitVec.getLsbD_eq_getElem]
  · simp [decCall, guardOf, -BitVec.getLsbD_eq_getElem]
theorem ret (o : RegOp) : Statement (.ret o) := by
  intro h _
  show decodeThread (cat (cat (cat (cat (cat (cat 0x73#8 o.g.code) 0#8) o.a) 0#8) 0#8) 0#19) = _
  refine decodeThread_of (g := o.g) rfl h ?_ ((parse_73 _ ?_).trans ?_)
  · simp [guardOf, -BitVec.getLsbD_eq_getElem]
  · simp [-BitVec.getLsbD_eq_getElem]
  · simp [decRet, guardOf, -BitVec.getLsbD_eq_getElem]
theorem brc (o : BrDOp) : Statement (.brc o) := by
  intro h _
  show decodeThread (cat (cat (cat (cat (cat 0x74#8 o.g.code) o.d) 0#8) o.hint.code) o.off) = _
  refine decodeThread_of (g := o.g) rfl h ?_ ((parse_74 _ ?_).trans ?_)
  · simp [guardOf, -BitVec.getLsbD_eq_getElem]
  · simp [-BitVec.getLsbD_eq_getElem]
  · simp [decBrc, guardOf, -BitVec.getLsbD_eq_getElem]
theorem reformDirect (o : OffOp) : Statement (.reformDirect o) := by
  intro h _
  show decodeThread (cat (cat (cat 0x75#8 o.g.code) 0#19) o.off) = _
  refine decodeThread_of (g := o.g) rfl h ?_ ((parse_75 _ ?_).trans ?_)
  · simp [guardOf, -BitVec.getLsbD_eq_getElem]
  · simp [-BitVec.getLsbD_eq_getElem]
  · simp [decReformDirect, decReformIndirect, guardOf, -BitVec.getLsbD_eq_getElem]
theorem reformIndirect (o : RegOp) : Statement (.reformIndirect o) := by
  intro h _
  show decodeThread (cat (cat (cat (cat 0x75#8 o.g.code) 1#8) o.a) 0#35) = _
  refine decodeThread_of (g := o.g) rfl h ?_ ((parse_75 _ ?_).trans ?_)
  · simp [guardOf, -BitVec.getLsbD_eq_getElem]
  · simp [-BitVec.getLsbD_eq_getElem]
  · unfold decReformDirect decReformIndirect
    rw [field_of_bit 11]
    · simp [guardOf, slotOf, -BitVec.getLsbD_eq_getElem]
    · simp [-BitVec.getLsbD_eq_getElem]
theorem rejoin (g : Guard) : Statement (.rejoin g) := by
  intro h _
  show decodeThread (cat (cat 0x76#8 g.code) 0#51) = _
  refine decodeThread_of (g := g) rfl h ?_ ((parse_76 _ ?_).trans ?_)
  · simp [guardOf, -BitVec.getLsbD_eq_getElem]
  · simp [-BitVec.getLsbD_eq_getElem]
  · simp [decRejoin, guardOf, -BitVec.getLsbD_eq_getElem]
theorem bar (g : Guard) : Statement (.bar g) := by
  intro h _
  show decodeThread (cat (cat 0x77#8 g.code) 0#51) = _
  refine decodeThread_of (g := g) rfl h ?_ ((parse_77 _ ?_).trans ?_)
  · simp [guardOf, -BitVec.getLsbD_eq_getElem]
  · simp [-BitVec.getLsbD_eq_getElem]
  · simp [decBar, guardOf, -BitVec.getLsbD_eq_getElem]
theorem gate (o : GateOp) : Statement (.gate o) := by
  intro h _
  show decodeThread (cat (cat (cat (cat (cat (cat 0x78#8 o.g.code) 0#8) o.a) o.b) o.c) 0#19) = _
  refine decodeThread_of (g := o.g) rfl h ?_ ((parse_78 _ ?_).trans ?_)
  · simp [guardOf, -BitVec.getLsbD_eq_getElem]
  · simp [-BitVec.getLsbD_eq_getElem]
  · simp [decGate, guardOf, -BitVec.getLsbD_eq_getElem]
theorem exit (g : Guard) : Statement (.exit g) := by
  intro h _
  show decodeThread (cat (cat 0x79#8 g.code) 0#51) = _
  refine decodeThread_of (g := g) rfl h ?_ ((parse_79 _ ?_).trans ?_)
  · simp [guardOf, -BitVec.getLsbD_eq_getElem]
  · simp [-BitVec.getLsbD_eq_getElem]
  · simp [decExit, guardOf, -BitVec.getLsbD_eq_getElem]
theorem trap (o : NumOp) : Statement (.trap o) := by
  intro h _
  show decodeThread (cat (cat (cat 0x7A#8 o.g.code) 0#43) o.n) = _
  refine decodeThread_of (g := o.g) rfl h ?_ ((parse_7A _ ?_).trans ?_)
  · simp [guardOf, -BitVec.getLsbD_eq_getElem]
  · simp [-BitVec.getLsbD_eq_getElem]
  · simp [decTrap, guardOf, -BitVec.getLsbD_eq_getElem]
theorem brk (o : NumOp) : Statement (.brk o) := by
  intro h _
  show decodeThread (cat (cat (cat 0x7B#8 o.g.code) 0#43) o.n) = _
  refine decodeThread_of (g := o.g) rfl h ?_ ((parse_7B _ ?_).trans ?_)
  · simp [guardOf, -BitVec.getLsbD_eq_getElem]
  · simp [-BitVec.getLsbD_eq_getElem]
  · simp [decBrk, guardOf, -BitVec.getLsbD_eq_getElem]
theorem ld (o : LdOp) : Statement (.ld o) := by
  intro h _
  show decodeThread (cat (cat (cat (cat (cat (cat (cat 0x80#8 o.g.code) o.d) o.a) (acqCode o.ord)) o.size.code) o.hint.code) o.ofs) = _
  refine decodeThread_of (g := o.g) rfl h ?_ ((parse_80 _ ?_).trans ?_)
  · simp [guardOf, -BitVec.getLsbD_eq_getElem]
  · simp [-BitVec.getLsbD_eq_getElem]
  · simp [decLd, guardOf, -BitVec.getLsbD_eq_getElem]
theorem st (o : LdOp) : Statement (.st o) := by
  intro h _
  show decodeThread (cat (cat (cat (cat (cat (cat (cat 0x81#8 o.g.code) o.d) o.a) (relCode o.ord)) o.size.code) o.hint.code) o.ofs) = _
  refine decodeThread_of (g := o.g) rfl h ?_ ((parse_81 _ ?_).trans ?_)
  · simp [guardOf, -BitVec.getLsbD_eq_getElem]
  · simp [-BitVec.getLsbD_eq_getElem]
  · simp [decSt, guardOf, -BitVec.getLsbD_eq_getElem]
theorem ldr (o : LdrOp) : Statement (.ldr o) := by
  intro h _
  show decodeThread (cat (cat (cat (cat (cat (cat (cat 0x82#8 o.g.code) o.d) o.a) (acqCode o.ord)) 5#3) o.hint.code) o.ofs) = _
  refine decodeThread_of (g := o.g) rfl h ?_ ((parse_82 _ ?_).trans ?_)
  · simp [guardOf, -BitVec.getLsbD_eq_getElem]
  · simp [-BitVec.getLsbD_eq_getElem]
  · simp [decLdr, guardOf, -BitVec.getLsbD_eq_getElem]
theorem str (o : LdrOp) : Statement (.str o) := by
  intro h _
  show decodeThread (cat (cat (cat (cat (cat (cat (cat 0x83#8 o.g.code) o.d) o.a) (relCode o.ord)) 5#3) o.hint.code) o.ofs) = _
  refine decodeThread_of (g := o.g) rfl h ?_ ((parse_83 _ ?_).trans ?_)
  · simp [guardOf, -BitVec.getLsbD_eq_getElem]
  · simp [-BitVec.getLsbD_eq_getElem]
  · simp [decStr, guardOf, -BitVec.getLsbD_eq_getElem]
theorem pub (o : PubOp) : Statement (.pub o) := by
  intro h _
  show decodeThread (cat (cat (cat (cat (cat (cat (cat (cat 0x84#8 o.g.code) o.d) o.a) o.scope.code) 2#2) 5#3) 0#2) o.ofs) = _
  refine decodeThread_of (g := o.g) rfl h ?_ ((parse_84 _ ?_).trans ?_)
  · simp [guardOf, -BitVec.getLsbD_eq_getElem]
  · simp [-BitVec.getLsbD_eq_getElem]
  · simp [decPub, guardOf, -BitVec.getLsbD_eq_getElem]
theorem pref (o : PrefOp) : Statement (.pref o) := by
  intro h _
  show decodeThread (cat (cat (cat (cat (cat (cat 0x85#8 o.g.code) 0#8) o.a) 0#8) o.hint.code) o.ofs) = _
  refine decodeThread_of (g := o.g) rfl h ?_ ((parse_85 _ ?_).trans ?_)
  · simp [guardOf, -BitVec.getLsbD_eq_getElem]
  · simp [-BitVec.getLsbD_eq_getElem]
  · simp [decPref, guardOf, -BitVec.getLsbD_eq_getElem]
theorem tagld (o : TagOp) : Statement (.tagld o) := by
  intro h _
  show decodeThread (cat (cat (cat (cat (cat 0x86#8 o.g.code) o.d) o.a) 0#10) o.ofs) = _
  refine decodeThread_of (g := o.g) rfl h ?_ ((parse_86 _ ?_).trans ?_)
  · simp [guardOf, -BitVec.getLsbD_eq_getElem]
  · simp [-BitVec.getLsbD_eq_getElem]
  · simp [decTagld, guardOf, -BitVec.getLsbD_eq_getElem]
theorem objinit (o : TagOp) : Statement (.objinit o) := by
  intro h _
  show decodeThread (cat (cat (cat (cat (cat 0x87#8 o.g.code) o.d) o.a) 0#10) o.ofs) = _
  refine decodeThread_of (g := o.g) rfl h ?_ ((parse_87 _ ?_).trans ?_)
  · simp [guardOf, -BitVec.getLsbD_eq_getElem]
  · simp [-BitVec.getLsbD_eq_getElem]
  · simp [decObjinit, guardOf, -BitVec.getLsbD_eq_getElem]
theorem atom (o : AtomOpd) : Statement (.atom o) := by
  intro h _
  show decodeThread (cat (cat (cat (cat (cat (cat (cat (cat (cat (cat (cat 0x88#8 o.g.code) o.d) o.a) o.b) 0#8) o.scope.code) o.ord.code) o.op.code) (BitVec.ofBool o.w)) (BitVec.ofBool o.nr)) 0#8) = _
  refine decodeThread_of (g := o.g) rfl h ?_ ((parse_88 _ ?_).trans ?_)
  · simp [guardOf, -BitVec.getLsbD_eq_getElem]
  · simp [-BitVec.getLsbD_eq_getElem]
  · simp [decAtom, guardOf, -BitVec.getLsbD_eq_getElem]
theorem cas (o : CasOp) : Statement (.cas o) := by
  intro h _
  show decodeThread (cat (cat (cat (cat (cat (cat (cat (cat (cat (cat 0x89#8 o.g.code) o.d) o.a) o.b) o.c) o.scope.code) o.ord.code) 0#4) (BitVec.ofBool o.w)) 0#9) = _
  refine decodeThread_of (g := o.g) rfl h ?_ ((parse_89 _ ?_).trans ?_)
  · simp [guardOf, -BitVec.getLsbD_eq_getElem]
  · simp [-BitVec.getLsbD_eq_getElem]
  · simp [decCas, guardOf, -BitVec.getLsbD_eq_getElem]
theorem fence (o : FenceOp) : Statement (.fence o) := by
  intro h _
  show decodeThread (cat (cat (cat (cat (cat 0x8A#8 o.g.code) 0#32) o.scope.code) o.kind.code) 0#14) = _
  refine decodeThread_of (g := o.g) rfl h ?_ ((parse_8A _ ?_).trans ?_)
  · simp [guardOf, -BitVec.getLsbD_eq_getElem]
  · simp [-BitVec.getLsbD_eq_getElem]
  · simp [decFence, guardOf, -BitVec.getLsbD_eq_getElem]
theorem wait (o : WaitOp) : Statement (.wait o) := by
  intro h _
  show decodeThread (cat (cat (cat (cat (cat (cat (cat (cat (cat (cat 0x8B#8 o.g.code) o.d) o.a) o.b) o.c) o.scope.code) 0#1) (BitVec.ofBool o.acq)) 0#11) o.cond.code) = _
  refine decodeThread_of (g := o.g) rfl h ?_ ((parse_8B _ ?_).trans ?_)
  · simp [guardOf, -BitVec.getLsbD_eq_getElem]
  · simp [-BitVec.getLsbD_eq_getElem]
  · simp [decWait, guardOf, -BitVec.getLsbD_eq_getElem]
theorem qpush (o : R2) : Statement (.qpush o) := by
  intro h _
  show decodeThread (cat (cat (cat (cat 0x8C#8 o.g.code) o.d) o.a) 0#35) = _
  refine decodeThread_of (g := o.g) rfl h ?_ ((parse_8C _ ?_).trans ?_)
  · simp [guardOf, -BitVec.getLsbD_eq_getElem]
  · simp [-BitVec.getLsbD_eq_getElem]
  · simp [decQpush, guardOf, -BitVec.getLsbD_eq_getElem]
theorem qpop (o : EndOp) : Statement (.qpop o) := by
  intro h _
  show decodeThread (cat (cat (cat (cat 0x8D#8 o.g.code) o.d) 0#39) o.e) = _
  refine decodeThread_of (g := o.g) rfl h ?_ ((parse_8D _ ?_).trans ?_)
  · simp [guardOf, -BitVec.getLsbD_eq_getElem]
  · simp [-BitVec.getLsbD_eq_getElem]
  · simp [decQpop, guardOf, -BitVec.getLsbD_eq_getElem]
theorem qszCnt (o : EndOp) : Statement (.qszCnt o) := by
  intro h _
  show decodeThread (cat (cat (cat (cat (cat 0x8E#8 o.g.code) o.d) 0#37) o.e) 0#2) = _
  refine decodeThread_of (g := o.g) rfl h ?_ ((parse_8E _ ?_).trans ?_)
  · simp [guardOf, -BitVec.getLsbD_eq_getElem]
  · simp [-BitVec.getLsbD_eq_getElem]
  · simp [decQszCnt, decQszInit, decQszFin, guardOf, -BitVec.getLsbD_eq_getElem]
theorem qszInit (o : QInitOp) : Statement (.qszInit o) := by
  intro h _
  show decodeThread (cat (cat (cat (cat (cat (cat (cat 0x8E#8 o.g.code) o.d) o.a) o.b) 0#21) o.e) 1#2) = _
  refine decodeThread_of (g := o.g) rfl h ?_ ((parse_8E _ ?_).trans ?_)
  · simp [guardOf, -BitVec.getLsbD_eq_getElem]
  · simp [-BitVec.getLsbD_eq_getElem]
  · simp [decQszCnt, decQszInit, decQszFin, guardOf, -BitVec.getLsbD_eq_getElem]
theorem qszFin (o : QFinOp) : Statement (.qszFin o) := by
  intro h _
  show decodeThread (cat (cat (cat (cat 0x8E#8 o.g.code) 0#45) o.e) 2#2) = _
  refine decodeThread_of (g := o.g) rfl h ?_ ((parse_8E _ ?_).trans ?_)
  · simp [guardOf, -BitVec.getLsbD_eq_getElem]
  · simp [-BitVec.getLsbD_eq_getElem]
  · simp [decQszCnt, decQszInit, decQszFin, guardOf, -BitVec.getLsbD_eq_getElem]
theorem cpy (o : CpyOp) : Statement (.cpy o) := by
  intro h _
  show decodeThread (cat (cat (cat (cat (cat (cat (cat (cat (cat 0x90#8 o.g.code) o.d) o.a) o.b) o.c) o.scope.code) 0#2) o.ch) (cvCode o.cv)) = _
  refine decodeThread_of (g := o.g) rfl h ?_ ((parse_90 _ ?_).trans ?_)
  · simp [guardOf, -BitVec.getLsbD_eq_getElem]
  · simp [-BitVec.getLsbD_eq_getElem]
  · simp [decCpy, guardOf, -BitVec.getLsbD_eq_getElem]
theorem cpn (o : CpnOp) : Statement (.cpn o) := by
  intro h _
  show decodeThread (cat (cat (cat (cat (cat (cat (cat (cat (cat 0x91#8 o.g.code) o.d) o.a) 0#8) 0#8) o.scope.code) 0#2) o.ch) 0#11) = _
  refine decodeThread_of (g := o.g) rfl h ?_ ((parse_91 _ ?_).trans ?_)
  · simp [guardOf, -BitVec.getLsbD_eq_getElem]
  · simp [-BitVec.getLsbD_eq_getElem]
  · simp [decCpn, guardOf, -BitVec.getLsbD_eq_getElem]
theorem cwait (o : CwaitOp) : Statement (.cwait o) := by
  intro h _
  show decodeThread (cat (cat (cat (cat (cat (cat (cat (cat 0x92#8 o.g.code) 0#8) o.a) 0#16) o.scope.code) 1#2) o.ch) 0#11) = _
  refine decodeThread_of (g := o.g) rfl h ?_ ((parse_92 _ ?_).trans ?_)
  · simp [guardOf, -BitVec.getLsbD_eq_getElem]
  · simp [-BitVec.getLsbD_eq_getElem]
  · simp [decCwait, guardOf, -BitVec.getLsbD_eq_getElem]
theorem cstat (o : CstatOp) : Statement (.cstat o) := by
  intro h _
  show decodeThread (cat (cat (cat (cat (cat (cat (cat (cat 0x93#8 o.g.code) o.d) 0#24) o.scope.code) 0#1) (BitVec.ofBool o.acq)) o.ch) 0#11) = _
  refine decodeThread_of (g := o.g) rfl h ?_ ((parse_93 _ ?_).trans ?_)
  · simp [guardOf, -BitVec.getLsbD_eq_getElem]
  · simp [-BitVec.getLsbD_eq_getElem]
  · simp [decCstat, guardOf, -BitVec.getLsbD_eq_getElem]
theorem cabort (o : CabortOp) : Statement (.cabort o) := by
  intro h _
  show decodeThread (cat (cat (cat (cat (cat 0x94#8 o.g.code) 0#36) (BitVec.ofBool o.k)) o.ch) 0#11) = _
  refine decodeThread_of (g := o.g) rfl h ?_ ((parse_94 _ ?_).trans ?_)
  · simp [guardOf, -BitVec.getLsbD_eq_getElem]
  · simp [-BitVec.getLsbD_eq_getElem]
  · simp [decCabort, guardOf, -BitVec.getLsbD_eq_getElem]
theorem barr (o : BarrOp) : Statement (.barr o) := by
  intro h _
  show decodeThread (cat (cat (cat (cat (cat (cat 0x95#8 o.g.code) 0#8) (o.x.getD 0#8)) 0#30) (BitVec.ofBool o.x.isSome)) o.n) = _
  refine decodeThread_of (g := o.g) rfl h ?_ ((parse_95 _ ?_).trans ?_)
  · simp [guardOf, -BitVec.getLsbD_eq_getElem]
  · simp [-BitVec.getLsbD_eq_getElem]
  · simp [decBarr, guardOf, -BitVec.getLsbD_eq_getElem]
theorem barw (o : BarwOp) : Statement (.barw o) := by
  intro h _
  show decodeThread (cat (cat (cat (cat (cat 0x96#8 o.g.code) o.d) o.a) 0#31) o.n) = _
  refine decodeThread_of (g := o.g) rfl h ?_ ((parse_96 _ ?_).trans ?_)
  · simp [guardOf, -BitVec.getLsbD_eq_getElem]
  · simp [-BitVec.getLsbD_eq_getElem]
  · simp [decBarw, guardOf, -BitVec.getLsbD_eq_getElem]
theorem bari (o : BariOp) : Statement (.bari o) := by
  intro h _
  show decodeThread (cat (cat (cat (cat (cat (cat 0x97#8 o.g.code) 0#8) o.a) o.b) 0#23) o.n) = _
  refine decodeThread_of (g := o.g) rfl h ?_ ((parse_97 _ ?_).trans ?_)
  · simp [guardOf, -BitVec.getLsbD_eq_getElem]
  · simp [-BitVec.getLsbD_eq_getElem]
  · simp [decBari, guardOf, -BitVec.getLsbD_eq_getElem]
theorem wopen (o : R2f) : Statement (.wopen o) := by
  intro h _
  show decodeThread (cat (cat (cat (cat (cat (cat (cat 0x98#8 o.g.code) o.d) o.a) 0#8) 0#8) 0#18) (BitVec.ofBool o.f)) = _
  refine decodeThread_of (g := o.g) rfl h ?_ ((parse_98 _ ?_).trans ?_)
  · simp [guardOf, -BitVec.getLsbD_eq_getElem]
  · simp [-BitVec.getLsbD_eq_getElem]
  · simp [decWopen, guardOf, -BitVec.getLsbD_eq_getElem]
theorem wclose (o : RegOp) : Statement (.wclose o) := by
  intro h _
  show decodeThread (cat (cat (cat (cat (cat (cat 0x99#8 o.g.code) 0#8) o.a) 0#8) 0#8) 0#19) = _
  refine decodeThread_of (g := o.g) rfl h ?_ ((parse_99 _ ?_).trans ?_)
  · simp [guardOf, -BitVec.getLsbD_eq_getElem]
  · simp [-BitVec.getLsbD_eq_getElem]
  · simp [decWclose, guardOf, -BitVec.getLsbD_eq_getElem]
theorem subsc (o : R3) : Statement (.subsc o) := by
  intro h _
  show decodeThread (cat (cat (cat (cat (cat (cat 0x9A#8 o.g.code) o.d) o.a) o.b) 0#8) 0#19) = _
  refine decodeThread_of (g := o.g) rfl h ?_ ((parse_9A _ ?_).trans ?_)
  · simp [guardOf, -BitVec.getLsbD_eq_getElem]
  · simp [-BitVec.getLsbD_eq_getElem]
  · simp [decSubsc, guardOf, -BitVec.getLsbD_eq_getElem]
theorem unsubsc (o : RegOp) : Statement (.unsubsc o) := by
  intro h _
  show decodeThread (cat (cat (cat (cat (cat (cat 0x9B#8 o.g.code) 0#8) o.a) 0#8) 0#8) 0#19) = _
  refine decodeThread_of (g := o.g) rfl h ?_ ((parse_9B _ ?_).trans ?_)
  · simp [guardOf, -BitVec.getLsbD_eq_getElem]
  · simp [-BitVec.getLsbD_eq_getElem]
  · simp [decUnsubsc, guardOf, -BitVec.getLsbD_eq_getElem]
theorem vwait (o : VwaitOp) : Statement (.vwait o) := by
  intro h _
  show decodeThread (cat (cat (cat (cat (cat (cat (cat 0x9C#8 o.g.code) o.d) o.a) o.b) o.c) 0#18) (BitVec.ofBool o.tf)) = _
  refine decodeThread_of (g := o.g) rfl h ?_ ((parse_9C _ ?_).trans ?_)
  · simp [guardOf, -BitVec.getLsbD_eq_getElem]
  · simp [-BitVec.getLsbD_eq_getElem]
  · simp [decVwait, guardOf, -BitVec.getLsbD_eq_getElem]
theorem kvref (o : KvOp) : Statement (.kvref o) := by
  intro h _
  show decodeThread (cat (cat (cat (cat (cat (cat (cat (cat (cat (cat 0x9D#8 o.g.code) o.d) o.a) 0#8) 0#8) o.scope.code) o.ord.code) 0#5) 0#1) o.n) = _
  refine decodeThread_of (g := o.g) rfl h ?_ ((parse_9D _ ?_).trans ?_)
  · simp [guardOf, -BitVec.getLsbD_eq_getElem]
  · simp [-BitVec.getLsbD_eq_getElem]
  · simp [decKvref, decKvrefClaim, guardOf, -BitVec.getLsbD_eq_getElem]
theorem kvrefClaim (o : KvOp) : Statement (.kvrefClaim o) := by
  intro h _
  show decodeThread (cat (cat (cat (cat (cat (cat (cat (cat (cat (cat 0x9D#8 o.g.code) o.d) o.a) 0#8) 0#8) o.scope.code) o.ord.code) 0#5) 1#1) o.n) = _
  refine decodeThread_of (g := o.g) rfl h ?_ ((parse_9D _ ?_).trans ?_)
  · simp [guardOf, -BitVec.getLsbD_eq_getElem]
  · simp [-BitVec.getLsbD_eq_getElem]
  · simp [decKvref, decKvrefClaim, guardOf, -BitVec.getLsbD_eq_getElem]
theorem kvunref (o : KvOp) : Statement (.kvunref o) := by
  intro h _
  show decodeThread (cat (cat (cat (cat (cat (cat (cat (cat (cat (cat 0x9E#8 o.g.code) o.d) o.a) 0#8) 0#8) o.scope.code) o.ord.code) 0#5) 0#1) o.n) = _
  refine decodeThread_of (g := o.g) rfl h ?_ ((parse_9E _ ?_).trans ?_)
  · simp [guardOf, -BitVec.getLsbD_eq_getElem]
  · simp [-BitVec.getLsbD_eq_getElem]
  · simp [decKvunref, guardOf, -BitVec.getLsbD_eq_getElem]
theorem launch (o : R3) : Statement (.launch o) := by
  intro h _
  show decodeThread (cat (cat (cat (cat (cat (cat 0x9F#8 o.g.code) o.d) o.a) o.b) 0#8) 0#19) = _
  refine decodeThread_of (g := o.g) rfl h ?_ ((parse_9F _ ?_).trans ?_)
  · simp [guardOf, -BitVec.getLsbD_eq_getElem]
  · simp [-BitVec.getLsbD_eq_getElem]
  · simp [decLaunch, guardOf, -BitVec.getLsbD_eq_getElem]
theorem accld (o : AccOp) : Statement (.accld o) := by
  intro h _
  show decodeThread (cat (cat (cat (cat (cat (cat (cat (cat 0xA0#8 o.g.code) o.d) o.a) 0#8) 0#8) 0#11) o.w.code) o.t) = _
  refine decodeThread_of (g := o.g) rfl h ?_ ((parse_A0 _ ?_).trans ?_)
  · simp [guardOf, -BitVec.getLsbD_eq_getElem]
  · simp [-BitVec.getLsbD_eq_getElem]
  · simp [decAccld, guardOf, -BitVec.getLsbD_eq_getElem]
theorem accst (o : AccOp) : Statement (.accst o) := by
  intro h _
  show decodeThread (cat (cat (cat (cat (cat (cat (cat (cat 0xA1#8 o.g.code) o.d) o.a) 0#8) 0#8) 0#11) o.w.code) o.t) = _
  refine decodeThread_of (g := o.g) rfl h ?_ ((parse_A1 _ ?_).trans ?_)
  · simp [guardOf, -BitVec.getLsbD_eq_getElem]
  · simp [-BitVec.getLsbD_eq_getElem]
  · simp [decAccst, guardOf, -BitVec.getLsbD_eq_getElem]
theorem tbw (o : TileOp) : Statement (.tbw o) := by
  intro h _
  show decodeThread (cat (cat (cat 0xA2#8 o.g.code) 0#45) o.t) = _
  refine decodeThread_of (g := o.g) rfl h ?_ ((parse_A2 _ ?_).trans ?_)
  · simp [guardOf, -BitVec.getLsbD_eq_getElem]
  · simp [-BitVec.getLsbD_eq_getElem]
  · simp [decTbw, guardOf, -BitVec.getLsbD_eq_getElem]
theorem tba (o : TileOp) : Statement (.tba o) := by
  intro h _
  show decodeThread (cat (cat (cat 0xA3#8 o.g.code) 0#45) o.t) = _
  refine decodeThread_of (g := o.g) rfl h ?_ ((parse_A3 _ ?_).trans ?_)
  · simp [guardOf, -BitVec.getLsbD_eq_getElem]
  · simp [-BitVec.getLsbD_eq_getElem]
  · simp [decTba, guardOf, -BitVec.getLsbD_eq_getElem]
theorem sysr (o : SysOp) : Statement (.sysr o) := by
  intro h _
  show decodeThread (cat (cat (cat (cat (cat (cat (cat 0xC0#8 o.g.code) o.d) (o.x.getD 0#8)) 0#2) (BitVec.ofBool o.x.isSome)) 0#24) o.code.code) = _
  refine decodeThread_of (g := o.g) rfl h ?_ ((parse_C0 _ ?_).trans ?_)
  · simp [guardOf, -BitVec.getLsbD_eq_getElem]
  · simp [-BitVec.getLsbD_eq_getElem]
  · simp [decSysr, guardOf, -BitVec.getLsbD_eq_getElem]
theorem sysw (o : SysOp) : Statement (.sysw o) := by
  intro h _
  show decodeThread (cat (cat (cat (cat (cat (cat (cat 0xC1#8 o.g.code) o.d) (o.x.getD 0#8)) 0#2) (BitVec.ofBool o.x.isSome)) 0#24) o.code.code) = _
  refine decodeThread_of (g := o.g) rfl h ?_ ((parse_C1 _ ?_).trans ?_)
  · simp [guardOf, -BitVec.getLsbD_eq_getElem]
  · simp [-BitVec.getLsbD_eq_getElem]
  · simp [decSysw, guardOf, -BitVec.getLsbD_eq_getElem]
theorem eret (g : Guard) : Statement (.eret g) := by
  intro h _
  show decodeThread (cat (cat 0xC2#8 g.code) 0#51) = _
  refine decodeThread_of (g := g) rfl h ?_ ((parse_C2 _ ?_).trans ?_)
  · simp [guardOf, -BitVec.getLsbD_eq_getElem]
  · simp [-BitVec.getLsbD_eq_getElem]
  · simp [decEret, guardOf, -BitVec.getLsbD_eq_getElem]
theorem tlbiAll (g : Guard) : Statement (.tlbiAll g) := by
  intro h _
  show decodeThread (cat (cat 0xC3#8 g.code) 0#51) = _
  refine decodeThread_of (g := g) rfl h ?_ ((parse_C3 _ ?_).trans ?_)
  · simp [guardOf, -BitVec.getLsbD_eq_getElem]
  · simp [-BitVec.getLsbD_eq_getElem]
  · simp [decTlbiAll, decTlbiAsid, decTlbiVa, guardOf, -BitVec.getLsbD_eq_getElem]
theorem tlbiAsid (o : RegOp) : Statement (.tlbiAsid o) := by
  intro h _
  show decodeThread (cat (cat (cat (cat (cat 0xC3#8 o.g.code) 0#8) o.a) 0#33) 1#2) = _
  refine decodeThread_of (g := o.g) rfl h ?_ ((parse_C3 _ ?_).trans ?_)
  · simp [guardOf, -BitVec.getLsbD_eq_getElem]
  · simp [-BitVec.getLsbD_eq_getElem]
  · unfold decTlbiAll decTlbiAsid decTlbiVa
    rw [field_of_bit 0]
    · simp [guardOf, slotOf, -BitVec.getLsbD_eq_getElem]
    · simp [-BitVec.getLsbD_eq_getElem]
theorem tlbiVa (o : R2b) : Statement (.tlbiVa o) := by
  intro h _
  show decodeThread (cat (cat (cat (cat (cat (cat 0xC3#8 o.g.code) 0#8) o.a) o.b) 0#25) 2#2) = _
  refine decodeThread_of (g := o.g) rfl h ?_ ((parse_C3 _ ?_).trans ?_)
  · simp [guardOf, -BitVec.getLsbD_eq_getElem]
  · simp [-BitVec.getLsbD_eq_getElem]
  · unfold decTlbiAll decTlbiAsid decTlbiVa
    rw [field_of_bit 1]
    · simp [guardOf, slotOf, -BitVec.getLsbD_eq_getElem]
    · simp [-BitVec.getLsbD_eq_getElem]
theorem cflush (o : FlushOp) : Statement (.cflush o) := by
  intro h _
  show decodeThread (cat (cat (cat (cat (cat (cat 0xC4#8 o.g.code) 0#8) o.a) 0#33) (BitVec.ofBool o.inv)) 0#1) = _
  refine decodeThread_of (g := o.g) rfl h ?_ ((parse_C4 _ ?_).trans ?_)
  · simp [guardOf, -BitVec.getLsbD_eq_getElem]
  · simp [-BitVec.getLsbD_eq_getElem]
  · simp [decCflush, decCflushAll, guardOf, -BitVec.getLsbD_eq_getElem]
theorem cflushAll (g : Guard) : Statement (.cflushAll g) := by
  intro h _
  show decodeThread (cat (cat (cat 0xC4#8 g.code) 0#50) 1#1) = _
  refine decodeThread_of (g := g) rfl h ?_ ((parse_C4 _ ?_).trans ?_)
  · simp [guardOf, -BitVec.getLsbD_eq_getElem]
  · simp [-BitVec.getLsbD_eq_getElem]
  · simp [decCflush, decCflushAll, guardOf, -BitVec.getLsbD_eq_getElem]
theorem cinval (o : CinvalOp) : Statement (.cinval o) := by
  intro h _
  show decodeThread (cat (cat (cat (cat 0xC5#8 o.g.code) 0#48) (BitVec.ofBool o.wide)) o.tgt.code) = _
  refine decodeThread_of (g := o.g) rfl h ?_ ((parse_C5 _ ?_).trans ?_)
  · simp [guardOf, -BitVec.getLsbD_eq_getElem]
  · simp [-BitVec.getLsbD_eq_getElem]
  · simp [decCinval, guardOf, -BitVec.getLsbD_eq_getElem]
theorem idle (o : IdleOp) : Statement (.idle o) := by
  intro h _
  show decodeThread (cat (cat (cat (cat (cat (cat 0xC6#8 o.g.code) o.d) 0#8) o.b) 0#25) o.mask) = _
  refine decodeThread_of (g := o.g) rfl h ?_ ((parse_C6 _ ?_).trans ?_)
  · simp [guardOf, -BitVec.getLsbD_eq_getElem]
  · simp [-BitVec.getLsbD_eq_getElem]
  · simp [decIdle, guardOf, -BitVec.getLsbD_eq_getElem]
theorem dbgrRd (o : DbgOp) : Statement (.dbgrRd o) := by
  intro h _
  show decodeThread (cat (cat (cat (cat (cat 0xC7#8 o.g.code) o.d) 0#33) o.n) 0#1) = _
  refine decodeThread_of (g := o.g) rfl h ?_ ((parse_C7 _ ?_).trans ?_)
  · simp [guardOf, -BitVec.getLsbD_eq_getElem]
  · simp [-BitVec.getLsbD_eq_getElem]
  · simp [decDbgrRd, decDbgrWr, guardOf, -BitVec.getLsbD_eq_getElem]
theorem dbgrWr (o : DbgOp) : Statement (.dbgrWr o) := by
  intro h _
  show decodeThread (cat (cat (cat (cat (cat 0xC7#8 o.g.code) o.d) 0#33) o.n) 1#1) = _
  refine decodeThread_of (g := o.g) rfl h ?_ ((parse_C7 _ ?_).trans ?_)
  · simp [guardOf, -BitVec.getLsbD_eq_getElem]
  · simp [-BitVec.getLsbD_eq_getElem]
  · simp [decDbgrRd, decDbgrWr, guardOf, -BitVec.getLsbD_eq_getElem]
theorem idleStep (o : Header) : Statement (.idleStep o) := by
  intro h _
  exact idleStep_decodes o
theorem kadd (o : KOp) : Statement (.kadd o) := by
  intro h _
  show decodeSlot .s (cat (cat (cat (cat (cat (cat (cat (cat 0x00#6 (BitVec.ofBool o.w.h)) o.w.q) o.d) o.a) o.b) 0#2) (BitVec.ofBool o.x)) (BitVec.ofBool o.i)) = _
  refine decodeSlot_of h rfl ((parseS_00 _ ?_).trans ?_)
  · simp [-BitVec.getLsbD_eq_getElem]
  · simp [decKadd, slotOf, -BitVec.getLsbD_eq_getElem]
theorem ksub (o : KOp) : Statement (.ksub o) := by
  intro h _
  show decodeSlot .s (cat (cat (cat (cat (cat (cat (cat (cat 0x01#6 (BitVec.ofBool o.w.h)) o.w.q) o.d) o.a) o.b) 0#2) (BitVec.ofBool o.x)) (BitVec.ofBool o.i)) = _
  refine decodeSlot_of h rfl ((parseS_01 _ ?_).trans ?_)
  · simp [-BitVec.getLsbD_eq_getElem]
  · simp [decKsub, slotOf, -BitVec.getLsbD_eq_getElem]
theorem kmul (o : KOp) : Statement (.kmul o) := by
  intro h _
  show decodeSlot .s (cat (cat (cat (cat (cat (cat (cat (cat 0x02#6 (BitVec.ofBool o.w.h)) o.w.q) o.d) o.a) o.b) 0#2) (BitVec.ofBool o.x)) (BitVec.ofBool o.i)) = _
  refine decodeSlot_of h rfl ((parseS_02 _ ?_).trans ?_)
  · simp [-BitVec.getLsbD_eq_getElem]
  · simp [decKmul, slotOf, -BitVec.getLsbD_eq_getElem]
theorem kand (o : KOp) : Statement (.kand o) := by
  intro h _
  show decodeSlot .s (cat (cat (cat (cat (cat (cat (cat (cat 0x03#6 (BitVec.ofBool o.w.h)) o.w.q) o.d) o.a) o.b) 0#2) (BitVec.ofBool o.x)) (BitVec.ofBool o.i)) = _
  refine decodeSlot_of h rfl ((parseS_03 _ ?_).trans ?_)
  · simp [-BitVec.getLsbD_eq_getElem]
  · simp [decKand, slotOf, -BitVec.getLsbD_eq_getElem]
theorem kor (o : KOp) : Statement (.kor o) := by
  intro h _
  show decodeSlot .s (cat (cat (cat (cat (cat (cat (cat (cat 0x04#6 (BitVec.ofBool o.w.h)) o.w.q) o.d) o.a) o.b) 0#2) (BitVec.ofBool o.x)) (BitVec.ofBool o.i)) = _
  refine decodeSlot_of h rfl ((parseS_04 _ ?_).trans ?_)
  · simp [-BitVec.getLsbD_eq_getElem]
  · simp [decKor, slotOf, -BitVec.getLsbD_eq_getElem]
theorem kxor (o : KOp) : Statement (.kxor o) := by
  intro h _
  show decodeSlot .s (cat (cat (cat (cat (cat (cat (cat (cat 0x05#6 (BitVec.ofBool o.w.h)) o.w.q) o.d) o.a) o.b) 0#2) (BitVec.ofBool o.x)) (BitVec.ofBool o.i)) = _
  refine decodeSlot_of h rfl ((parseS_05 _ ?_).trans ?_)
  · simp [-BitVec.getLsbD_eq_getElem]
  · simp [decKxor, slotOf, -BitVec.getLsbD_eq_getElem]
theorem kshl (o : KOp) : Statement (.kshl o) := by
  intro h _
  show decodeSlot .s (cat (cat (cat (cat (cat (cat (cat (cat 0x06#6 (BitVec.ofBool o.w.h)) o.w.q) o.d) o.a) o.b) 0#2) (BitVec.ofBool o.x)) (BitVec.ofBool o.i)) = _
  refine decodeSlot_of h rfl ((parseS_06 _ ?_).trans ?_)
  · simp [-BitVec.getLsbD_eq_getElem]
  · simp [decKshl, slotOf, -BitVec.getLsbD_eq_getElem]
theorem kshr (o : KOp) : Statement (.kshr o) := by
  intro h _
  show decodeSlot .s (cat (cat (cat (cat (cat (cat (cat (cat 0x07#6 (BitVec.ofBool o.w.h)) o.w.q) o.d) o.a) o.b) 0#2) (BitVec.ofBool o.x)) (BitVec.ofBool o.i)) = _
  refine decodeSlot_of h rfl ((parseS_07 _ ?_).trans ?_)
  · simp [-BitVec.getLsbD_eq_getElem]
  · simp [decKshr, slotOf, -BitVec.getLsbD_eq_getElem]
theorem kmin (o : KOp) : Statement (.kmin o) := by
  intro h _
  show decodeSlot .s (cat (cat (cat (cat (cat (cat (cat (cat 0x08#6 (BitVec.ofBool o.w.h)) o.w.q) o.d) o.a) o.b) 0#2) (BitVec.ofBool o.x)) (BitVec.ofBool o.i)) = _
  refine decodeSlot_of h rfl ((parseS_08 _ ?_).trans ?_)
  · simp [-BitVec.getLsbD_eq_getElem]
  · simp [decKmin, slotOf, -BitVec.getLsbD_eq_getElem]
theorem kmax (o : KOp) : Statement (.kmax o) := by
  intro h _
  show decodeSlot .s (cat (cat (cat (cat (cat (cat (cat (cat 0x09#6 (BitVec.ofBool o.w.h)) o.w.q) o.d) o.a) o.b) 0#2) (BitVec.ofBool o.x)) (BitVec.ofBool o.i)) = _
  refine decodeSlot_of h rfl ((parseS_09 _ ?_).trans ?_)
  · simp [-BitVec.getLsbD_eq_getElem]
  · simp [decKmax, slotOf, -BitVec.getLsbD_eq_getElem]
theorem kaddi (o : KImm10) : Statement (.kaddi o) := by
  intro h _
  show decodeSlot .s (cat (cat (cat (cat (cat 0x0A#6 (BitVec.ofBool o.w.h)) o.w.q) o.d) o.a) o.imm) = _
  refine decodeSlot_of h rfl ((parseS_0A _ ?_).trans ?_)
  · simp [-BitVec.getLsbD_eq_getElem]
  · simp [decKaddi, slotOf, -BitVec.getLsbD_eq_getElem]
theorem kmovi (o : KImm16) : Statement (.kmovi o) := by
  intro h _
  show decodeSlot .s (cat (cat (cat (cat 0x0B#6 (BitVec.ofBool o.w.h)) o.w.q) o.d) o.imm) = _
  refine decodeSlot_of h rfl ((parseS_0B _ ?_).trans ?_)
  · simp [-BitVec.getLsbD_eq_getElem]
  · simp [decKmovi, slotOf, -BitVec.getLsbD_eq_getElem]
theorem kcmp (o : KCmpOp) : Statement (.kcmp o) := by
  intro h _
  show decodeSlot .s (cat (cat (cat (cat (cat (cat (cat (cat 0x0C#6 (BitVec.ofBool o.w.h)) o.w.q) o.qd) o.qe) o.a) o.b) o.cond.code) (BitVec.ofBool o.i)) = _
  refine decodeSlot_of h rfl ((parseS_0C _ ?_).trans ?_)
  · simp [-BitVec.getLsbD_eq_getElem]
  · simp [decKcmp, slotOf, -BitVec.getLsbD_eq_getElem]
theorem ksel (o : KSelOp) : Statement (.ksel o) := by
  intro h _
  show decodeSlot .s (cat (cat (cat (cat (cat (cat (cat 0x0D#6 (BitVec.ofBool o.w.h)) o.w.q) o.d) o.a) o.b) o.q) (BitVec.ofBool o.n)) = _
  refine decodeSlot_of h rfl ((parseS_0D _ ?_).trans ?_)
  · simp [-BitVec.getLsbD_eq_getElem]
  · simp [decKsel, slotOf, -BitVec.getLsbD_eq_getElem]
theorem kld (o : KImm10) : Statement (.kld o) := by
  intro h _
  show decodeSlot .s (cat (cat (cat (cat (cat 0x0E#6 (BitVec.ofBool o.w.h)) o.w.q) o.d) o.a) o.imm) = _
  refine decodeSlot_of h rfl ((parseS_0E _ ?_).trans ?_)
  · simp [-BitVec.getLsbD_eq_getElem]
  · simp [decKld, slotOf, -BitVec.getLsbD_eq_getElem]
theorem kst (o : KImm10) : Statement (.kst o) := by
  intro h _
  show decodeSlot .s (cat (cat (cat (cat (cat 0x0F#6 (BitVec.ofBool o.w.h)) o.w.q) o.d) o.a) o.imm) = _
  refine decodeSlot_of h rfl ((parseS_0F _ ?_).trans ?_)
  · simp [-BitVec.getLsbD_eq_getElem]
  · simp [decKst, slotOf, -BitVec.getLsbD_eq_getElem]
theorem scfg (o : StreamImm) : Statement (.scfg o) := by
  intro h _
  show decodeSlot .m (cat (cat (cat (cat (cat 0x00#6 (BitVec.ofBool o.w.h)) o.w.q) o.s) o.a) o.imm) = _
  refine decodeSlot_of h rfl ((parseM_00 _ ?_).trans ?_)
  · simp [-BitVec.getLsbD_eq_getElem]
  · simp [decScfg, slotOf, -BitVec.getLsbD_eq_getElem]
theorem sbase (o : StreamImm) : Statement (.sbase o) := by
  intro h _
  show decodeSlot .m (cat (cat (cat (cat (cat 0x01#6 (BitVec.ofBool o.w.h)) o.w.q) o.s) o.a) o.imm) = _
  refine decodeSlot_of h rfl ((parseM_01 _ ?_).trans ?_)
  · simp [-BitVec.getLsbD_eq_getElem]
  · simp [decSbase, slotOf, -BitVec.getLsbD_eq_getElem]
theorem sadv (o : SadvOp) : Statement (.sadv o) := by
  intro h _
  show decodeSlot .m (cat (cat (cat (cat (cat 0x02#6 (BitVec.ofBool o.w.h)) o.w.q) o.s) 0#7) o.n) = _
  refine decodeSlot_of h rfl ((parseM_02 _ ?_).trans ?_)
  · simp [-BitVec.getLsbD_eq_getElem]
  · simp [decSadv, decSadvB, slotOf, -BitVec.getLsbD_eq_getElem]
theorem sadvB (o : StreamK) : Statement (.sadvB o) := by
  intro h _
  show decodeSlot .m (cat (cat (cat (cat (cat (cat 0x02#6 (BitVec.ofBool o.w.h)) o.w.q) o.s) 1#1) o.a) 0#11) = _
  refine decodeSlot_of h rfl ((parseM_02 _ ?_).trans ?_)
  · simp [-BitVec.getLsbD_eq_getElem]
  · unfold decSadv decSadvB
    rw [field_of_bit 6]
    · simp [guardOf, slotOf, -BitVec.getLsbD_eq_getElem]
    · simp [-BitVec.getLsbD_eq_getElem]
theorem sgbt (o : StreamK) : Statement (.sgbt o) := by
  intro h _
  show decodeSlot .m (cat (cat (cat (cat (cat 0x03#6 (BitVec.ofBool o.w.h)) o.w.q) o.s) o.a) 0#12) = _
  refine decodeSlot_of h rfl ((parseM_03 _ ?_).trans ?_)
  · simp [-BitVec.getLsbD_eq_getElem]
  · simp [decSgbt, slotOf, -BitVec.getLsbD_eq_getElem]
theorem sropeAdj (o : RopeOp) : Statement (.sropeAdj o) := by
  intro h _
  show decodeSlot .m (cat (cat (cat (cat (cat (cat 0x04#6 (BitVec.ofBool o.w.h)) o.w.q) o.s) o.f) 0#2) 0#12) = _
  refine decodeSlot_of h rfl ((parseM_04 _ ?_).trans ?_)
  · simp [-BitVec.getLsbD_eq_getElem]
  · simp [decSropeAdj, decSropeHalf, decSropeOff, slotOf, -BitVec.getLsbD_eq_getElem]
theorem sropeHalf (o : RopeOp) : Statement (.sropeHalf o) := by
  intro h _
  show decodeSlot .m (cat (cat (cat (cat (cat (cat 0x04#6 (BitVec.ofBool o.w.h)) o.w.q) o.s) o.f) 1#2) 0#12) = _
  refine decodeSlot_of h rfl ((parseM_04 _ ?_).trans ?_)
  · simp [-BitVec.getLsbD_eq_getElem]
  · simp [decSropeAdj, decSropeHalf, decSropeOff, slotOf, -BitVec.getLsbD_eq_getElem]
theorem sropeOff (o : StreamOp) : Statement (.sropeOff o) := by
  intro h _
  show decodeSlot .m (cat (cat (cat (cat (cat (cat 0x04#6 (BitVec.ofBool o.w.h)) o.w.q) o.s) 0#4) 2#2) 0#12) = _
  refine decodeSlot_of h rfl ((parseM_04 _ ?_).trans ?_)
  · simp [-BitVec.getLsbD_eq_getElem]
  · simp [decSropeAdj, decSropeHalf, decSropeOff, slotOf, -BitVec.getLsbD_eq_getElem]
theorem cbi (o : CbiOp) : Statement (.cbi o) := by
  intro h _
  show decodeSlot .m (cat (cat (cat (cat (cat (cat 0x05#6 (BitVec.ofBool o.w.h)) o.w.q) o.c) o.a) o.b) 0#7) = _
  refine decodeSlot_of h rfl ((parseM_05 _ ?_).trans ?_)
  · simp [-BitVec.getLsbD_eq_getElem]
  · simp [decCbi, slotOf, -BitVec.getLsbD_eq_getElem]
theorem cbw (o : RingOp) : Statement (.cbw o) := by
  intro h _
  show decodeSlot .m (cat (cat (cat (cat (cat 0x06#6 (BitVec.ofBool o.w.h)) o.w.q) o.c) o.n) 0#11) = _
  refine decodeSlot_of h rfl ((parseM_06 _ ?_).trans ?_)
  · simp [-BitVec.getLsbD_eq_getElem]
  · simp [decCbw, slotOf, -BitVec.getLsbD_eq_getElem]
theorem cbf (o : RingOp) : Statement (.cbf o) := by
  intro h _
  show decodeSlot .m (cat (cat (cat (cat (cat 0x07#6 (BitVec.ofBool o.w.h)) o.w.q) o.c) o.n) 0#11) = _
  refine decodeSlot_of h rfl ((parseM_07 _ ?_).trans ?_)
  · simp [-BitVec.getLsbD_eq_getElem]
  · simp [decCbf, slotOf, -BitVec.getLsbD_eq_getElem]
theorem cbaF (o : RingOp) : Statement (.cbaF o) := by
  intro h _
  show decodeSlot .m (cat (cat (cat (cat (cat (cat 0x08#6 (BitVec.ofBool o.w.h)) o.w.q) o.c) o.n) 0#1) 0#10) = _
  refine decodeSlot_of h rfl ((parseM_08 _ ?_).trans ?_)
  · simp [-BitVec.getLsbD_eq_getElem]
  · simp [decCbaF, decCbaE, slotOf, -BitVec.getLsbD_eq_getElem]
theorem cbaE (o : RingOp) : Statement (.cbaE o) := by
  intro h _
  show decodeSlot .m (cat (cat (cat (cat (cat (cat 0x08#6 (BitVec.ofBool o.w.h)) o.w.q) o.c) o.n) 1#1) 0#10) = _
  refine decodeSlot_of h rfl ((parseM_08 _ ?_).trans ?_)
  · simp [-BitVec.getLsbD_eq_getElem]
  · simp [decCbaF, decCbaE, slotOf, -BitVec.getLsbD_eq_getElem]
theorem sscale (o : SscaleOp) : Statement (.sscale o) := by
  intro h _
  show decodeSlot .m (cat (cat (cat (cat (cat (cat (cat 0x09#6 (BitVec.ofBool o.w.h)) o.w.q) o.s) o.ss) o.gs) o.a) 0#6) = _
  refine decodeSlot_of h rfl ((parseM_09 _ ?_).trans ?_)
  · simp [-BitVec.getLsbD_eq_getElem]
  · simp [decSscale, slotOf, -BitVec.getLsbD_eq_getElem]
theorem smask (o : StreamK) : Statement (.smask o) := by
  intro h _
  show decodeSlot .m (cat (cat (cat (cat (cat 0x0A#6 (BitVec.ofBool o.w.h)) o.w.q) o.s) o.a) 0#12) = _
  refine decodeSlot_of h rfl ((parseM_0A _ ?_).trans ?_)
  · simp [-BitVec.getLsbD_eq_getElem]
  · simp [decSmask, slotOf, -BitVec.getLsbD_eq_getElem]
theorem xpush (o : XpushOp) : Statement (.xpush o) := by
  intro h _
  show decodeSlot .x (cat (cat (cat (cat (cat (cat 0x00#6 (BitVec.ofBool o.w.h)) o.w.q) o.s) (BitVec.ofBool o.e)) o.col) 0#12) = _
  refine decodeSlot_of h rfl ((parseX_00 _ ?_).trans ?_)
  · simp [-BitVec.getLsbD_eq_getElem]
  · simp [decXpush, slotOf, -BitVec.getLsbD_eq_getElem]
theorem xswap (w : Slot) : Statement (.xswap w) := by
  intro h _
  show decodeSlot .x (cat (cat (cat 0x01#6 (BitVec.ofBool w.h)) w.q) 0#22) = _
  refine decodeSlot_of h rfl ((parseX_01 _ ?_).trans ?_)
  · simp [-BitVec.getLsbD_eq_getElem]
  · simp [decXswap, slotOf, -BitVec.getLsbD_eq_getElem]
theorem xshift (o : BeatOp) : Statement (.xshift o) := by
  intro h _
  show decodeSlot .x (cat (cat (cat (cat (cat (cat (cat 0x02#6 (BitVec.ofBool o.w.h)) o.w.q) o.t) o.row) (BitVec.ofBool o.ar)) o.s) 0#6) = _
  refine decodeSlot_of h rfl ((parseX_02 _ ?_).trans ?_)
  · simp [-BitVec.getLsbD_eq_getElem]
  · simp [decXshift, slotOf, -BitVec.getLsbD_eq_getElem]
theorem xacc (o : BeatOp) : Statement (.xacc o) := by
  intro h _
  show decodeSlot .x (cat (cat (cat (cat (cat (cat (cat 0x03#6 (BitVec.ofBool o.w.h)) o.w.q) o.t) o.row) (BitVec.ofBool o.ar)) o.s) 0#6) = _
  refine decodeSlot_of h rfl ((parseX_03 _ ?_).trans ?_)
  · simp [-BitVec.getLsbD_eq_getElem]
  · simp [decXacc, slotOf, -BitVec.getLsbD_eq_getElem]
theorem xdrain (o : DrainOp) : Statement (.xdrain o) := by
  intro h _
  show decodeSlot .x (cat (cat (cat (cat (cat (cat (cat (cat 0x04#6 (BitVec.ofBool o.w.h)) o.w.q) o.t) o.row) (BitVec.ofBool o.ar)) o.s) (BitVec.ofBool o.z)) 0#5) = _
  refine decodeSlot_of h rfl ((parseX_04 _ ?_).trans ?_)
  · simp [-BitVec.getLsbD_eq_getElem]
  · simp [decXdrain, slotOf, -BitVec.getLsbD_eq_getElem]
theorem xmask (o : XmaskOp) : Statement (.xmask o) := by
  intro h _
  show decodeSlot .x (cat (cat (cat (cat (cat 0x05#6 (BitVec.ofBool o.w.h)) o.w.q) o.a) 0#5) o.dc) = _
  refine decodeSlot_of h rfl ((parseX_05 _ ?_).trans ?_)
  · simp [-BitVec.getLsbD_eq_getElem]
  · simp [decXmask, slotOf, -BitVec.getLsbD_eq_getElem]
theorem xmode (o : XmodeOp) : Statement (.xmode o) := by
  intro h _
  show decodeSlot .x (cat (cat (cat (cat (cat 0x06#6 (BitVec.ofBool o.w.h)) o.w.q) o.af) o.wf) 0#14) = _
  refine decodeSlot_of h rfl ((parseX_06 _ ?_).trans ?_)
  · simp [-BitVec.getLsbD_eq_getElem]
  · simp [decXmode, slotOf, -BitVec.getLsbD_eq_getElem]
theorem yadd (o : Y3) : Statement (.yadd o) := by
  intro h _
  show decodeSlot .y (cat (cat (cat (cat (cat (cat 0x00#6 (BitVec.ofBool o.w.h)) o.w.q) o.d) o.a) o.b) (BitVec.ofBool o.f16)) = _
  refine decodeSlot_of h rfl ((parseY_00 _ ?_).trans ?_)
  · simp [-BitVec.getLsbD_eq_getElem]
  · simp [decYadd, slotOf, -BitVec.getLsbD_eq_getElem]
theorem ymul (o : Y3) : Statement (.ymul o) := by
  intro h _
  show decodeSlot .y (cat (cat (cat (cat (cat (cat 0x01#6 (BitVec.ofBool o.w.h)) o.w.q) o.d) o.a) o.b) (BitVec.ofBool o.f16)) = _
  refine decodeSlot_of h rfl ((parseY_01 _ ?_).trans ?_)
  · simp [-BitVec.getLsbD_eq_getElem]
  · simp [decYmul, slotOf, -BitVec.getLsbD_eq_getElem]
theorem yrsc (o : YSideOp) : Statement (.yrsc o) := by
  intro h _
  show decodeSlot .y (cat (cat (cat (cat (cat (cat (cat 0x02#6 (BitVec.ofBool o.w.h)) o.w.q) o.d) o.a) o.t) (BitVec.ofBool o.sw)) (BitVec.ofBool o.f16)) = _
  refine decodeSlot_of h rfl ((parseY_02 _ ?_).trans ?_)
  · simp [-BitVec.getLsbD_eq_getElem]
  · simp [decYrsc, slotOf, -BitVec.getLsbD_eq_getElem]
theorem yexp (o : YSideOp) : Statement (.yexp o) := by
  intro h _
  show decodeSlot .y (cat (cat (cat (cat (cat (cat (cat 0x03#6 (BitVec.ofBool o.w.h)) o.w.q) o.d) o.a) o.t) (BitVec.ofBool o.sw)) (BitVec.ofBool o.f16)) = _
  refine decodeSlot_of h rfl ((parseY_03 _ ?_).trans ?_)
  · simp [-BitVec.getLsbD_eq_getElem]
  · simp [decYexp, slotOf, -BitVec.getLsbD_eq_getElem]
theorem yrmax (o : YRedOp) : Statement (.yrmax o) := by
  intro h _
  show decodeSlot .y (cat (cat (cat (cat (cat (cat (cat (cat 0x04#6 (BitVec.ofBool o.w.h)) o.w.q) o.t) (BitVec.ofBool o.sw)) o.a) (BitVec.ofBool o.k)) 0#6) (BitVec.ofBool o.f16)) = _
  refine decodeSlot_of h rfl ((parseY_04 _ ?_).trans ?_)
  · simp [-BitVec.getLsbD_eq_getElem]
  · simp [decYrmax, slotOf, -BitVec.getLsbD_eq_getElem]
theorem yrsum (o : YRedOp) : Statement (.yrsum o) := by
  intro h _
  show decodeSlot .y (cat (cat (cat (cat (cat (cat (cat (cat 0x05#6 (BitVec.ofBool o.w.h)) o.w.q) o.t) (BitVec.ofBool o.sw)) o.a) (BitVec.ofBool o.k)) 0#6) (BitVec.ofBool o.f16)) = _
  refine decodeSlot_of h rfl ((parseY_05 _ ?_).trans ?_)
  · simp [-BitVec.getLsbD_eq_getElem]
  · simp [decYrsum, slotOf, -BitVec.getLsbD_eq_getElem]
theorem ymov (o : Y2) : Statement (.ymov o) := by
  intro h _
  show decodeSlot .y (cat (cat (cat (cat (cat (cat 0x06#6 (BitVec.ofBool o.w.h)) o.w.q) o.d) o.a) 0#7) (BitVec.ofBool o.f16)) = _
  refine decodeSlot_of h rfl ((parseY_06 _ ?_).trans ?_)
  · simp [-BitVec.getLsbD_eq_getElem]
  · simp [decYmov, slotOf, -BitVec.getLsbD_eq_getElem]
theorem ycvt (o : YcvtOp) : Statement (.ycvt o) := by
  intro h _
  show decodeSlot .y (cat (cat (cat (cat (cat (cat (cat (cat 0x07#6 (BitVec.ofBool o.w.h)) o.w.q) o.d) o.a) o.td.code) o.ovf.code) (BitVec.ofBool o.clr)) (BitVec.ofBool o.f16)) = _
  refine decodeSlot_of h rfl ((parseY_07 _ ?_).trans ?_)
  · simp [-BitVec.getLsbD_eq_getElem]
  · simp [decYcvt, slotOf, -BitVec.getLsbD_eq_getElem]
theorem ytr (o : Y2) : Statement (.ytr o) := by
  intro h _
  show decodeSlot .y (cat (cat (cat (cat (cat (cat 0x08#6 (BitVec.ofBool o.w.h)) o.w.q) o.d) o.a) 0#7) (BitVec.ofBool o.f16)) = _
  refine decodeSlot_of h rfl ((parseY_08 _ ?_).trans ?_)
  · simp [-BitVec.getLsbD_eq_getElem]
  · simp [decYtr, slotOf, -BitVec.getLsbD_eq_getElem]
theorem smst (o : SmstOp) : Statement (.smst o) := by
  intro h _
  show decodeSlot .y (cat (cat (cat (cat (cat (cat 0x09#6 (BitVec.ofBool o.w.h)) o.w.q) o.t) o.s) o.b) 0#6) = _
  refine decodeSlot_of h rfl ((parseY_09 _ ?_).trans ?_)
  · simp [-BitVec.getLsbD_eq_getElem]
  · simp [decSmst, slotOf, -BitVec.getLsbD_eq_getElem]
theorem smrg (o : SmrgOp) : Statement (.smrg o) := by
  intro h _
  show decodeSlot .y (cat (cat (cat (cat (cat (cat 0x0A#6 (BitVec.ofBool o.w.h)) o.w.q) o.t) o.s) o.n) 0#9) = _
  refine decodeSlot_of h rfl ((parseY_0A _ ?_).trans ?_)
  · simp [-BitVec.getLsbD_eq_getElem]
  · simp [decSmrg, slotOf, -BitVec.getLsbD_eq_getElem]
theorem ybarArv (o : YbarOp) : Statement (.ybarArv o) := by
  intro h _
  show decodeSlot .y (cat (cat (cat (cat (cat 0x0B#6 (BitVec.ofBool o.w.h)) o.w.q) o.t) 0#1) 0#15) = _
  refine decodeSlot_of h rfl ((parseY_0B _ ?_).trans ?_)
  · simp [-BitVec.getLsbD_eq_getElem]
  · simp [decYbarArv, decYbarWt, slotOf, -BitVec.getLsbD_eq_getElem]
theorem ybarWt (o : YbarOp) : Statement (.ybarWt o) := by
  intro h _
  show decodeSlot .y (cat (cat (cat (cat (cat 0x0B#6 (BitVec.ofBool o.w.h)) o.w.q) o.t) 1#1) 0#15) = _
  refine decodeSlot_of h rfl ((parseY_0B _ ?_).trans ?_)
  · simp [-BitVec.getLsbD_eq_getElem]
  · simp [decYbarArv, decYbarWt, slotOf, -BitVec.getLsbD_eq_getElem]
theorem ccpy (o : CcpyOp) : Statement (.ccpy o) := by
  intro h _
  show decodeSlot .c (cat (cat (cat (cat (cat (cat (cat 0x00#6 (BitVec.ofBool o.w.h)) o.w.q) o.s) o.d) o.ch) o.a) 0#5) = _
  refine decodeSlot_of h rfl ((parseC_00 _ ?_).trans ?_)
  · simp [-BitVec.getLsbD_eq_getElem]
  · simp [decCcpy, slotOf, -BitVec.getLsbD_eq_getElem]
theorem ccpn (o : CcpnOp) : Statement (.ccpn o) := by
  intro h _
  show decodeSlot .c (cat (cat (cat (cat (cat (cat 0x01#6 (BitVec.ofBool o.w.h)) o.w.q) o.a) o.ch) 0#1) 0#12) = _
  refine decodeSlot_of h rfl ((parseC_01 _ ?_).trans ?_)
  · simp [-BitVec.getLsbD_eq_getElem]
  · simp [decCcpn, decCcpnRing, slotOf, -BitVec.getLsbD_eq_getElem]
theorem ccpnRing (o : CcpnRingOp) : Statement (.ccpnRing o) := by
  intro h _
  show decodeSlot .c (cat (cat (cat (cat (cat (cat (cat (cat 0x01#6 (BitVec.ofBool o.w.h)) o.w.q) o.a) o.ch) 1#1) o.c) o.n) 0#6) = _
  refine decodeSlot_of h rfl ((parseC_01 _ ?_).trans ?_)
  · simp [-BitVec.getLsbD_eq_getElem]
  · simp [decCcpn, decCcpnRing, slotOf, -BitVec.getLsbD_eq_getElem]
theorem cgath (o : CcpyOp) : Statement (.cgath o) := by
  intro h _
  show decodeSlot .c (cat (cat (cat (cat (cat (cat (cat 0x02#6 (BitVec.ofBool o.w.h)) o.w.q) o.s) o.d) o.ch) o.a) 0#5) = _
  refine decodeSlot_of h rfl ((parseC_02 _ ?_).trans ?_)
  · simp [-BitVec.getLsbD_eq_getElem]
  · simp [decCgath, slotOf, -BitVec.getLsbD_eq_getElem]
theorem cscat (o : CcpyOp) : Statement (.cscat o) := by
  intro h _
  show decodeSlot .c (cat (cat (cat (cat (cat (cat (cat 0x03#6 (BitVec.ofBool o.w.h)) o.w.q) o.s) o.d) o.ch) o.a) 0#5) = _
  refine decodeSlot_of h rfl ((parseC_03 _ ?_).trans ?_)
  · simp [-BitVec.getLsbD_eq_getElem]
  · simp [decCscat, slotOf, -BitVec.getLsbD_eq_getElem]
theorem ccwt (o : CcwtOp) : Statement (.ccwt o) := by
  intro h _
  show decodeSlot .c (cat (cat (cat (cat (cat 0x04#6 (BitVec.ofBool o.w.h)) o.w.q) o.ch) o.n) 0#16) = _
  refine decodeSlot_of h rfl ((parseC_04 _ ?_).trans ?_)
  · simp [-BitVec.getLsbD_eq_getElem]
  · simp [decCcwt, slotOf, -BitVec.getLsbD_eq_getElem]
theorem fbr (o : FbrOp) : Statement (.fbr o) := by
  intro h _
  show decodeSlot .f (cat (cat (cat (cat (cat 0x00#6 0#1) o.q) o.a) (BitVec.ofBool o.z)) o.off) = _
  refine decodeSlot_of h (by simp [-BitVec.getLsbD_eq_getElem]) ((parseF_00 _ ?_).trans ?_)
  · simp [-BitVec.getLsbD_eq_getElem]
  · simp [decFbr, slotOf, -BitVec.getLsbD_eq_getElem]
theorem fjmp (o : FjmpOp) : Statement (.fjmp o) := by
  intro h _
  show decodeSlot .f (cat (cat (cat (cat 0x01#6 0#1) o.q) 0#1) o.off) = _
  refine decodeSlot_of h (by simp [-BitVec.getLsbD_eq_getElem]) ((parseF_01 _ ?_).trans ?_)
  · simp [-BitVec.getLsbD_eq_getElem]
  · simp [decFjmp, decFjmpIndirect, slotOf, -BitVec.getLsbD_eq_getElem]
theorem fjmpIndirect (o : FregOp) : Statement (.fjmpIndirect o) := by
  intro h _
  show decodeSlot .f (cat (cat (cat (cat (cat 0x01#6 0#1) o.q) 1#1) o.a) 0#15) = _
  refine decodeSlot_of h (by simp [-BitVec.getLsbD_eq_getElem]) ((parseF_01 _ ?_).trans ?_)
  · simp [-BitVec.getLsbD_eq_getElem]
  · simp [decFjmp, decFjmpIndirect, slotOf, -BitVec.getLsbD_eq_getElem]
theorem fcall (o : FcallOp) : Statement (.fcall o) := by
  intro h _
  show decodeSlot .f (cat (cat (cat (cat 0x02#6 0#1) o.q) o.l) o.off) = _
  refine decodeSlot_of h (by simp [-BitVec.getLsbD_eq_getElem]) ((parseF_02 _ ?_).trans ?_)
  · simp [-BitVec.getLsbD_eq_getElem]
  · simp [decFcall, slotOf, -BitVec.getLsbD_eq_getElem]
theorem fret (o : FregOp) : Statement (.fret o) := by
  intro h _
  show decodeSlot .f (cat (cat (cat (cat 0x03#6 0#1) o.q) o.a) 0#16) = _
  refine decodeSlot_of h (by simp [-BitVec.getLsbD_eq_getElem]) ((parseF_03 _ ?_).trans ?_)
  · simp [-BitVec.getLsbD_eq_getElem]
  · simp [decFret, slotOf, -BitVec.getLsbD_eq_getElem]
theorem floop (o : FloopOp) : Statement (.floop o) := by
  intro h _
  show decodeSlot .f (cat (cat (cat (cat (cat (cat 0x04#6 0#1) o.q) o.l) o.c) o.n) 0#8) = _
  refine decodeSlot_of h (by simp [-BitVec.getLsbD_eq_getElem]) ((parseF_04 _ ?_).trans ?_)
  · simp [-BitVec.getLsbD_eq_getElem]
  · simp [decFloop, slotOf, -BitVec.getLsbD_eq_getElem]
theorem gret (q : QReg) : Statement (.gret q) := by
  intro h _
  show decodeSlot .f (cat (cat (cat 0x05#6 0#1) q) 0#22) = _
  refine decodeSlot_of h (by simp [-BitVec.getLsbD_eq_getElem]) ((parseF_05 _ ?_).trans ?_)
  · simp [-BitVec.getLsbD_eq_getElem]
  · simp [decGret, slotOf, -BitVec.getLsbD_eq_getElem]
theorem ftrap (o : FnumOp) : Statement (.ftrap o) := by
  intro h _
  show decodeSlot .f (cat (cat (cat (cat 0x06#6 0#1) o.q) 0#14) o.n) = _
  refine decodeSlot_of h (by simp [-BitVec.getLsbD_eq_getElem]) ((parseF_06 _ ?_).trans ?_)
  · simp [-BitVec.getLsbD_eq_getElem]
  · simp [decFtrap, slotOf, -BitVec.getLsbD_eq_getElem]
theorem fbrk (o : FnumOp) : Statement (.fbrk o) := by
  intro h _
  show decodeSlot .f (cat (cat (cat (cat 0x07#6 0#1) o.q) 0#14) o.n) = _
  refine decodeSlot_of h (by simp [-BitVec.getLsbD_eq_getElem]) ((parseF_07 _ ?_).trans ?_)
  · simp [-BitVec.getLsbD_eq_getElem]
  · simp [decFbrk, slotOf, -BitVec.getLsbD_eq_getElem]
theorem ffence (o : FfenceOp) : Statement (.ffence o) := by
  intro h _
  show decodeSlot .f (cat (cat (cat (cat 0x08#6 0#1) o.q) 0#20) o.kind.code) = _
  refine decodeSlot_of h (by simp [-BitVec.getLsbD_eq_getElem]) ((parseF_08 _ ?_).trans ?_)
  · simp [-BitVec.getLsbD_eq_getElem]
  · simp [decFfence, slotOf, -BitVec.getLsbD_eq_getElem]
theorem fwait (o : FnumOp) : Statement (.fwait o) := by
  intro h _
  show decodeSlot .f (cat (cat (cat (cat 0x09#6 0#1) o.q) 0#14) o.n) = _
  refine decodeSlot_of h (by simp [-BitVec.getLsbD_eq_getElem]) ((parseF_09 _ ?_).trans ?_)
  · simp [-BitVec.getLsbD_eq_getElem]
  · simp [decFwait, slotOf, -BitVec.getLsbD_eq_getElem]
theorem resultLanding (x0 : Nat) (x1 : Nat) : Statement (.resultLanding x0 x1) := fun _ he => absurd rfl he
theorem streamReadReturn (x0 : Nat) (x1 : Nat) : Statement (.streamReadReturn x0 x1) := fun _ he => absurd rfl he
theorem ringWaitSatisfied (x0 : Nat) (x1 : Nat) : Statement (.ringWaitSatisfied x0 x1) := fun _ he => absurd rfl he
theorem copyWaitSatisfied (x0 : Nat) (x1 : Nat) : Statement (.copyWaitSatisfied x0 x1) := fun _ he => absurd rfl he
theorem tileBarrierWaitSatisfied (x0 : Nat) (x1 : Nat) : Statement (.tileBarrierWaitSatisfied x0 x1) := fun _ he => absurd rfl he
theorem tileBarrierArrival (x0 : Nat) (x1 : Nat) : Statement (.tileBarrierArrival x0 x1) := fun _ he => absurd rfl he
theorem tbwWake (x0 : Nat) (x1 : Nat) : Statement (.tbwWake x0 x1) := fun _ he => absurd rfl he
theorem commandAcceptAfterBackpressure (x0 : Nat) (x1 : Nat) : Statement (.commandAcceptAfterBackpressure x0 x1) := fun _ he => absurd rfl he
theorem drainPoint (x0 : Nat) (x1 : Nat) : Statement (.drainPoint x0 x1) := fun _ he => absurd rfl he
theorem basinAgeExpiry (x0 : Nat) (x1 : Nat) (x2 : Addr) : Statement (.basinAgeExpiry x0 x1 x2) := fun _ he => absurd rfl he
theorem memoryResultReturn (x0 : Nat) (x1 : Nat) : Statement (.memoryResultReturn x0 x1) := fun _ he => absurd rfl he
theorem memWaitWake (x0 : Nat) (x1 : Nat) : Statement (.memWaitWake x0 x1) := fun _ he => absurd rfl he
theorem memWaitTimeout (x0 : Nat) (x1 : Nat) : Statement (.memWaitTimeout x0 x1) := fun _ he => absurd rfl he
theorem vwaitWake (x0 : Nat) (x1 : Nat) : Statement (.vwaitWake x0 x1) := fun _ he => absurd rfl he
theorem vwaitTimeout (x0 : Nat) (x1 : Nat) : Statement (.vwaitTimeout x0 x1) := fun _ he => absurd rfl he
theorem idleWake (x0 : Nat) (x1 : Nat) : Statement (.idleWake x0 x1) := fun _ he => absurd rfl he
theorem idleTimeout (x0 : Nat) (x1 : Nat) : Statement (.idleTimeout x0 x1) := fun _ he => absurd rfl he
theorem queueWaitWake (x0 : Nat) (x1 : Nat) : Statement (.queueWaitWake x0 x1) := fun _ he => absurd rfl he
theorem cwaitWake (x0 : Nat) (x1 : Nat) : Statement (.cwaitWake x0 x1) := fun _ he => absurd rfl he
theorem rootBroadcast (x0 : Nat) (x1 : Nat) : Statement (.rootBroadcast x0 x1) := fun _ he => absurd rfl he
theorem barwWake (x0 : Nat) (x1 : Nat) : Statement (.barwWake x0 x1) := fun _ he => absurd rfl he
theorem gatherBlock (x0 : Nat) (x1 : Nat) (x2 : W32) : Statement (.gatherBlock x0 x1 x2) := fun _ he => absurd rfl he
theorem copyCommandComplete (x0 : Nat) (x1 : Nat) (x2 : W32) : Statement (.copyCommandComplete x0 x1 x2) := fun _ he => absurd rfl he
theorem commandFault (x0 : Nat) (x1 : Nat) (x2 : W32) : Statement (.commandFault x0 x1 x2) := fun _ he => absurd rfl he
theorem blockPreempt (x0 : Nat) : Statement (.blockPreempt x0) := fun _ he => absurd rfl he
theorem dpboundExpiry (x0 : Nat) : Statement (.dpboundExpiry x0) := fun _ he => absurd rfl he
theorem launchQueueTailWrite (x0 : Nat) (x1 : W32) : Statement (.launchQueueTailWrite x0 x1) := fun _ he => absurd rfl he
theorem launchAccept (x0 : Nat) : Statement (.launchAccept x0) := fun _ he => absurd rfl he
theorem launchWaitPoll (x0 : Nat) : Statement (.launchWaitPoll x0) := fun _ he => absurd rfl he
theorem blockResidency (x0 : Nat) (x1 : Nat) : Statement (.blockResidency x0 x1) := fun _ he => absurd rfl he
theorem blockRetire (x0 : Nat) : Statement (.blockRetire x0) := fun _ he => absurd rfl he
theorem parkWake (x0 : Nat) : Statement (.parkWake x0) := fun _ he => absurd rfl he
theorem parkMonitorFreed (x0 : Nat) : Statement (.parkMonitorFreed x0) := fun _ he => absurd rfl he
theorem l1EvictionWriteback (x0 : Nat) (x1 : Nat) : Statement (.l1EvictionWriteback x0 x1) := fun _ he => absurd rfl he
theorem shootdownComplete (x0 : Nat) (x1 : Nat) : Statement (.shootdownComplete x0 x1) := fun _ he => absurd rfl he
theorem walkAccept (x0 : Nat) : Statement (.walkAccept x0) := fun _ he => absurd rfl he
theorem walkRestart (x0 : Nat) (x1 : Nat) : Statement (.walkRestart x0 x1) := fun _ he => absurd rfl he
theorem walkComplete (x0 : Nat) (x1 : Nat) : Statement (.walkComplete x0 x1) := fun _ he => absurd rfl he
theorem accessCountApply : Statement (.accessCountApply) := fun _ he => absurd rfl he
theorem faultRecordPost : Statement (.faultRecordPost) := fun _ he => absurd rfl he
theorem faultQueueRetry : Statement (.faultQueueRetry) := fun _ he => absurd rfl he
theorem ctxstLoadedWrite (x0 : Nat) (x1 : W64) : Statement (.ctxstLoadedWrite x0 x1) := fun _ he => absurd rfl he
theorem ctxstKillWrite (x0 : Nat) : Statement (.ctxstKillWrite x0) := fun _ he => absurd rfl he
theorem killComplete (x0 : Nat) : Statement (.killComplete x0) := fun _ he => absurd rfl he
theorem walkstkWrite (x0 : Nat) (x1 : W64) : Statement (.walkstkWrite x0 x1) := fun _ he => absurd rfl he
theorem fqbaseWrite (x0 : W64) : Statement (.fqbaseWrite x0) := fun _ he => absurd rfl he
theorem xtrigHreqWrite (x0 : Nat) : Statement (.xtrigHreqWrite x0) := fun _ he => absurd rfl he
theorem xtrigRreqWrite (x0 : Nat) : Statement (.xtrigRreqWrite x0) := fun _ he => absurd rfl he
theorem breakpointHit (x0 : Nat) (x1 : Nat) (x2 : Bool) : Statement (.breakpointHit x0 x1 x2) := fun _ he => absurd rfl he
theorem haltComplete (x0 : Nat) : Statement (.haltComplete x0) := fun _ he => absurd rfl he
theorem nostopTimeout (x0 : Nat) (x1 : Nat) : Statement (.nostopTimeout x0 x1) := fun _ he => absurd rfl he
theorem trctlWrite (x0 : Nat) (x1 : W64) : Statement (.trctlWrite x0 x1) := fun _ he => absurd rfl he
theorem traceSample (x0 : Nat) (x1 : Nat) (x2 : Nat) : Statement (.traceSample x0 x1 x2) := fun _ he => absurd rfl he
theorem hostRegisterWrite (x0 : Nat) (x1 : W64) : Statement (.hostRegisterWrite x0 x1) := fun _ he => absurd rfl he
theorem hostBar2Write (x0 : Nat) (x1 : Nat) (x2 : Nat) : Statement (.hostBar2Write x0 x1 x2) := fun _ he => absurd rfl he
theorem hostBar2Read (x0 : Nat) (x1 : Nat) : Statement (.hostBar2Read x0 x1) := fun _ he => absurd rfl he
theorem capabilityApply (x0 : Nat) : Statement (.capabilityApply x0) := fun _ he => absurd rfl he
theorem castWriteFlit (x0 : W32) (x1 : Nat) (x2 : List Byte) : Statement (.castWriteFlit x0 x1 x2) := fun _ he => absurd rfl he
theorem versionAdvanceFlit (x0 : W32) (x1 : W32) : Statement (.versionAdvanceFlit x0 x1) := fun _ he => absurd rfl he
theorem remoteAccessRequestFlit (x0 : Nat) (x1 : AwayKind) (x2 : Nat) (x3 : List Byte) : Statement (.remoteAccessRequestFlit x0 x1 x2 x3) := fun _ he => absurd rfl he
theorem responseFlit (x0 : Nat) (x1 : List Byte) : Statement (.responseFlit x0 x1) := fun _ he => absurd rfl he
theorem heartbeatFlit (x0 : Nat) : Statement (.heartbeatFlit x0) := fun _ he => absurd rfl he
theorem heartbeatTimer : Statement (.heartbeatTimer) := fun _ he => absurd rfl he
theorem portDown (x0 : Nat) : Statement (.portDown x0) := fun _ he => absurd rfl he
theorem accessTimeout (x0 : Nat) : Statement (.accessTimeout x0) := fun _ he => absurd rfl he
theorem deviceReset : Statement (.deviceReset) := fun _ he => absurd rfl he
theorem bootVerifyComplete : Statement (.bootVerifyComplete) := fun _ he => absurd rfl he
theorem doorbell : Statement (.doorbell) := fun _ he => absurd rfl he
theorem fusedSvnRaise : Statement (.fusedSvnRaise) := fun _ he => absurd rfl he
theorem attestationRequest (x0 : BitVec 256) : Statement (.attestationRequest x0) := fun _ he => absurd rfl he
theorem thermalThrottle : Statement (.thermalThrottle) := fun _ he => absurd rfl he
theorem thermalShutdown : Statement (.thermalShutdown) := fun _ he => absurd rfl he
theorem writeAcknowledgedAtHome (x0 : Nat) (x1 : Nat) : Statement (.writeAcknowledgedAtHome x0 x1) := fun _ he => absurd rfl he
theorem preemptResidencyExpiry (x0 : Nat) : Statement (.preemptResidencyExpiry x0) := fun _ he => absurd rfl he
theorem ageWrite (x0 : Nat) (x1 : W64) : Statement (.ageWrite x0 x1) := fun _ he => absurd rfl he
theorem pstatWrite (x0 : Nat) (x1 : Nat) (x2 : W64) : Statement (.pstatWrite x0 x1 x2) := fun _ he => absurd rfl he
theorem waitRemoteReread (x0 : Nat) (x1 : Nat) : Statement (.waitRemoteReread x0 x1) := fun _ he => absurd rfl he

end Encoding

end Sys2Proof.Laws
end

