-- ==== Sys2Proof/Laws/Slots.lean ====
section
/-! SUPPORT. What the shared operations of a bundle's slots and of checked accesses do: one lemma for each, which the proofs cite. -/

namespace Sys2Proof.Laws

open Sys2Proof Sys2Proof.Machine Sys2Proof.Safety
open Host (Outcome)

theorem insertLanding_perm (x : Landing) (l : List Landing) : (insertLanding x l).Perm (l ++ [x]) := by
  induction l with
  | nil => exact List.Perm.refl _
  | cons y l ih =>
    unfold insertLanding
    split
    · exact List.perm_append_singleton x (y :: l) |>.symm
    · exact ih.cons y

/-- An issuing slot operation does what its body does. -/
theorem slotOp_next {s t : State} {q : QReg} {b : Block} {f : Block → State → Except Stop State} (h : Issues s q b)
    (hf : f b s = .ok t) : slotOp q f s = .next t := by
  unfold slotOp
  rw [h.1]
  rcases h.2 with rfl | h2
  · simp [Tile.qreg, hf]
  · by_cases hq : q = 0#3 <;> simp [Tile.qreg, h2, hf, hq]
/-- An issuing slot operation whose body stops notes the stop. -/
theorem slotOp_stop {s : State} {q : QReg} {b : Block} {f : Block → State → Except Stop State} {e : Stop} (h : Issues s q b)
    (hf : f b s = .error e) : slotOp q f s = .next (s.slotStop b e) := by
  unfold slotOp
  rw [h.1]
  rcases h.2 with rfl | h2
  · simp [Tile.qreg, hf]
  · by_cases hq : q = 0#3 <;> simp [Tile.qreg, h2, hf, hq]
/-- A slot operation whose guard reads false does nothing. -/
theorem slotOp_idle {s : State} {q : QReg} {b : Block} (f : Block → State → Except Stop State) (h : s.block s.cur.blk = some b)
    (hq : b.tile.qreg q = false) : slotOp q f s = .next s := by
  unfold slotOp
  rw [h]
  simp [hq]

/-- What a slot operation does that puts one result in flight. -/
theorem emit_emits (s : State) (b : Block) (h : s.block s.cur.blk = some b) (lat : Nat) (eff : Effect) (fl : Flags) :
    Emits s (s.emit lat eff fl) b [(lat, eff, fl)] := by
  refine ⟨deviceKept_modBlock _ _ _, fun n hn => block_modBlock_ne _ _ hn, ?_⟩
  let x : Landing := ⟨b.tile.step + lat, b.tile.step, s.cur.slot, s.cur.baddr, eff, fl⟩
  have e : (s.emit lat eff fl).block s.cur.blk = some { b with tile := { b.tile with fly := insertLanding x b.tile.fly } } := by
    unfold State.emit
    rw [block_modBlock_self, h]
    rfl
  exact ⟨_, e, rfl, insertLanding_perm _ _⟩

/-- A checked access of which no lane fails performs. -/
theorem resolve_next (s : State) (who : List Nat) (perform : State → State) : resolve s who [] perform = .next (perform s) := rfl
/-- A checked access of which a lane faults: every named lane that faults is in the mask, each reader that finds an error leaves it poisoned,
and nothing performs. -/
theorem resolve_faults {s : State} {who : List Nat} {errs l : List (Nat × Stop)} {t : Nat} {f : Stop} (perform : State → State)
    (h : errs.filter (fun e => e.2.isFault) = (t, f) :: l) :
    resolve s who errs perform = .next ((l.foldl (fun s e => s.found e.2) s).faultAll who (t :: l.map Prod.fst) f) := by
  unfold resolve; rw [h]
/-- A privileged instruction of supervisor lanes performs. -/
theorem privileged_next {s : State} {p : Outcome State Fault Refusal} (h : s.lanesAt false = []) : privileged s p = p := if_pos h
/-- A privileged instruction of which a lane is in user mode faults. -/
theorem privileged_faults {s : State} (p : Outcome State Fault Refusal) (h : s.lanesAt false ≠ []) :
    privileged s p = .next (s.faultDecode (stopBare .priv)) := if_neg h

end Sys2Proof.Laws
end

