-- ==== Sys2Proof/Tests/Slice0.lean ====
section
/-! SUPPORT. The model's own tests: for every statement with hypotheses a witness that meets them, clause by clause; the refusals of
WellFormed; words written out from the encodings; and single steps. -/

namespace Sys2Proof.Tests

open Sys2Proof Sys2Proof.Machine Sys2Proof.Safety

/-! ### Small states -/

/-- A check of lanes, in a form that evaluates. -/
theorem passes_of {s : State} {g : Guard} {check : Nat → Thread → Prop}
    (h : ∀ tid ∈ s.active g, ∀ x ∈ s.thread s.cur.blk tid, check tid x) : Passes s g check :=
  fun tid x ht hx => h tid ht x hx

/-- The guard p0. -/
def g0 : Guard := ⟨false, 0#4⟩
/-- The slot guard q0. -/
def v0 : Slot := ⟨false, 0#3⟩
/-- The block of `programBlock` with its threads changed, of which the given lanes issue at 0x40000. The first 64 MiB of its address
space are mapped onto themselves, and it has 512 KiB of scratchpad. -/
def lanes (who : List Nat) (f : Nat → Thread → Thread) : State :=
  { ((State.reset.program 64 0).modBlock 0 fun b => { b with threads := b.threads.mapIdx f }) with
    agenda := [], cur := { Cursor.idle with blk := 0, lanes := who, pc := 0x40000#56, slot := 8, baddr := 0x40000#56 } }
/-- Registers of a thread, by a list. -/
def regs (l : List (Nat × W32)) (_ : Nat) (t : Thread) : Thread := { t with regs := l }
/-- The same at system privilege. -/
def sysRegs (l : List (Nat × W32)) (_ : Nat) (t : Thread) : Thread := { t with regs := l, sys := true }
/-- The block of a state. -/
def blk0 (s : State) : Block := (s.block 0).getD (programBlock false)
/-- Block 0 in its lock: slot n of a bundle at 0x40000 issues, with the tile context changed. -/
def inTile (n : Nat) (f : Tile → Tile) : State :=
  { ((State.reset.program 32 0).modBlock 0 fun b => { b with tile := f b.tile }) with
    agenda := [], cur := { Cursor.idle with blk := 0, pc := 0x40000#56, slot := n, baddr := 0x40000#56 } }
/-- A place in the scratchpad of core 0. -/
def scr (off : Nat) : Place := { loc := 2 ^ 52 + off, obj := false, count := none, read := [] }
/-- A place from a check, where it passes. -/
def placeOf (e : Except Stop Place) : Place :=
  match e with
  | .ok p => p
  | .error _ => { loc := 0, obj := false, count := none, read := [] }
/-- What a check gives where it passes, else a given value. -/
def okOr {α : Type} (d : α) (e : Except Stop α) : α :=
  match e with
  | .ok x => x
  | .error _ => d
/-- An entry of a table is its default, or one of those listed. -/
theorem get_mem {α : Type} (d : α) (t : Tbl α) (k : Nat) : Tbl.get d t k = d ∨ ∃ e ∈ t, Tbl.get d t k = e.2 := by
  induction t with
  | nil => exact Or.inl rfl
  | cons e t ih =>
    by_cases h : e.1 = k
    · exact Or.inr ⟨e, by simp, by simp [Tbl.get, h]⟩
    · rcases ih with ih | ⟨x, hx, ih⟩
      · exact Or.inl (by simpa [Tbl.get, h] using ih)
      · exact Or.inr ⟨x, by simp [hx], by simpa [Tbl.get, h] using ih⟩
/-- Whole lines, in a form that evaluates. -/
theorem l1Whole_of {s : State} (h : ∀ e ∈ s.cores, ∀ l ∈ e.2.l1, l.data.length = 128) : L1LinesWhole s := by
  intro c l hl
  rcases get_mem CoreSt.reset s.cores c with hd | ⟨e, he, hd⟩
  · rw [State.core, hd] at hl
    exact absurd hl (by simp [CoreSt.reset])
  · rw [State.core, hd] at hl
    exact h e he l hl

/-! ### Witnesses: the hypotheses of the statements are met, clause by clause -/

/-- Two lanes with 5 in register 1, 7 in register 2. -/
def two : State := lanes [0, 1] (regs [(1, 5#32), (2, 7#32)])

/-- `rds`: a block issues. -/
theorem witness_SelectMoveAndSpecialRegisters : two.block two.cur.blk = some (blk0 two) := by decide +kernel
/-- `shfl`: the lane of thread 0 reads thread 1, both in their home barge; the last lane of the barge is there too. -/
theorem witness_LaneExchange : two.block two.cur.blk = some (blk0 two) ∧
    (∀ u ∈ [0, 1, 15], ∃ z ∈ (blk0 two).threads[u]?, z.home = true) := by decide +kernel
/-- A conversion to a float and one to an integer, and the packing conversions of both widths. -/
theorem witness_ConversionResults : (Instr.cvt ⟨g0, 1#8, 2#8, .f32, .f8a, .rne, .sat, 0#2⟩).wf = true ∧ Ty.f32.isFloat = true ∧
    (Instr.cvt ⟨g0, 1#8, 2#8, .s32, .f16, .rtz, .sat, 1#2⟩).wf = true ∧ Ty.s32.isFloat = false := by decide +kernel
/-- An integral operand of `exp2`, an operand of `rcp` that is not 0, and the least operand of R138 from which `sin` is 0. -/
theorem witness_SpecialFunctions : fmtF32.decode 0xC0400000 = .fin true 3 ∧ sgn true 3 = ((-3 : Int) : Rat) ∧ (3 : Rat) ≠ 0 ∧
    fmtF32.decode 0x4B000000 = .fin false 8388608 ∧ (2 ^ 23 : Rat) ≤ 8388608 := by decide +kernel

/-- Lane 0 branches to 0x40100, lane 1 to an address that is none: 2^56. -/
def astray : State := lanes [0, 1] fun tid t => { t with regs := if tid = 0 then [(2, 0x40100#32)] else [(3, 0x1000000#32)] }
/-- The last instruction address, and no address on one lane. -/
theorem witness_BranchTargets :
    (lanes [0, 1] (regs [(2, 0xFFFFFFF8#32), (3, 0xFFFFFF#32)])).lanesWhere g0
      (fun x => decide (2 ^ 56 ≤ (x.get64 2).toNat ∨ (x.get64 2).toNat % 8 ≠ 0)) = [] ∧
    astray.lanesWhere g0 (fun x => decide (2 ^ 56 ≤ (x.get64 2).toNat ∨ (x.get64 2).toNat % 8 ≠ 0)) = [1] := by decide +kernel
/-- The same of an indirect `reform`. -/
theorem witness_ReformFilesLanes : astray.block astray.cur.blk = some (blk0 astray) ∧
    two.lanesWhere g0 (fun x => decide (2 ^ 56 ≤ (x.get64 4).toNat ∨ (x.get64 4).toNat % 8 ≠ 0)) = [] ∧
    astray.lanesWhere g0 (fun x => decide (2 ^ 56 ≤ (x.get64 2).toNat ∨ (x.get64 2).toNat % 8 ≠ 0)) ≠ [] := by decide +kernel
/-- All sixteen threads issue. -/
def everyLane : State := lanes (List.range 16) (regs [])
/-- Two threads issue; the others have exited. -/
def lastTwo : State := lanes [0, 1] fun tid t => if tid < 2 then t else { t with status := .exited }
/-- Every live thread of the barge and the block is at the instruction, some threads having exited or none; and two of sixteen are. -/
theorem witness_RejoinAndBarWaitForAll : everyLane.block everyLane.cur.blk = some (blk0 everyLane) ∧
    (∀ u ∈ List.range 16, u ∈ everyLane.active g0) ∧ two.block two.cur.blk = some (blk0 two) ∧
    (∃ z ∈ (blk0 two).threads[2]?, z.status = .active ∧ 2 ∉ two.active g0) ∧
    lastTwo.block lastTwo.cur.blk = some (blk0 lastTwo) ∧
    (∀ v ∈ List.range 16, v ∈ lastTwo.active g0 ∨ ∃ z ∈ (blk0 lastTwo).threads[v]?, z.status = .exited) ∧
    2 ∉ lastTwo.cur.lanes := by decide +kernel
/-- The last threads of a block exit; and two exit of a block whose other threads are at a `bar` and run, none at a gate or a `tba`. -/
theorem witness_ExitEndsThreads : everyLane.block everyLane.cur.blk = some (blk0 everyLane) ∧
    (∀ u ∈ List.range (blk0 everyLane).threads.length, u ∈ everyLane.active g0) ∧ (blk0 everyLane).killed = false ∧
    (let s := lanes [0, 1] fun tid t => if tid < 8 then t else { t with status := .waiting .bar }
     s.block s.cur.blk = some (blk0 s) ∧ s.active g0 = [0, 1] ∧
       ∀ z ∈ (blk0 s).threads, z.status = .active ∨ z.status = .waiting .bar) := by decide +kernel

/-- Sixteen threads at system privilege. -/
def sysTwo : State := lanes [0, 1] (sysRegs [(1, 5#32), (2, 7#32)])
/-- Threads 2 to 15 wait at a gate at 0x80000. -/
def elsewhere : State :=
  (lanes [0, 1] fun tid t => if tid < 2 then t else { t with status := .waiting .gate }).modBlock 0 fun b => { b with gate := some 0x80000#56 }
/-- All sixteen threads come to a gate whose descriptor at 0x50000 binds nothing, and whose entry is 0x60000. -/
def atGate : State := lanes (List.range 16) (regs [(2, 0x50000#32), (4, 0x60000#32), (6, 9#32)])
/-- What the arrival of these lanes at a gate leaves, with these operands. -/
def arrivedAt (s : State) (o : GateOp) : State :=
  (waitLanes s o.g .gate).modBlock s.cur.blk fun b => (homesOf (s.active o.g)).foldl (fun b k => b.reformHome k)
    { b with gate := some s.cur.pc, gateOps := (o.a, o.b, o.c) }
/-- The checks of a gate pass, and leave the block as it was. -/
def gatePasses (s : State) (c : Block) : Bool :=
  match s.gateCheck s.cur.blk c 0 with
  | .ok _ _ _ t => t.block s.cur.blk = some c
  | .stop _ => false
/-- A gate at system privilege; with no lane; at another address than the first; before the others; as the last, with a context and without. -/
theorem witness_GateEntersTheLock :
    (sysTwo.block 0 = some (blk0 sysTwo) ∧ sysTwo.lanesAt true ≠ [] ∧ sysTwo.active g0 ≠ [] ∧ (blk0 sysTwo).cx ≠ none ∧
      ¬ (∃ x ∈ (blk0 sysTwo).threads, x.status = .waiting .gate)) ∧
    (two.block 0 = some (blk0 two) ∧ two.lanesAt true = [] ∧ two.active ⟨true, 0#4⟩ = []) ∧
    (elsewhere.block 0 = some (blk0 elsewhere) ∧ elsewhere.lanesAt true = [] ∧ elsewhere.active g0 ≠ [] ∧ (∃ x ∈ (blk0 elsewhere).threads, x.status = .waiting .gate) ∧
      (blk0 elsewhere).gate ≠ some elsewhere.cur.pc) ∧
    (two.active g0 ≠ [] ∧ (blk0 two).cx ≠ none ∧ ¬ (∃ x ∈ (blk0 two).threads, x.status = .waiting .gate) ∧
      (blk0 (arrivedAt two ⟨g0, 2#8, 4#8, 6#8⟩)).allAtGate = false) ∧
    (atGate.lanesAt true = [] ∧ atGate.active g0 ≠ [] ∧ ¬ (∃ x ∈ (blk0 atGate).threads, x.status = .waiting .gate) ∧
      let u := arrivedAt atGate ⟨g0, 2#8, 4#8, 6#8⟩
      u.block 0 = some (blk0 u) ∧ (blk0 u).cx ≠ none ∧ (blk0 u).allAtGate = true ∧ (blk0 u).preempt = none ∧ (blk0 u).killed = false ∧
        (blk0 u).inLock = false ∧ gatePasses u (blk0 u) = true) ∧
    (let s := atGate.modBlock 0 fun b => { b with cx := none }
     let u := arrivedAt s ⟨g0, 2#8, 4#8, 6#8⟩
     s.lanesAt true = [] ∧ s.active g0 ≠ [] ∧ ¬ (∃ x ∈ (blk0 s).threads, x.status = .waiting .gate) ∧ u.block 0 = some (blk0 u) ∧
        (blk0 u).allAtGate = true ∧ (blk0 u).preempt = none ∧ (blk0 u).killed = false ∧ (blk0 u).inLock = false ∧ (blk0 u).cx = none) := by
  decide +kernel

/-- A handler at 0x70000 and trap frames from 0x300000; thread 1 has taken 15 exceptions, thread 0 fourteen. -/
def handled : State := (lanes [0, 1] fun tid t => { t with nest := if tid = 0 then 14#4 else 15#4 }).modCtx 0 fun c =>
  { c with tvec := 0x70000#64, frameb := 0x100000#64 }
/-- The frame of thread 0 in that state, written. -/
def framed : Except Stop State :=
  handled.virtWrite ((blk0 handled).party 0 true) (0x100000 + 0x200000 + 0x480 * 14)
    (frameBytes ((handled.thread 0 0).getD (Thread.fresh 0#56 0)).land 256 (recPrv 0#512 false) 0x40000#56)
/-- The frames of `handled` lie where nothing is mapped, or a table that maps them has an uncorrectable error. -/
def unframed (ecc : Bool) : State :=
  if ecc then { handled with bad := [(0x30000 / 16, 1)] } else handled.modCtx 0 fun c => { c with frameb := 0x8000000#64 }
/-- The code of the fault that the frame of thread 0 meets there. -/
def frameStops (ecc : Bool) : Option Code :=
  let s := unframed ecc
  match s.virtWrite ((blk0 s).party 0 true) ((s.ctx 0).frameb.toNat + 0x200000 + 0x480 * 14)
    (frameBytes ((s.thread 0 0).getD (Thread.fresh 0#56 0)).land 256 (recPrv 0#512 false) 0x40000#56) with
  | .error (.fault f _ _ _ _) => some f
  | _ => none
/-- The word of a frame, and the same with the other value of p0. -/
theorem witness_FrameLayoutRoundTrip : let f := parseFrame 1 (frameBytes (Thread.fresh 0#56 0) 1 0#512 0#56)
    f.word % 2 = 1 ∧ (f.word - 1) / 2 = f.word / 2 := by decide +kernel
/-- The deepest frame is written; with TVEC 0, and at NEST 15, the context is killed; frames that cannot be written. -/
theorem witness_ExceptionEntry :
    (handled.block 0 = some (blk0 handled) ∧ (blk0 handled).killed = false ∧
      (handled.ctx (blk0 handled).slot).tvec.toNat % 2 ^ 56 / 8 ≠ 0 ∧ (∃ x ∈ handled.thread 0 0, x.nest ≠ 15#4) ∧
      framed = .ok (okOr two framed) ∧ (okOr two framed).block 0 = some (blk0 handled)) ∧
    (two.block 0 = some (blk0 two) ∧ (blk0 two).killed = false ∧ two.thread 0 0 ≠ none ∧
      (two.ctx (blk0 two).slot).tvec.toNat % 2 ^ 56 / 8 = 0) ∧
    (∃ x ∈ handled.thread 0 1, x.nest = 15#4) ∧
    (∀ ecc, let s := unframed ecc
      s.block 0 = some (blk0 s) ∧ (blk0 s).killed = false ∧ (s.ctx 0).tvec.toNat % 2 ^ 56 / 8 ≠ 0 ∧ (∃ x ∈ s.thread 0 0, x.nest ≠ 15#4) ∧
        frameStops ecc = some (if ecc then .ecc else .xlat)) := by decide +kernel

/-- The debug stop of the context is enabled. -/
def debugged : State := two.modCtx 0 fun c => { c with dse := true }
/-- Threads 0 and 1, of four registers, are in a handler, with the frames that entering it wrote. -/
def inHandler : State :=
  ((((lanes [0, 1] (sysRegs [])).modCtx 0 fun c => { c with tvec := 0x70000#64, frameb := 0x100000#64 }).modBlock 0 fun b =>
    { b with nregs := 4 }).enterLane 0 0 0#512 0x40000#56).enterLane 0 1 0#512 0x40008#56
/-- The frame of a thread there. -/
def frameAt (tid : Nat) : Frame :=
  match inHandler.thread 0 tid with
  | none => ⟨0#512, 0, 0, 0#32, []⟩
  | some x =>
    match inHandler.readFrame (blk0 inHandler) 0 tid x with
    | .ok (f, _) => f
    | .error _ => ⟨0#512, 0, 0, 0#32, []⟩
/-- A thread's frame can be read, and passes its checks or not. -/
def frameReads (s : State) (tid : Nat) (x : Thread) (ok : Bool) : Bool :=
  match s.readFrame (blk0 s) 0 tid x with
  | .ok (f, _) => s.frameOk (blk0 s) f = ok
  | .error _ => false
/-- The frame of thread 1 is spoilt: its address to resume at is no instruction address. -/
def spoilt : State := inHandler.store (0x300000 + 0x4800 + 64) [1#8]
/-- A trap; `brk` without a lane, with the debug stop off and on; `eret` with NEST 0, at user privilege in a handler, with good frames, and
with a frame that fails its checks. -/
theorem witness_TrapsAndExceptionReturn :
    (two.block two.cur.blk = some (blk0 two) ∧ two.active ⟨true, 0#4⟩ = [] ∧ two.active g0 ≠ [] ∧ (two.ctx (blk0 two).slot).dse = false) ∧
    (debugged.block 0 = some (blk0 debugged) ∧ debugged.active g0 ≠ [] ∧ (debugged.ctx (blk0 debugged).slot).dse = true) ∧
    (two.cur.lanes.Nodup ∧ two.lanesWhere g0 (fun x => x.nest == 0#4) ≠ []) ∧
    (handled.lanesWhere g0 (fun x => x.nest == 0#4) = [] ∧ handled.lanesAt false ≠ []) ∧
    (inHandler.block 0 = some (blk0 inHandler) ∧ inHandler.lanesAt false = [] ∧ (∀ tid ∈ inHandler.active g0, (frameAt tid).word / 2 ^ 21 % 2 = 1) ∧
      ∀ tid ∈ inHandler.active g0, ∀ x ∈ inHandler.thread 0 tid, x.nest ≠ 0#4 ∧ frameReads inHandler tid x true = true) ∧
    (spoilt.lanesAt false = [] ∧ [1] = (spoilt.active g0).filter ([1].contains ·) ∧
      (∀ x ∈ spoilt.thread 0 0, x.nest ≠ 0#4 ∧ frameReads spoilt 0 x true = true) ∧
      ∀ x ∈ spoilt.thread 0 1, x.nest ≠ 0#4 ∧ frameReads spoilt 1 x false = true) := by decide +kernel

/-- Lane 0 names the first bytes of the scratchpad, lane 1 an address of DRAM, in registers 2 and 3. -/
def apart : State := lanes [0, 1] fun tid t =>
  { t with regs := if tid = 0 then [(1, 5#32), (3, 0x00FF0000#32), (4, 6#32)] else [(1, 7#32), (2, 0x50000#32), (4, 6#32)] }
/-- The party of its lanes. -/
def apartParty : Party := (blk0 apart).party 0 false
/-- The place of a lane's address there. -/
def apartPlace (tid : Nat) : Place :=
  if tid = 0 then scr 0 else placeOf (apart.checkRead apartParty 0x50000 4)
/-- A state after an instruction, at the place where it was: its translations have been read. -/
def after (i : Instr) (s : State) : State :=
  match exec i s with
  | .next t => { t with cur := s.cur }
  | .fault _ => s
  | .refused _ => s
/-- The places of a check that reads no memory in its walk. -/
theorem placeOf_read {e : Except Stop Place} (h : (placeOf e).read = []) : ∀ pl, e = .ok pl → pl.read = [] := by
  rintro pl rfl
  exact h
/-- The lanes of `apart` have loaded. -/
def warm : State := after (.ld ⟨g0, 8#8, 2#8, none, .w32, .none, 0#25⟩) apart
/-- The place of a lane's address there, which a walk in memory no longer finds. -/
def warmPlace (tid : Nat) : Place := if tid = 0 then scr 0 else { apartPlace 1 with read := [] }
/-- A load of the scratchpad's first byte and of DRAM, for which a walk reads memory; the same where none does, and a prefetch. -/
theorem witness_LoadsAndPrefetches : apart.block apart.cur.blk = some (blk0 apart) ∧
    (Passes apart g0 fun tid x => apart.checkRead ((blk0 apart).party 0 x.sys tid) (effAddr x 2#8 0) 4 = .ok (apartPlace tid)) ∧
    warm.block warm.cur.blk = some (blk0 warm) ∧ (∀ tid, (warmPlace tid).read = []) ∧
    (Passes warm g0 fun tid x => warm.checkRead ((blk0 warm).party 0 x.sys tid) (effAddr x 2#8 0) 4 = .ok (warmPlace tid)) ∧
    Passes warm g0 fun _ x => ∀ pl, warm.checkAt ((blk0 warm).party 0 x.sys) (effAddr x 2#8 0) 1 1 .read = .ok pl → pl.read = [] :=
  ⟨by decide +kernel, passes_of (by decide +kernel), by decide +kernel, fun tid => by simp [warmPlace, scr]; split <;> rfl,
    passes_of (by decide +kernel), fun tid x ht hx => placeOf_read
      ((by decide +kernel : ∀ tid ∈ warm.active g0, ∀ x ∈ warm.thread warm.cur.blk tid,
        (placeOf (warm.checkAt ((blk0 warm).party 0 x.sys) (effAddr x 2#8 0) 1 1 .read)).read = []) tid ht x hx)⟩
/-- The same store, of a word, plain and with a fabric release, with a walk in memory and without. -/
theorem witness_StoresWriteMemory : apart.block apart.cur.blk = some (blk0 apart) ∧ warm.block warm.cur.blk = some (blk0 warm) ∧
    (∀ adv, Passes apart g0 fun tid x => apart.checkWrite ((blk0 apart).party 0 x.sys tid) (effAddr x 2#8 0)
      ((List.range 4).map fun i => (x.get (1 + i / 4)).extractLsb' (8 * (i % 4)) 8) adv = .ok (apartPlace tid)) ∧
    (∀ adv, Passes warm g0 fun tid x => warm.checkWrite ((blk0 warm).party 0 x.sys tid) (effAddr x 2#8 0)
      ((List.range 4).map fun i => (x.get (1 + i / 4)).extractLsb' (8 * (i % 4)) 8) adv = .ok (warmPlace tid)) :=
  ⟨by decide +kernel, by decide +kernel, fun adv => passes_of (by cases adv <;> decide +kernel),
    fun adv => passes_of (by cases adv <;> decide +kernel)⟩
/-- Lane 1 loads, and stores, past the last scratchpad byte: its access stops with SCR, that of lane 0 passes. -/
def past : State := lanes [0, 1] fun tid t =>
  { t with regs := if tid = 0 then [(3, 0x00FF0000#32)] else [(2, 0x80000#32), (3, 0x00FF0000#32)] }
/-- The stop of each lane. -/
def pastStop (tid : Nat) : Option Stop := if tid = 1 then some (stopAt .scr 0x00FF000000080000) else none
theorem witness_MemoryFaultIsPrecise : past.block past.cur.blk = some (blk0 past) ∧
    (past.active g0).filter (fun tid => (pastStop tid).any Stop.isFault) = [1] ∧ pastStop 1 = some (.fault .scr 0 0x00FF000000080000 0 0) ∧
    Code.scr ≠ .ecc ∧
    (∀ tid ∈ past.active g0, ∀ x ∈ past.thread 0 tid,
      stopOf (past.checkRead ((blk0 past).party 0 x.sys tid) (effAddr x 2#8 0) 4) = pastStop tid ∧
      stopOf (past.checkWrite ((blk0 past).party 0 x.sys tid) (effAddr x 2#8 0)
        ((List.range 4).map fun i => (x.get (1 + i / 4)).extractLsb' (8 * (i % 4)) 8) false) = pastStop tid) := by decide +kernel
/-- Two lanes add to, and compare and swap, one word of the scratchpad and one of DRAM; operands at the ends of their ranges. -/
theorem witness_AtomicsServeLanesInOrder : apart.block apart.cur.blk = some (blk0 apart) ∧ L1LinesWhole apart ∧ apart.cur.lanes.Nodup ∧
    (Instr.atom ⟨g0, 8#8, 2#8, 1#8, .core, .weak, .add, false, false⟩).wf = true ∧
    (Passes apart g0 fun tid x => apart.checkRmw ((blk0 apart).party 0 x.sys tid) (x.get64 2).toNat
      ⟨4, fun old => some (atomNew .add false old (((apart.thread 0 tid).getD (Thread.fresh 0#56 0)).get 1).toNat).1, .atom .add,
        leBytes 4 (x.get 1).toNat, true, false⟩ = .ok (apartPlace tid)) ∧
    (Passes apart g0 fun tid x => apart.checkRmw ((blk0 apart).party 0 x.sys tid) (x.get64 2).toNat
      ⟨4, fun old => if old = (((apart.thread 0 tid).getD (Thread.fresh 0#56 0)).get 1).toNat then some 6 else none, .cas,
        leBytes 4 (x.get 1).toNat ++ leBytes 4 (x.get 4).toNat, true, false⟩ = .ok (apartPlace tid)) ∧
    (2 ^ 32 - 1 < 2 ^ 32 ∧ 2 ^ 64 - 1 < 2 ^ 64) :=
  ⟨by decide +kernel, l1Whole_of (by decide +kernel), by decide +kernel, by decide +kernel, passes_of (by decide +kernel),
    passes_of (by decide +kernel), by decide⟩

/-- A thread of a state, or a fresh one. -/
def thr (s : State) (tid : Nat) : Thread := (s.thread 0 tid).getD (Thread.fresh 0#56 0)
/-- Lane 0 has a pending result for registers 8 and 9 with a flag. -/
def pending : State := lanes [0, 1] fun tid t => { t with pend := if tid = 0 then [⟨[(8, 1#32), (9, 2#32)], fInvalid, true⟩] else [] }
/-- Every thread has this status, this deadline and the registers of `apart`. -/
def inState (w : Status) (d : Option Nat) : State := { lanes [0, 1] fun tid t =>
  { t with status := w, deadline := d, regs := (thr apart tid).regs } with clock := 9 }
/-- A posted write of an agent of block 0 to another device: of thread 0, or of slot 1 of its context. -/
def awayWrite (agent : Nat) : Remote := ⟨1, 0, agent, none, 0, ⟨2 ^ 49, 4, .write, [1#8, 2#8, 3#8, 4#8]⟩, 1, [], 0, false, false⟩
/-- One that was not acknowledged in time. -/
def lateWrite (agent : Nat) : Remote := { awayWrite agent with failed := true }
/-- The threads of block 0 wait for the acknowledgement of its writes, and its tile context too, as told. -/
def unacknowledged (w : TileWait) (l : List Remote) : State :=
  { (inState (.stalled .fence) none).modBlock 0 fun b => { b with tile := { b.tile with wait := some w } } with remotes := l }
/-- A fence with a pending result before it, and without; with a write of a lane outstanding, and one that was not acknowledged in time; the
event of an acknowledgement with a write of the thread outstanding, one of the context, and none, where the context waits at a fence and at
`gret`; a result that returns. -/
theorem witness_FencesAndPendingResults : pending.block pending.cur.blk = some (blk0 pending) ∧
    (∃ x ∈ pending.thread 0 0, 0 ∈ pending.active g0 ∧ x.pend ≠ []) ∧
    (∀ tid ∈ two.active g0, ∀ x ∈ two.thread 0 tid, x.pend = []) ∧
    (let s : State := { two with remotes := [awayWrite 0, lateWrite 1] }
     s.block 0 = some (blk0 s) ∧ ∃ tid ∈ s.active g0, s.unacked s.cur.blk (· == tid) = true) ∧
    (let s : State := { two with remotes := [awayWrite 2, lateWrite 1] }
     s.block 0 = some (blk0 s) ∧ (∀ tid ∈ s.active g0, s.unacked s.cur.blk (· == tid) = false) ∧
       (s.active g0).filter (fun tid => s.unanswered s.cur.blk (· == tid) != []) = [1] ∧
       (s.unanswered s.cur.blk (· == 1)).head? = some (lateWrite 1)) ∧
    (∀ w ∈ [TileWait.fence, .leaving], ∀ l ∈ [[awayWrite 0], [awayWrite 1025], []], let s := unacknowledged w l
     s.block 0 = some (blk0 s) ∧ (blk0 s).threads[0]? = some (thr s 0) ∧ (thr s 0).status = .stalled .fence ∧ (blk0 s).tile.wait = some w ∧
       s.unacked 0 (· == 0) = decide (l = [awayWrite 0]) ∧ s.unacked 0 agentOfTile = decide (l = [awayWrite 1025])) ∧
    (∃ x ∈ pending.thread 0 0, ∃ p ∈ x.pend.head?, x.pend = [p] ∧ (p.dst.map Prod.fst).Nodup) := by decide +kernel
/-- `wait` on both kinds of memory; threads in its wait, on words of this device that meet their condition or not, and on a word of another;
and one whose deadline is now. -/
theorem witness_WaitOnMemory : apart.block apart.cur.blk = some (blk0 apart) ∧
    (Passes apart g0 fun tid x => apart.checkRead ((blk0 apart).party 0 x.sys tid) (x.get64 2).toNat 4 = .ok (apartPlace tid)) ∧
    (∀ e ∈ [(0x50000, 0#32, true, true), (0x50000, 1#32, true, false), (2 ^ 49, 0#32, false, true)],
      let s := inState (.waiting (.mem e.1 .eq e.2.1)) (some 9)
      (∃ x ∈ s.thread 0 0, x.status = .waiting (.mem e.1 .eq e.2.1) ∧ x.deadline = some 9 ∧ 9 ≤ s.clock) ∧ homeHere e.1 = e.2.2.1 ∧
        condHolds .eq (BitVec.ofNat 32 (leNat (s.homeBytes e.1 4))) e.2.1 = e.2.2.2) :=
  ⟨by decide +kernel, passes_of (by decide +kernel), by decide +kernel⟩

/-- From 0x4000000 64 MiB are mapped onto themselves as an OBJ page; a private object of the block with 20 fields lies at its start, its
last field a null reference. The lanes hold it in register 2, 0 in 6, 16 in 10 and 7 in 11. -/
def object (sys : Bool) (who : List Nat) : State :=
  let s := lanes who fun _ t => { t with regs := [(2, 0x4000000#32), (10, 16#32), (11, 7#32)], sys }
  { s with mem := writeBytes (writeBytes s.mem 0x30008 (leBytes 8 0x40010BF)) 0x4000000 (leBytes 8 (mkHdr 1 0 0 20 7)),
           tags := [(0x4000000 / 8, true), (0x4000000 / 8 + 20, true)] }
/-- The place of a field of that object. -/
def fieldPlace (f : Nat) : Nat × Place :=
  (0x4000000 + 8 * f, placeOf ((object false [0]).place ⟨0, 0, 0, false, 0⟩ (0x4000000 + 8 * f) 8 .write))
/-- The last field, and its object's header. -/
def lastField (s : State) : FieldAt :=
  ⟨0x4000000 + 160, placeOf (s.place ⟨0, 0, 0, false, 0⟩ (0x4000000 + 160) 8 .write), placeOf (s.place ⟨0, 0, 0, false, 0⟩ 0x4000000 8 .read)⟩
/-- The last field is read and written, and the tag of the word behind it is read, with walks in memory and without. -/
theorem witness_TaggedAccesses :
    (∀ s ∈ [object false [0, 1], after (.ldr ⟨g0, 8#8, 2#8, none, .none, 160#25⟩) (object false [0, 1])],
      s.block 0 = some (blk0 s) ∧
      (∀ tid ∈ s.active g0, ∀ x ∈ s.thread 0 tid,
        ldrCheck s (blk0 s) ⟨g0, 8#8, 2#8, none, .none, 160#25⟩ tid x = .ok (lastField s) ∧
        strCheck s (blk0 s) ⟨g0, 6#8, 2#8, none, .none, 160#25⟩ tid x = .ok (lastField s) ∧
        s.checkAt ((blk0 s).party 0 x.sys tid) (effAddr x 2#8 168) 1 1 .read =
          .ok (placeOf (s.place ⟨0, 0, 0, false, 0⟩ (0x4000000 + 168) 1 .read)))) ∧
    (let s := after (.ldr ⟨g0, 8#8, 2#8, none, .none, 160#25⟩) (object false [0, 1])
     (lastField s).pl.read = [] ∧ (lastField s).hdr.read = [] ∧ (placeOf (s.place ⟨0, 0, 0, false, 0⟩ (0x4000000 + 168) 1 .read)).read = []) := by
  decide +kernel
/-- Two lanes, each with an object of 16 fields on two lines of its own, the first of which is that object; its header as given, and the
translations in the buffers or not. -/
def objects (sys read : Bool) (hdr : Nat) (who : List Nat) : State :=
  let s := object sys who
  let s1 : State := { s with mem := writeBytes s.mem 0x4000000 (leBytes 8 hdr) }
  (if read then s1 else after (.ldr ⟨g0, 12#8, 2#8, none, .none, 160#25⟩) s1).modBlock 0 fun b =>
    { b with threads := b.threads.mapIdx fun tid t => { t with regs := [(2, BitVec.ofNat 32 (0x4000000 + 0x100 * tid)), (10, 16#32), (11, 7#32)] } }
/-- The places of a lane's object. -/
def initPlaces (s : State) (tid : Nat) : List Place :=
  okOr [] (objinitCheck s (blk0 s) ⟨g0, 10#8, 2#8, 0#25⟩ (thr s tid))
/-- The lanes of `objinit` pass its first checks, and their objects lie apart. -/
def initPasses (s : State) : Bool :=
  (s.active g0).all (fun tid => objinitCheck s (blk0 s) ⟨g0, 10#8, 2#8, 0#25⟩ (thr s tid) = .ok (initPlaces s tid) &&
    (initPlaces s tid).all (fun p => p.loc % 128 == 0 && decide (p.loc < 2 ^ 52)) && decide ((initPlaces s tid).map Place.loc).Nodup &&
    (s.active g0).all fun u => u == tid || (initPlaces s tid).all fun p => (initPlaces s u).all fun q => p.loc != q.loc)
/-- A walk that holds the first object busy. -/
def busyObject : State := (objects true true (mkHdr 3 0 0 20 7) [0, 1]).modDie 0 fun d => { d with walks :=
  [(0, some ⟨0, 3, 0, 0x4000000, false, 0x50008, 0, true, .die, 0, 0, false, [(0x4000000, mkHdr 1 0 0 20 7, [0x80000], 0x4000000)], [], 0, none,
    none, false, false, none, none⟩)] }
/-- `objinit` by two lanes at system privilege; by one at user privilege of an object that is its block's, and of one that is not; and by
two of which the object of one is busy. -/
theorem witness_ObjectInitialisation :
    (let s := objects true false (mkHdr 1 0 0 20 7) [0, 1]
     s.block 0 = some (blk0 s) ∧ s.cur.lanes.Nodup ∧ (s.ctx 0).traces 5 = false ∧ s.active g0 = [0, 1] ∧ initPasses s = true ∧
       (∀ tid ∈ [0, 1], s.busyAt (0x4000000 + 0x100 * tid) = false ∧ (thr s tid).sys = true ∧ ∀ p ∈ initPlaces s tid, p.read = [])) ∧
    (∀ h ∈ [mkHdr 1 0 0 20 7, mkHdr 1 0 16 20 7], let s := objects false true h [0]
      s.block 0 = some (blk0 s) ∧ s.active g0 = [0] ∧ initPasses s = true ∧ s.busyAt 0x4000000 = false ∧ (thr s 0).sys = false ∧
        objinitOwner s (blk0 s).owner.toNat 0x4000000 16 (initPlaces s 0) =
          if h = mkHdr 1 0 0 20 7 then .ok () else .error (escRef 0x4000000)) ∧
    (busyObject.active g0 = [0, 1] ∧ initPasses busyObject = true ∧ busyObject.busyAt 0x4000000 = true) ∧
    L1LinesWhole (objects true false (mkHdr 1 0 0 20 7) [0, 1]) ∧ L1LinesWhole (objects false true (mkHdr 1 0 0 20 7) [0]) ∧ L1LinesWhole busyObject :=
  ⟨by decide +kernel, by decide +kernel, by decide +kernel, l1Whole_of (by decide +kernel), l1Whole_of (by decide +kernel),
    l1Whole_of (by decide +kernel)⟩
/-- A publication into the last field and into DRAM outside OBJ pages; and one by no lane. -/
theorem witness_PublicationWaitsForWalks : let s := object false [0, 1]
    s.block 0 = some (blk0 s) ∧ s.active ⟨true, 0#4⟩ = [] ∧ s.active g0 ≠ [] ∧
    (Passes s g0 fun tid x => pubCheck s (blk0 s) ⟨g0, 2#8, 2#8, .die, 160#25⟩ tid x = .ok (fieldPlace 20)) ∧
    (∀ e ∈ (s.die 0).walks, e.2.all fun u => !u.suspended) ∧
    (Passes apart g0 fun tid x => pubCheck apart (blk0 apart) ⟨g0, 6#8, 2#8, .die, 0#25⟩ tid x =
      .ok (if tid = 0 then 0x00FF000000000000 else 0x50000, apartPlace tid)) :=
  ⟨by decide +kernel, by decide +kernel, by decide +kernel, passes_of (by decide +kernel), by decide +kernel, passes_of (by decide +kernel)⟩

/-- The block of `apart` owns endpoint 3 of core 0, of this state, with 16-byte entries in eight slots. -/
def endpointAt (opened : Bool) (head tail : Nat) : State := (lanes [0, 1] (regs [(1, (3 + 5 * 2 ^ 16 : Nat)), (3, 0x00FF0000#32), (4, 0x802#32)])).modCore 0 fun c =>
  { c with ends := Tbl.put Endpoint.empty c.ends 3 ⟨some 0, opened, 5#4, 0x100, 16, 8, head, tail⟩ }
/-- Each lane names an endpoint of its own, which has room for one more entry. -/
def twoQueues : State := ((endpointAt true 0 7).modCore 0 fun c =>
  { c with ends := Tbl.put Endpoint.empty c.ends 4 ⟨some 0, true, 5#4, 0x200, 16, 8, 2, 9⟩ }).modBlock 0 fun b =>
    { b with threads := b.threads.mapIdx fun tid t => { t with regs := [(1, BitVec.ofNat 32 (3 + tid % 2 + 5 * 2 ^ 16))] } }
/-- A thread in its wait for that endpoint. -/
def queueWaits (push opened : Bool) (head tail : Nat) : State :=
  { inState (.waiting (.queue 0 3 push)) none with cores := (endpointAt opened head tail).cores }
/-- `qsz` on an endpoint; a queue of eight entries opened at the start of the scratchpad; a queue closed, and never opened; pushes that
fill a queue, and into a full one; pops that empty it, and from an empty one; threads in their waits, that the queue can serve and not. -/
theorem witness_QueuesBetweenBlocks :
    let e (s : State) := s.endpoint 0 3
    let h (s : State) (o : R2) := s.handleEnd (blk0 s) ((thr s 0).get o.a.toNat)
    ((endpointAt true 0 2).block 0 = some (blk0 (endpointAt true 0 2)) ∧ (e (endpointAt true 0 2)).owner = some 0) ∧
    (let s := lanes [0, 1] (regs [(3, 0x00FF0000#32), (4, 0x804#32)])
     let a := ((thr s 0).get64 2).toNat
     let v := ((thr s 0).get 4).toNat
     s.active g0 = 0 :: [1] ∧ a / 2 ^ 20 = 0x00FF000000000000 / 2 ^ 20 ∧ a % 16 = 0 ∧ v % 8 ≤ 4 ∧ v / 8 % 32 = 0 ∧ v / 2 ^ 16 = 0 ∧
       v / 256 ≠ 0 ∧ (blk0 s).scrLen ≠ 0 ∧ (blk0 s).scrOff ≤ a % 2 ^ 20 ∧
       a % 2 ^ 20 + 4 * 2 ^ (v % 8) * (v / 256) ≤ (blk0 s).scrOff + (blk0 s).scrLen ∧ (e s).owner = none ∧ (e s).opened = false) ∧
    ((e (endpointAt true 4 4)).head = (e (endpointAt true 4 4)).tail ∧ (endpointAt true 4 4).active g0 ≠ [] ∧
      (e (endpointAt false 4 5)).opened = false) ∧
    (let s := endpointAt true 0 6
     s.cur.lanes.Nodup ∧ (∀ tid ∈ s.active g0, ∀ x ∈ s.thread 0 tid, s.handleEnd (blk0 s) (x.get 1) = some (0, 3, e s)) ∧
       8 + (e s).esz / 4 ≤ (blk0 s).nregs ∧ (e s).tail - (e s).head + (s.active g0).length ≤ (e s).nslot) ∧
    (let s := endpointAt true 0 8
     h s ⟨g0, 8#8, 1#8⟩ = some (0, 3, e s) ∧ (e s).nslot ≤ (e s).tail - (e s).head) ∧
    (let s := endpointAt true 6 8
     (e s).opened = true ∧ (e s).head + (s.active g0).length ≤ (e s).tail) ∧
    (let s := endpointAt true 8 8
     (e s).tail ≤ (e s).head) ∧
    (∀ push, let s := queueWaits push true 0 8
      s.block 0 = some (blk0 s) ∧ (blk0 s).threads[0]? = some (thr s 0) ∧ (thr s 0).status = .waiting (.queue 0 3 push)) ∧
    (let p := (queueWaits true true 0 8).endpoint 0 3
     p.opened = true ∧ ¬ p.tail - p.head < p.nslot) ∧
    (let p := (queueWaits true true 0 7).endpoint 0 3
     p.tail - p.head < p.nslot) ∧
    (let p := (queueWaits false true 7 8).endpoint 0 3
     p.head < p.tail) ∧
    (let p := (queueWaits false true 8 8).endpoint 0 3
     p.opened = true ∧ ¬ p.head < p.tail) ∧
    ((queueWaits false false 8 8).endpoint 0 3).opened = false := by decide +kernel
/-- Two lanes push to two queues; the entries of a queue can be read. -/
theorem witness_QueuesBetweenBlocks_entries :
    (let s := twoQueues
     s.block 0 = some (blk0 s) ∧ s.cur.lanes.Nodup ∧ ∀ tid ∈ s.active g0, ∀ x ∈ s.thread 0 tid,
       let q := s.endpoint 0 (3 + tid)
       s.handleEnd (blk0 s) (x.get 1) = some (0, 3 + tid, q) ∧ 8 + q.esz / 4 ≤ (blk0 s).nregs ∧ 0 < q.nslot ∧ q.tail + 1 ≤ q.nslot + q.head) ∧
    ∀ i ∈ [6, 7], (endpointAt true 6 8).entryRead 0 i ((endpointAt true 6 8).endpoint 0 3) = .ok () := by decide +kernel

/-- The pool record of R192 at 0x60000: pages of 4 KiB from page 0x100, three of them, with descriptors at 0x60100: a page of one
reference, a free page, a page of two references and one pin. The pages of the two lanes are given. -/
def pool (p q : Nat) : State :=
  let s := (lanes [0, 1] fun tid t => { t with regs := [(2, BitVec.ofNat 32 (if tid = 0 then p else q))] }).modCtx 0 fun c => { c with kvpool := 0x60000#64 }
  let record := leBytes 32 (0x100 + 12 * 2 ^ 40 + 3 * 2 ^ 64 + 0x60100 * 2 ^ 128)
  { s with mem := writeBytes s.mem 0x60000 (record ++ leBytes 224 0 ++ leBytes 16 1 ++ leBytes 16 (2 ^ 49) ++ leBytes 16 (2 + 2 ^ 32)) }
/-- The descriptor of a lane's page, for an operation by 1. -/
def poolAt (s : State) (op : HomeOp) (tid : Nat) : DescAt :=
  okOr ⟨0, none, []⟩ (s.descAt ((blk0 s).party 0 false tid) 0x60000 ((thr s tid).get64 2).toNat op [1#8])
/-- Two pages of the pool, the first and the last, that count and are not free; a free one, for the claim; and counts that a `kvunref`
of 1 brings to 0 and to 1. -/
theorem witness_KvReferenceCounts : let s := pool 0x100 0x102
    s.block 0 = some (blk0 s) ∧ s.cur.lanes.Nodup ∧ s.cores = [] ∧ (s.ctx 0).kvpool.toNat % 2 ^ 52 = 0x60000 ∧
    (∀ op ∈ [HomeOp.kvref, .kvrefClaim, .kvunref],
      (∀ tid ∈ s.active g0, ∀ x ∈ s.thread 0 tid, x.sys = false ∧ (x.get64 2).toNat / 2 ^ 40 = 0 ∧
        s.descAt ((blk0 s).party 0 x.sys tid) 0x60000 (x.get64 2).toNat op [1#8] = .ok (poolAt s op tid)) ∧
      (∀ t ∈ s.active g0, ∀ u ∈ s.active g0, t ≠ u →
        (poolAt s op t).loc + 16 ≤ (poolAt s op u).loc ∨ (poolAt s op u).loc + 16 ≤ (poolAt s op t).loc) ∧
      (∀ tid ∈ s.active g0, (poolAt s op tid).old = none ∧ (s.descFound (poolAt s op tid)).free = false ∧
        (s.descFound (poolAt s op tid)).ref + 255 < 2 ^ 32 ∧ 1 ≤ (s.descFound (poolAt s op tid)).ref)) ∧
    (s.desc (poolAt s .kvunref 0).loc).ref = 1 ∧ (let u := pool 0x101 0x102; u.desc (poolAt u .kvrefClaim 0).loc).free = true := by decide +kernel

/-- Leaf 2 of core 0, owned by block 0. -/
def leafAt (cnt exp : Nat) (clu : Bool) : State := (lanes [0, 1] (regs [(1, 2#32), (2, 0x101#32)])).modCore 0 fun c =>
  { c with leaves := Tbl.put Leaf.empty c.leaves 2 { Leaf.empty with owner := some 0, exp, cnt, clu, rc := 1 } }
/-- A root at which one leaf has reported. -/
def rooted : State :=
  let s := two.modCore 0 fun c => { c with leaves := Tbl.put Leaf.empty c.leaves 2 { Leaf.empty with owner := some 0, exp := 2, clu := true, rc := 1, reported := true } }
  { s with roots := [(2, 1)] }
/-- A free leaf configured; arrivals that complete a leaf, a leaf of a cluster, and none; `barw` at the phase and past it; a thread in
its wait; the broadcast of a root. -/
theorem witness_BarrierTree :
    (let s := leafAt 0 0 false
     let a := ((thr s 0).get 1).toNat
     let v := ((thr s 0).get 2).toNat
     s.block 0 = some (blk0 s) ∧ s.active g0 = 0 :: [1] ∧ 0 < a ∧ a < 2 ^ 16 ∧ v / 2 % 2 ^ 7 = 0 ∧ v / 2 ^ 11 = 0 ∧
       (∀ tid ∈ s.active g0, ∀ y ∈ s.thread 0 tid, y.get 1 = (thr s 0).get 1 ∧ y.get 2 = (thr s 0).get 2) ∧
       (two.leaf 0 2).owner = none ∧ (s.leaf 0 2).owner = some 0 ∧ (s.leaf 0 2).cnt = 0 ∧ (s.leaf 0 2).xb = 0 ∧ (s.leaf 0 2).ab = 0) ∧
    (∀ e ∈ [(0, 2, false), (0, 2, true), (1, 8, false)], let s := leafAt e.1 e.2.1 e.2.2
      (s.leaf 0 2).owner = some 0 ∧ (s.leaf 0 2).cnt + (s.active g0).length ≤ (s.leaf 0 2).exp) ∧
    (two.active ⟨true, 0#4⟩ = []) ∧
    (∀ saw, let s := { inState (.waiting (.barw 2 saw)) none with cores := (leafAt 0 2 false).cores }
      s.block 0 = some (blk0 s) ∧ (blk0 s).threads[0]? = some (thr s 0) ∧ (thr s 0).status = .waiting (.barw 2 saw) ∧ (s.leaf 0 2).ph = false) ∧
    ((rooted.leaf 0 2).reported = true ∧ (rooted.leaf 0 2).rc ≤ Tbl.get 0 rooted.roots 2 ∧
      ∀ j, j < 8 → (rooted.leaf j 2).reported = true → (rooted.leaf j 2).rc = (rooted.leaf 0 2).rc) := by decide +kernel

/-- Block 0 is the correction block of block 1, whose tile words are given. -/
def correcting (acc : List (Nat × W32)) : State :=
  let s := (lanes (List.range 16) fun _ t => { t with regs := [(4, 31#32)], tiles := 8#64 }).modBlock 0 fun b => { b with correction := true, serves := some 1 }
  { s with blocks := Tbl.put none s.blocks 1 (some { programBlock true with tile := { Tile.fresh with acc } }) }
/-- The block it serves. -/
def keeper (s : State) : Block := (s.block 1).getD (programBlock true)
/-- Tile 3 is with the correction block across a wrap of the counters, and is not; some thread is missing at `tba`, and none; words of
row 31 are read between `tbw` and `tba`. -/
theorem witness_TileHandover :
    (let s := correcting [(accSide 3 1, 0#32), (accSide 3 2, 0xFFFF#32), (accSide 3 3, 2#32)]
     s.block 0 = some (blk0 s) ∧ (blk0 s).correction = true ∧ s.served (blk0 s) = some (1, keeper s) ∧ s.active g0 ≠ [] ∧
       3 < (keeper s).accTiles ∧ ((keeper s).tile.accWord (accSide 3 1) - (keeper s).tile.accWord (accSide 3 2)).toNat % 2 ^ 16 = 1 ∧
       s.active g0 = s.cur.lanes ∧ (∀ tid ∈ List.range (blk0 s).threads.length, tid ∈ s.active g0) ∧
       ((keeper s).tile.accWord (accSide 3 3)).getLsbD 1 = true ∧ 200 + 8 ≤ (blk0 s).nregs ∧
       ∀ tid ∈ s.active g0, ∀ u ∈ s.thread 0 tid, (u.get 4).toNat / 32 + 8 ≤ 35 ∧ u.tiles.getLsbD 3 = true) ∧
    (let s := correcting []
     s.served (blk0 s) = some (1, keeper s) ∧
       ((keeper s).tile.accWord (accSide 3 1) - (keeper s).tile.accWord (accSide 3 2)).toNat % 2 ^ 16 ≠ 1) ∧
    (let s : State := { correcting [] with cur := two.cur }
     ∃ u ∈ (blk0 s).threads[2]?, 2 ∉ s.active g0 ∧ u.status = .active) := by decide +kernel

/-- The cast table at 0x60000 names window 7, of 4 KiB, of which this device may hold a copy. -/
def cast (subs : List Sub) (l : List (Nat × W32)) (d : Option Nat) : State :=
  let s := (lanes [0] fun _ t => { t with regs := l, deadline := d }).modCtx 0 fun c =>
    { c with casttb := BitVec.ofNat 64 (2 ^ 56 + 0x60000), casts := [some (BitVec.ofNat 128 (7 + 2 ^ 32 + 2 ^ 34 + 2 ^ 40))], subs }
  { s with mem := writeBytes s.mem 0x60000 (leBytes 16 (7 + 2 ^ 32 + 2 ^ 34 + 2 ^ 40)), clock := 9 }
/-- Lane 0 waits for a version of window 7, of which it has the copy given. -/
def awaiting (subs : List Sub) (v : W32) : State :=
  (cast subs [] (some 9)).modThread 0 0 fun x => { x with status := .waiting (.vwait 7#32 v) }
/-- Two windows opened, the second the last of the scratchpad, as the sixteenth; and closed, while the context of another block has a
write in flight to the first, and without; the deliveries of windows that this device and another produce. -/
def windowed (n : Nat) (open_ : Bool) : State :=
  (lanes [0, 1] fun tid t => { t with regs := [(2, if tid = 0 then 0#32 else 0x7FF80#32), (3, 0x00FF0000#32)] }).modBlock 0 fun b =>
    { b with windows := (List.range n).map (fun i => ⟨128 * (i + 1), false⟩) ++ if open_ then [⟨0, true⟩, ⟨0x7FF80, false⟩] else [] }
theorem witness_ScratchpadAndCastWindows :
    (∀ s ∈ [windowed 14 false, windowed 14 true], s.block 0 = some (blk0 s) ∧ (∀ tid ∈ s.active g0, ∀ x ∈ s.thread 0 tid,
      let va := (x.get64 2).toNat
      va / 2 ^ 20 = 0x00FF000000000000 / 2 ^ 20 ∧ va % 128 = 0 ∧ (blk0 s).scrLen ≠ 0 ∧ (blk0 s).scrOff ≤ va % 2 ^ 20 ∧
        va % 2 ^ 20 + 128 ≤ (blk0 s).scrOff + (blk0 s).scrLen)) ∧
    ((blk0 (windowed 14 false)).windows.map Window.off ++ [0, 0x7FF80]).dedup.length ≤ 16 ∧
    (∀ x ∈ [0, 0x7FF80], ∃ w ∈ (blk0 (windowed 14 true)).windows, Window.off w = x) ∧
    (windowed 14 true).windowsBusy 0 (blk0 (windowed 14 true)) [0, 0x7FF80] = false ∧
    (let s := windowed 14 true
     let u : State := { s with blocks := Tbl.put none s.blocks 1 (some { programBlock true with
       tile := { Tile.fresh with fly := [⟨11, 7, 1, 0x40000#56, .mem [(0x00FF010000000000, 2 ^ 52, 1#8)], 0#5⟩] } }) }
     u.windowsBusy 0 (blk0 u) [0, 0x7FF80] = true) ∧
    (let s := cast [] [(1, 7#32), (2, 0x70000#32)] none
     s.block 0 = some (blk0 s) ∧ s.active g0 = [0] ∧ s.thread 0 0 = some (thr s 0) ∧
       castGrant s.fabricNum 7#32 (s.ctx 0).casts = .ok 4096 ∧
       0x70000 % 4096 = 0 ∧ paDram 0x70000 = true ∧ paDram (0x70000 + 4096 - 1) = true ∧ (s.ctx 0).subs = [] ∧ s.cores = []) ∧
    (let s := cast [⟨7#32, 0x70000, 4096⟩] [(1, 7#32), (4, 1#32), (5, 3#32)] none
     (∃ u ∈ (s.ctx 0).subs, u.handle = (thr s 0).get 1) ∧
       ((s.ctx 0).subs.find? fun u => u.handle == (thr s 0).get 1) = some ⟨7#32, 0x70000, 4096⟩ ∧ (thr s 0).deadline = none ∧
       s.versionRead ⟨7#32, 0x70000, 4096⟩ = .ok 0#32 ∧
       (thr s 0).timedOut = false ∧
       (cast [⟨7#32, 0x70000, 4096⟩] [] none).readCasts ((cast [] [] none).ctx 0) = (s.ctx 0).casts ∧
       (s.copiesOf 7#32).Pairwise (fun x y => x.base + x.size ≤ y.base ∨ y.base + y.size ≤ x.base) ∧ ∀ x ∈ s.copiesOf 7#32, 4 ≤ x.size) ∧
    (let s := cast [⟨7#32, 0x70000, 4096⟩] [(1, 7#32), (4, 1#32)] (some 9)
     s.active g0 = [0] ∧ ((s.ctx 0).subs.find? fun u => u.handle == (thr s 0).get 1) = some ⟨7#32, 0x70000, 4096⟩ ∧
       (thr s 0).deadline = some 9 ∧ 9 ≤ s.clock ∧ s.versionRead ⟨7#32, 0x70000, 4096⟩ = .ok 0#32 ∧ (0#32 - (thr s 0).get 4).toInt < 0) ∧
    (∀ e ∈ [([⟨7#32, 0x70000, 4096⟩], 0#32, true), ([⟨7#32, 0x70000, 4096⟩], 1#32, false)], let s := awaiting e.1 e.2.1
      s.block 0 = some (blk0 s) ∧ (blk0 s).threads[0]? = some (thr s 0) ∧ (thr s 0).status = .waiting (.vwait 7#32 e.2.1) ∧
        ((s.ctx (blk0 s).slot).subs.find? fun u => u.handle == 7#32) = some ⟨7#32, 0x70000, 4096⟩ ∧
        decide (0 ≤ (BitVec.ofNat 32 (leNat (s.homeBytes 0x70000 4)) - e.2.1).toInt) = e.2.2) ∧
    (let s := awaiting [] 1#32
     ((s.ctx (blk0 s).slot).subs.find? fun u => u.handle == 7#32) = none ∧ (thr s 0).deadline = some 9 ∧ 9 ≤ s.clock) ∧
    (let s : State := { cast [⟨7#32, 0x70000, 4096⟩] [] none with casting := [.castWrite 7#32 8 [1#8], .version 7#32 1#32] }
     s.ownWindow 7#32 = true ∧ (Flit.castWrite 7#32 8 [1#8]) ∈ s.casting ∧ s.casting.takeWhile (· != .castWrite 7#32 8 [1#8]) = [] ∧
       (∃ y ∈ s.casting.takeWhile (· != .version 7#32 1#32), y.precedes (.version 7#32 1#32) = true)) ∧
    (let s : State := { cast [⟨7#32, 0x70000, 4096⟩] [] none with casting := [.version 7#32 1#32] }
     (Flit.version 7#32 1#32) ∈ s.casting ∧ s.casting.takeWhile (· != .version 7#32 1#32) = []) ∧
    (two.ownWindow 0x400005#32 = false ∧ two.route.isSome = true) ∧
    (let s : State := { two with ports := (List.range 18).map fun n => (n, ⟨false, 4⟩) }
     s.ownWindow 0x400005#32 = false ∧ s.route.isSome = false) ∧ (List.replicate 232 0#8).length ≤ 232 ∧ 232 < (List.replicate 233 0#8).length := by
  refine ⟨?_, ?_, ?_, ?_, ?_, ?_, ?_, ?_, ?_, ?_, ?_, ?_, ?_, ?_, ?_, ?_⟩ <;> decide +kernel

/-- A stream register of rows of `epr` elements at a base: format code, rows, elements, stride, and its other fields. -/
def streamReg (base fmt rows epr stride flags : Nat) : BitVec 256 := BitVec.ofNat 256
  (base + fmt * 2 ^ 64 + rows * 2 ^ 80 + epr * 2 ^ 96 + stride * 2 ^ 112 + rows * 2 ^ 136 + epr * 2 ^ 152 + flags)
/-- A command of block 0 that moves 64 bytes up from the start of the scratchpad. -/
def moving (id : W32) (kind : CmdKind) (ctx : Bool) : Cmd :=
  { id, seq := 0, blk := 0, ctx, tid := 0, scope := .core, kind, sys := false, baddr := 0x40000#56, ring := none, bar := none, next := 0,
    step := 0, pool := 0x60000, pins := [], past := 0, rd := [], wr := [], finished := false, faulted := false, paused := false, slot0 := 0, fl := 0#5, parked := none, lastPark := none }
/-- 64 bytes up from the start of the scratchpad. -/
def upward : CmdKind := .nest 0x00FF000000000000 (0x00FF000000000000 + 64) 64 [] none
/-- A state with n such commands on channel 3, CB being 0. -/
def queued (s : State) (n : Nat) (ctx : Bool) : State :=
  let l := (List.range n).map fun i => moving (BitVec.ofNat 32 (i + 1)) upward ctx
  let ch : Chan := { Chan.reset with next := BitVec.ofNat 32 (n + 1), cmds := l }
  s.modCore 0 fun c => { c with chans := Tbl.put Chan.reset c.chans 3 ch }
/-- Each lane copies 32 bytes of its own, up by 64, of which barrier 2 hears. -/
def copying : State := lanes [0, 1] fun tid t => { t with regs :=
  (if tid = 0 then [] else [(2, 32#32)]) ++ [(3, 0x00FF0000#32), (4, if tid = 0 then 64#32 else 96#32), (5, 0x00FF0000#32), (6, 32#32), (7, 0x12#32)] }
/-- The nest of two levels at 0x50000, which register 2 names: 3 x 2 copies of 16 bytes into the scratchpad. -/
def nested : State :=
  let s := lanes [0] (regs [(2, 0x50000#32)])
  { s with mem := writeBytes s.mem 0x50000 (leBytes 64 (0x51000 + 0x00FF000000000000 * 2 ^ 64 + 16 * 2 ^ 128 + 2 * 2 ^ 160 +
      (3 + 64 * 2 ^ 32 + 16 * 2 ^ 80) * 2 ^ 256 + (2 + 512 * 2 ^ 32 + 64 * 2 ^ 80) * 2 ^ 384)) }
/-- The same descriptor at 0x1000 in the scratchpad, which both lanes name. -/
def nestedBeside : State :=
  let s := lanes [0, 1] (regs [(2, 0x1000#32), (3, 0x00FF0000#32)])
  { s with mem := writeBytes s.mem (2 ^ 52 + 0x1000) (leBytes 64 (0x51000 + 0x00FF000000000000 * 2 ^ 64 + 16 * 2 ^ 128 + 2 * 2 ^ 160 +
      (3 + 64 * 2 ^ 32 + 16 * 2 ^ 80) * 2 ^ 256 + (2 + 512 * 2 ^ 32 + 64 * 2 ^ 80) * 2 ^ 384)) }
/-- A nest descriptor reads, and its copy passes every check. -/
def nestPasses (s : State) (p : Party) (va : Nat) : Bool :=
  match readNest s p va with
  | .error _ => false
  | .ok (d, _) =>
    match nestAsk d 0 none with
    | .error _ => false
    | .ok k => s.askCheck (blk0 s) p k = .ok ()
/-- What a C slot asks for passes every check. -/
def askPasses (s : State) (e : Except Stop (Ask × State)) : Bool :=
  match e with
  | .error _ => false
  | .ok (k, s1) => s1.askCheck (blk0 s) ((blk0 s).engine 0 6) k = .ok ()
/-- A C slot with streams of 16-byte rows in registers 1 and 2, the latter with the given further fields, ring 1 of four slots of 272
bytes at the start of the scratchpad, k2 as given and k3 = 0x50000; the pool of R192, with 4 KiB pages, is at 0x60000. -/
def copySlot (k2 : Nat) (f1 f2 : Nat) : State :=
  let streams := [(1, streamReg 0x51000 6 4 4 16 f1), (2, streamReg 0x52000 6 4 4 16 f2)]
  let ring : BitVec 256 := BitVec.ofNat 256 (0x00FF000000000000 + 272 * 2 ^ 64 + 4 * 2 ^ 88 + 2 ^ 160)
  let s := (inTile 6 fun x => { x with k := [(2, BitVec.ofNat 64 k2), (3, 0x50000#64)], s := streams, c := [(1, ring)] }).modCtx 0 fun c =>
    { c with kvpool := 0x60000#64 }
  let pool := leBytes 32 (0x100 + 12 * 2 ^ 40 + 3 * 2 ^ 64 + 0x60100 * 2 ^ 128)
  let nest := leBytes 64 (0x51000 + 16 * 2 ^ 128 + 1 * 2 ^ 160 + (3 + 64 * 2 ^ 32 + 16 * 2 ^ 80) * 2 ^ 256)
  { s with mem := writeBytes (writeBytes s.mem 0x60000 pool) 0x50000 nest }
/-- Channel 3 with no command, the IDs up to 7 given out, CB as given, and a fault kept for ID 6 of the block's threads or its context. -/
def failed (s : State) (cb : W32) (ctx : Bool) : State :=
  let ch : Chan := ⟨8#32, cb, [], [(recKey 0 ctx, { ChanRec.empty with flt := some (6#32, 0x30#512) })]⟩
  s.modCore 0 fun c => { c with chans := Tbl.put Chan.reset c.chans 3 ch }
/-- A channel shut to the lanes; a channel with room for both, and for one; a nest of one lane, and of two whose reads change nothing;
`cwait` before and after its IDs, with a fault kept for it, and `cstat`, with a fault to come and one that has; `cabort` of no lane, and
beside a command that stays; threads in their wait, whose IDs are complete and not. -/
theorem witness_CopyCommands_threads :
    (let s := queued two 6 false
     s.block 0 = some (blk0 s) ∧ s.cur.lanes.Nodup ∧ ∃ tid ∈ s.active g0, s.chanShut 0 3 ((blk0 s).clusterOf tid) = true) ∧
    (∀ n ∈ [4, 5], let s := queued copying n false
     (∀ tid ∈ s.active g0, s.chanShut 0 3 ((blk0 s).clusterOf tid) = false) ∧ ∀ tid ∈ s.active g0, ∀ x ∈ s.thread 0 tid,
       let a := (x.get64 2).toNat
       let e := (x.get64 4).toNat
       let n := (x.get 6).toNat
       a < 2 ^ 56 ∧ e < 2 ^ 56 ∧ 0 < n ∧ (x.get 7).toNat < 32 ∧ s.askCheck (blk0 s) ((blk0 s).party 0 x.sys tid)
         ⟨.nest a e n [] none, [extentOf a (n * 1)], [extentOf e (n * 1)], (some a, some e), none,
           if (x.get 7).getLsbD 4 then some ((x.get 7).setWidth 4) else none, []⟩ = .ok ()) ∧
    (nested.active g0 = [0] ∧ nested.chanShut 0 3 ((blk0 nested).clusterOf 0) = false ∧
      nestPasses nested ((blk0 nested).party 0 false 0) 0x50000 = true) ∧
    (let s := nestedBeside
     ∀ tid ∈ s.active g0, s.chanShut 0 3 ((blk0 s).clusterOf tid) = false ∧
       nestPasses s ((blk0 s).party 0 false tid) 0x00FF000000001000 = true ∧
       (readNest s ((blk0 s).party 0 false tid) 0x00FF000000001000).toOption.map (·.2) = some s) ∧
    (let s := queued two 2 false
     ∀ tid ∈ s.active g0, ∀ x ∈ s.thread 0 tid, (((s.chan 0 3).next - 1#32) - x.get 4).toNat < 2 ^ 31 ∧
       ((s.chan 0 3).cb - x.get 4).toNat < 2 ^ 31 ∧ ¬ ((s.chan 0 3).cb - 2#32).toNat < 2 ^ 31 ∧ ((s.chan 0 3).rec_ 0 false).flt = none) ∧
    (let s := failed two 7#32 false
     ((s.chan 0 3).rec_ 0 false).flt = some (6#32, 0x30#512) ∧ (∀ tid ∈ s.active g0, ∀ x ∈ s.thread 0 tid,
       (((s.chan 0 3).next - 1#32) - x.get 2).toNat < 2 ^ 31 ∧ ((s.chan 0 3).cb - x.get 2).toNat < 2 ^ 31) ∧
     (s.active g0).filter (fun tid => (s.thread 0 tid).any fun x => decide ((x.get 2 - 6#32).toNat < 2 ^ 31)) ≠ [] ∧
     ((s.chan 0 3).cb - 6#32).toNat < 2 ^ 31) ∧
    (let s := failed two 5#32 false
     ((s.chan 0 3).rec_ 0 false).flt = some (6#32, 0x30#512) ∧ 2 ^ 31 ≤ ((s.chan 0 3).cb - 6#32).toNat) ∧
    (let s := queued two 2 true
     s.active g0 ≠ [] ∧ s.active ⟨true, 0#4⟩ = [] ∧ ((s.chan 0 3).cmds.map Cmd.id).Nodup ∧
       ∃ m ∈ (s.chan 0 3).cmds, m.ctx = true ∧ m.finished = false) ∧
    (∀ id ∈ [0, 1], let s : State := { inState (.waiting (.cwait 3 (BitVec.ofNat 32 id))) none with cores := (queued two 2 false).cores }
      s.block 0 = some (blk0 s) ∧ (blk0 s).threads[0]? = some (thr s 0) ∧ (thr s 0).status = .waiting (.cwait 3 (BitVec.ofNat 32 id))) ∧
    (((queued two 2 false).chan 0 3).cb - 0#32).toNat < 2 ^ 31 ∧ ¬ (((queued two 2 false).chan 0 3).cb - 1#32).toNat < 2 ^ 31 := by
  refine ⟨?_, ?_, ?_, ?_, ?_, ?_, ?_, ?_, ?_, ?_, ?_⟩ <;> decide +kernel
/-- C slots: a full channel, then each copy with its checks passed; waits with commands left, of an earlier bundle, and with none but those
of the bundle itself; and with a fault kept for the context. -/
theorem witness_CopyCommands_slots :
    (let s := queued (copySlot 4 0 0) 6 true
     s.block 0 = some (blk0 s) ∧ 6 ≤ (s.chan 0 3).cmds.length ∧ 5 < ((s.chan 0 3).cmds.filter fun m => m.blk == 0 && m.ctx && true).length ∧
       ((s.chan 0 3).cmds.filter fun m => m.blk == 0 && m.ctx && m.step != (blk0 s).tile.step).length ≤ 0) ∧
    (let s := (queued (copySlot 4 0 0) 1 true).modBlock 0 fun b => { b with tile := { b.tile with step := 8 } }
     0 < ((s.chan 0 3).cmds.filter fun m => m.blk == 0 && m.ctx && m.step != (blk0 s).tile.step).length) ∧
    (let s := failed (copySlot 4 0 0) 7#32 true
     ((s.chan 0 3).rec_ 0 true).flt = some (6#32, 0x30#512) ∧ ((s.chan 0 3).cb - 6#32).toNat < 2 ^ 31 ∧ (s.chan 0 3).cmds = [] ∧
       (∀ ch ∈ [0, 1, 2], ((s.chan 0 ch).rec_ 0 true).flt = none)) ∧
    (let s := copySlot 4 0 (2 ^ 70)
     (s.chan 0 3).cmds.length < 6 ∧ (blk0 s).cx = some 0 ∧ askPasses s (ccpyAsk ⟨v0, 1#4, 2#4, 3#3, 2#6⟩ (blk0 s) ((blk0 s).engine 0 6) s) = true) ∧
    (let s := copySlot (4 + 2 ^ 16) 0 (2 ^ 70 + 2 ^ 71 + 2 ^ 72)
     askPasses s (ccpyAsk ⟨v0, 1#4, 2#4, 3#3, 2#6⟩ (blk0 s) ((blk0 s).engine 0 6) s) = true) ∧
    (let s := copySlot 4 0 0
     askPasses s (ccpnAsk 3#6 (blk0 s) ((blk0 s).engine 0 6) s) = true ∧
       askPasses s (ccpnRingAsk 3#6 1#3 1 (blk0 s) ((blk0 s).engine 0 6) s) = true) ∧
    (let s := copySlot (2 ^ 32) (2 ^ 192) (2 ^ 70 + 2 ^ 71 + 2 ^ 72)
     askPasses s (cgathAsk ⟨v0, 1#4, 2#4, 3#3, 2#6⟩ (blk0 s) ((blk0 s).engine 0 6) s) = true) ∧
    (let s := copySlot (2 ^ 32) 0 (2 ^ 70 + 2 ^ 192)
     askPasses s (cscatAsk ⟨v0, 1#4, 2#4, 3#3, 2#6⟩ (blk0 s) ((blk0 s).engine 0 6) s) = true) ∧
    (∀ ch ∈ List.range 8, (((copySlot 4 0 0).chan 0 ch).cmds.filter fun m => m.blk == 0 && m.ctx).length ≤ 0 ∧
      (((copySlot 4 0 0).chan 0 ch).rec_ 0 true).flt = none) := by decide +kernel

/-- A gather of one block into ring 1, of the block table at 0x51000, whose entry names page 0x100; its page is pinned or not, and its pin
count as given. -/
def gathering (pins : List (Nat × Nat)) (count : Nat) : State :=
  let s := copySlot 0 (2 ^ 192) (2 ^ 70 + 2 ^ 71 + 2 ^ 72)
  let kind : CmdKind := .gather (streamReg 0x51000 6 4 4 16 (2 ^ 192)) (streamReg 0x52000 6 4 4 16 (2 ^ 70 + 2 ^ 71 + 2 ^ 72)) 0 1 []
  let m : Cmd := { moving 1#32 kind true with ring := some (1#3, 1, 0#32), slot0 := 0x00FF000000000000, pins }
  let ch : Chan := { Chan.reset with next := 2#32, cmds := [m] }
  { s.modCore 0 fun c => { c with chans := Tbl.put Chan.reset c.chans 3 ch } with
    mem := writeBytes (writeBytes s.mem 0x51000 (leBytes 16 (2 ^ 74 + 0x100))) 0x60100 (leBytes 16 (1 + count * 2 ^ 32)) }
/-- One command on channel 3 from an address that nothing maps. -/
def astrayCopy : State :=
  let ch : Chan := { Chan.reset with next := 2#32, cmds := [moving 1#32 (.nest 0x4000000 0x00FF000000000000 4 [] none) false] }
  two.modCore 0 fun c => { c with chans := Tbl.put Chan.reset c.chans 3 ch }
/-- A watchpoint of the context meets what an engine writes into the scratchpad. -/
def watched (s : State) : State :=
  s.modCtx 0 fun c => { c with wpc := [(0, BitVec.ofNat 64 (1 + 8 + 24 * 16 + 4096))], wpa := [(0, 0x00FF000000000000#64)] }
/-- What the next step of a command's block is: 1 a pin, 2 its end, 3 a wait for a pin, 4 its end at a watchpoint. -/
def stepKind (e : Option (Except Stop BlockStep)) : Nat :=
  match e with
  | some (.ok (.pinned _ _ mv)) => if mv.hit.isNone then 1 else 0
  | some (.ok (.done mv)) => if mv.hit.isNone then 2 else 4
  | some (.ok (.wait _)) => 3
  | _ => 0
/-- A command's movement meets a fault. -/
def moveFault (e : Except Stop (Option Move)) : Bool :=
  match e with
  | .error (.fault _ _ _ _ _) => true
  | _ => false
/-- A movement is whole. -/
def moveDone (e : Except Stop (Option Move)) : Bool :=
  match e with
  | .ok (some _) => true
  | _ => false
/-- A context waits for channel 3; and a barge that waits for it. -/
def waitingSlot (cx : Nat) : State :=
  (inTile 6 fun x => { x with wait := some (.channel 3) }).modBlock 0 fun b => { b with cx := some cx }
def waitingBarge : State := inState (.stalled (.channel 3)) none
/-- A copy at the head of its channel, another behind it; the steps of a gather, and one that a watchpoint meets; a command that faults;
issuers that wait. -/
theorem witness_CopyChannels :
    (let s := queued two 2 false
     (s.chan 0 3).cmds = [moving 1#32 upward false, moving 2#32 upward false] ∧ s.block 0 = some (blk0 s) ∧ (blk0 s).core = 0 ∧
       0 + 64 ≤ (blk0 s).scrOff + (blk0 s).scrLen ∧ 64 + 64 ≤ (blk0 s).scrOff + (blk0 s).scrLen ∧ (blk0 s).scrOff + (blk0 s).scrLen ≤ 2 ^ 20 ∧
       (blk0 s).killed = false ∧ (s.ctx 0).killing = false ∧ (blk0 s).stoppedExited = false ∧
       (∀ e ∈ s.ctxs, s.produced e.2 = []) ∧ (s.ctx 0).wpc = [] ∧ (s.ctx 0).traces 6 = false ∧ s.poison = [] ∧ s.bad = [] ∧
       s.running 0 3 1#32 = some (moving 1#32 upward false, blk0 s) ∧ moveDone (s.moveCmd (blk0 s) (moving 1#32 upward false)) = true) ∧
    (∀ e ∈ [([], 0, 1), ([(2 ^ 74 + 0x100, 0x60100)], 1, 2), ([], 65535, 3)], let s := gathering e.1 e.2.1
      ∃ m ∈ (s.chan 0 3).cmds, (s.chan 0 3).cmds = [m] ∧ s.running 0 3 1#32 = some (m, blk0 s) ∧ stepKind (s.nextBlockStep (blk0 s) m) = e.2.2) ∧
    (let s := watched (gathering [(2 ^ 74 + 0x100, 0x60100)] 1)
     ∃ m ∈ (s.chan 0 3).cmds, (s.chan 0 3).cmds = [m] ∧ s.running 0 3 1#32 = some (m, blk0 s) ∧ stepKind (s.nextBlockStep (blk0 s) m) = 4) ∧
    (∃ m ∈ (astrayCopy.chan 0 3).cmds, astrayCopy.running 0 3 1#32 = some (m, blk0 astrayCopy) ∧
      stepKind (astrayCopy.nextBlockStep (blk0 astrayCopy) m) = 0 ∧ moveFault (astrayCopy.moveCmd (blk0 astrayCopy) m) = true ∧
      ((astrayCopy.chan 0 3).rec_ 0 false).flt = none) ∧
    (∀ cx ∈ [0, 1], let s := waitingSlot cx
      (s.chan 0 3).cmds.length < 6 ∧ s.block 0 = some (blk0 s) ∧ (blk0 s).core = 0 ∧ (blk0 s).cx = some cx ∧
        (blk0 s).tile.wait = some (.channel 3) ∧ s.mayIssue (blk0 s) = true ∧ (cx = 0 ∨ s.channelCtx 0 3 0 = false)) ∧
    ((waitingBarge.chan 0 3).cmds.length < 6 ∧ waitingBarge.channelCtx 0 3 0 = false ∧ waitingBarge.channelCtx 0 3 1 = false ∧
      waitingBarge.channelBarge 0 3 0 = some (0, 0)) := by decide +kernel

/-- One lane at system privilege of the management context: a value in registers 2 and 3, a slot number in register 5. -/
def manager (v : Nat) (n : Nat) : State := lanes [0] (sysRegs [(2, BitVec.ofNat 32 v), (3, BitVec.ofNat 32 (v / 2 ^ 32)), (5, BitVec.ofNat 32 n)])
/-- The same, slot n being loaded with part 2. -/
def managerOf (v : Nat) (n : Nat) : State := (manager v n).modCtx n fun c => { c with loaded := true, part := 2#3 }
/-- `sysr` of the last slot and of the block's own context, `sysw` by one lane, the values of the writes that have conditions, at their
bounds, and the events of the table. -/
theorem witness_SystemRegisters :
    (let s := manager 0 63
     s.block 0 = some (blk0 s) ∧ (blk0 s).slot = 0 ∧ s.lanesAt false = [] ∧ (s.flagBlock 0 (blk0 s)).bind (fun n => (s.block n).map (·.tile)) ≠ none ∧
       (∀ tid ∈ s.active g0, ∀ x ∈ s.thread 0 tid, (x.get 5).toNat ≤ 63) ∧ s.active g0 = [0] ∧ (s.ctx 63).loaded = false ∧
       s.walkUse 63 ≤ 0 % 256 * 1024 ∧ s.faultWait = [] ∧ s.thread 0 0 = some (thr s 0) ∧ s.flagBlock 0 (blk0 s) = some 0 ∧
       ∀ u ∈ (blk0 s).threads, u.status = .active) ∧
    (let x := thr (manager (2 ^ 49 - 1) 63) 0
     (x.get64 2).toNat / 2 ^ 49 % 8 = 0) ∧
    (let x := thr (manager 1 63) 0
     (x.get64 2).setWidth 32 ≠ 0#32 ∧ (x.get64 2).setWidth 12 ≠ 0#12) ∧
    (let x := thr (manager (64 * 2 ^ 56) 63) 0
     (x.get64 2).toNat / 2 ^ 56 % 2 ^ 7 ≤ 64) ∧
    (let x := thr (manager (2 * 2 ^ 8) 63) 0
     (x.get64 2).getLsbD 0 = false ∧ (x.get64 2).getLsbD 1 = false) ∧
    (let s := managerOf (2 * 2 ^ 8) 63
     (s.ctx 63).loaded = true ∧ ((thr s 0).get64 2).extractLsb' 8 3 = (s.ctx 63).part ∧ (s.ctx 63).killing = false ∧ s.ctxBusy 63 = false) ∧
    (let s := State.reset
     ∀ m, m < 64 → m ≠ 63 → (s.ctx m).loaded = true → (s.ctx m).asid ≠ (s.ctx 63).asid) ∧ State.reset.blocks = [] := by decide +kernel

/-- A step that may stop goes on. -/
def isOk {α : Type} (e : Except Stop α) : Bool :=
  match e with
  | .ok _ => true
  | .error _ => false
/-- Block 0 with frames from 0x2000000: of two threads, four registers and no tile, its pre-emption requested at cycle 9. -/
def asked (locked : Bool) : State :=
  let s := ((if locked then inTile 6 id else two).modCtx 0 fun c => { c with frameb := 0x2000000#64 }).modBlock 0 fun b =>
    { b with bsize := 2, nregs := 4, accTiles := 0, cx := none, preempt := some (4, 5), threads := b.threads.take 2 }
  { s with clock := 9 }
/-- It waits at a drain point of its lock. -/
def drainedAsked : State := (asked true).modBlock 0 fun b => { b with tile := { b.tile with wait := some .drain } }
/-- Below 64 MiB a leaf held in the translation buffers maps a page onto itself. -/
theorem translate_identity {s : State} {p : Party} {e : TlbEntry} {va : Nat} (h3 : (s.tlbs p.core).all (fun e => e.level != 3) = true)
    (h2 : tlbFind (s.tlbs p.core) (s.ctx p.slot).asid 0 2 = some e) (he : e.pte = 0x103F#64) (hv : va < 2 ^ 26) :
    s.translate p va .write = .ok { loc := va, obj := false, count := none, read := [] } := by
  have hvpn : vpnAt va 2 = vpnAt 0 2 := by simp [vpnAt]; omega
  have hf3 : tlbFind (s.tlbs p.core) (s.ctx p.slot).asid va 3 = none := by
    rw [tlbFind, List.find?_eq_none]
    intro x hx
    have := List.all_eq_true.1 h3 x hx
    simp_all
  have hf2 : tlbFind (s.tlbs p.core) (s.ctx p.slot).asid va 2 = some e := by
    rw [← h2]; simp only [tlbFind, hvpn]
  have hd : s.paExists va = true := by
    have : paRegion va = 0 := by simp [paRegion]; omega
    simp [State.paExists, this, paDram]; omega
  have hl : pteLeaf e.pte = true := by rw [he]; decide
  have ha : pteAddr 0x103F#64 = 0 := by decide
  have hp : leafPermits 0x103F#64 .write p.sys = true := by cases p.sys <;> decide
  have hs : Option.filter (fun e => pteLeaf e.pte) (some e) = some e := by simp [Option.filter, hl]
  have hw : s.walk p.core (s.ctx p.slot).asid (s.ctx p.slot).ptroot.toNat va = .ok { pte := 0x103F#64, level := 2, ptea := e.ptea, read := [] } := by
    simp [State.walk, hf3, hf2, hs, he]
  have hm : va % 67108864 = va := Nat.mod_eq_of_lt hv
  simp [State.translate, State.walkFor, hw, hp, ha, Acc.writes, hm, hd]
/-- Where that leaf maps a frame region, in whose gaps memory lists nothing, making the gaps zero changes nothing. -/
theorem zeroGaps_identity {s : State} {p : Party} {e : TlbEntry} {base : Nat} {l : List (Nat × Nat)}
    (h3 : (s.tlbs p.core).all (fun e => e.level != 3) = true)
    (h2 : tlbFind (s.tlbs p.core) (s.ctx p.slot).asid 0 2 = some e) (he : e.pte = 0x103F#64) (hl1 : (s.core p.core).l1 = [])
    (hm : ∀ g ∈ l, base + g.1 + g.2 ≤ 2 ^ 26 ∧ ∀ x ∈ s.mem, x.1 < base + g.1 ∨ base + g.1 + g.2 ≤ x.1) :
    s.zeroGaps p base l = .ok s := by
  have hpages : ∀ (n va len : Nat), ∀ y ∈ pagesOf va n len, va ≤ y.1 ∧ y.1 + y.2 ≤ va + len ∧ 0 < y.2 := by
    intro n
    induction n with
    | zero => simp [pagesOf]
    | succ n ih =>
      intro va len y hy
      simp only [pagesOf] at hy
      split at hy
      · simp at hy
      · rcases List.mem_cons.1 hy with rfl | hy
        · have : Nat.min len (0x10000 - va % 0x10000) ≤ len := Nat.min_le_left _ _
          have : 0 < Nat.min len (0x10000 - va % 0x10000) := Nat.lt_min.2 ⟨by omega, by omega⟩
          exact ⟨Nat.le_refl _, by simp only; omega, this⟩
        · have := ih _ _ y hy
          have : Nat.min len (0x10000 - va % 0x10000) ≤ len := Nat.min_le_left _ _
          omega
  have hfold : ∀ (q : List (Nat × Nat)), (∀ y ∈ q, ∃ g ∈ l, base + g.1 ≤ y.1 ∧ y.1 + y.2 ≤ base + g.1 + g.2 ∧ 0 < y.2) →
      foldStop (fun (s : State) (x : Nat × Nat) =>
        match s.translate p x.1 .write with
        | .ok pl => .ok ((s.used p.core pl).zeroAt p.core pl.loc x.2)
        | .error (.park a va posts) => .error (.park a va posts)
        | .error _ => .ok s) s q = .ok s := by
    intro q
    induction q with
    | nil => simp [foldStop]
    | cons y q ih =>
      intro hq
      obtain ⟨g, hg, h⟩ := hq y (by simp)
      have hgm := hm g hg
      have ht := translate_identity h3 h2 he (va := y.1) (by omega)
      have hz : s.zeroAt p.core y.1 y.2 = s := by
        have : s.mem.filter (fun e => decide (y.1 ≤ e.1) && decide (e.1 < y.1 + y.2)) = [] := by
          rw [List.filter_eq_nil_iff]
          intro x hx
          have := hgm.2 x hx
          simp; omega
        simp [State.zeroAt, hl1, this]
      simp only [foldStop, ht, State.used, List.all_nil, if_true, hz]
      exact ih fun z hz => hq z (by simp [hz])
  refine hfold _ fun y hy => ?_
  obtain ⟨g, hg, hy⟩ := List.mem_flatMap.1 hy
  exact ⟨g, hg, by have := hpages _ _ _ y hy; omega⟩
/-- Its frame can be written, and nothing is listed in the gaps of its region. -/
def frameFits (s : State) (long : Bool) : Bool :=
  let c := (blk0 s).settle
  let base := s.frameRegion c
  match s.writeParts (c.framer 0) base (c.frameParts 0#16 long) with
  | .error _ => false
  | .ok t => (t.tlbs 0).all (fun e => e.level != 3) &&
      (tlbFind (t.tlbs 0) (t.ctx c.slot).asid 0 2).any (fun e => e.pte == 0x103F#64) && (t.core 0).l1 == [] &&
      (c.frameGaps long).all fun g => base + g.1 + g.2 ≤ 2 ^ 26 && t.mem.all fun x => x.1 < base + g.1 || base + g.1 + g.2 ≤ x.1
/-- Then it is saved: its parts are written and its gaps are zero. -/
theorem frame_saves {s : State} {long : Bool} (hc : (blk0 s).settle.core = 0) (h : frameFits s long = true) :
    let c := (blk0 s).settle
    ∃ s1 s2, s.writeParts (c.framer 0) (s.frameRegion c) (c.frameParts 0#16 long) = .ok s1 ∧
      s1.zeroGaps (c.framer 0) (s.frameRegion c) (c.frameGaps long) = .ok s2 := by
  intro c
  simp only [frameFits] at h
  split at h
  · exact absurd h (by simp)
  · next t ht =>
    simp only [Bool.and_eq_true] at h
    obtain ⟨⟨⟨h3, h2⟩, hl⟩, hg⟩ := h
    obtain ⟨e, h2, he⟩ := (Option.any_eq_true _ _).1 h2
    refine ⟨t, t, ht, zeroGaps_identity (e := e) (p := c.framer 0) (by simpa [Block.framer, Block.party, c, hc] using h3)
      (by simpa [Block.framer, Block.party, c, hc] using h2) (by simpa using he) (by simpa [Block.framer, Block.party, c, hc] using hl) fun g hm => ?_⟩
    simpa using List.all_eq_true.1 hg g hm

/-- `dbgr` by one lane of the management context and of slot 3; the values of the writes at their bounds; and the events. -/
theorem witness_DebugRegistersHaltsAndTraces :
    (∀ n ∈ [0, 3], let s := (manager 0 0).modBlock 0 fun b => { b with slot := n }
      s.block 0 = some (blk0 s) ∧ (blk0 s).slot = n ∧ s.lanesAt false = [] ∧ s.active g0 = [0] ∧ (s.ctx n).dsel.toNat = n) ∧
    (∀ v ∈ [0, 63], ((thr (manager v 0) 0).get64 2).toNat < 64) ∧ (∀ v ∈ [0, 3], ((thr (manager v 0) 0).get64 2).toNat < 4) ∧
    (let v := ((thr (manager (2 ^ 56 - 8) 0) 0).get64 2).toNat
     v < 2 ^ 56 ∧ v % 4 = 0 ∧ v % 8 = 0) ∧
    (let v := ((thr (manager 0xFF03 0) 0).get64 2).toNat
     v < 2 ^ 16 ∧ v % 2 ^ 8 < 4) ∧
    (let v := (thr (manager 0x318D 0) 0).get64 2
     v &&& ~~~(0x31FD#64) = 0#64 ∧ v.toNat / 2 ^ 4 % 2 ^ 5 ≤ 24 ∧ v.toNat % 2 = 1 ∧ v.toNat / 4 % 4 ≠ 0) ∧
    (let v := ((thr (manager (383 + 10 * 2 ^ 9) 0) 0).get64 2).toNat
     v < 2 ^ 13 ∧ v % 2 ^ 9 < 384 ∧ v / 2 ^ 9 ≤ 10) ∧
    (let v := ((thr (manager (2 ^ 49 - 2 ^ 12) 0) 0).get64 2).toNat
     v < 2 ^ 49 ∧ v % 2 ^ 12 = 0) ∧
    (let v := ((thr (manager (12 * 2 ^ 32 + 7) 0) 0).get64 2).toNat
     v < 2 ^ 36 ∧ v / 2 ^ 8 % 2 ^ 8 = 0 ∧ v / 2 ^ 32 ≤ 12 ∧ (two.ctx 0).trbase.toNat + 384 * 2 ^ (12 + v / 2 ^ 32) ≤ 2 ^ 49) ∧
    ((two.ctx 63).halted = false ∧ (two.ctx 63).halt = none ∧ (two.ctx 63).dstat.getLsbD 0 = false) ∧
    (let s := two.modCtx 0 fun c => { c with halt := some ⟨0, []⟩ }
     (s.ctx 0).halt = some ⟨0, []⟩ ∧ (∀ x ∈ (blk0 s).threads, x.noStop = false ∧ x.entry = none) ∧ Tbl.wf none s.blocks = true ∧
       s.blocks.map Prod.fst = [0]) ∧
    (let s := (two.modCtx 0 fun c => { c with halted := true }).modBlock 0 fun b => { b with life := .stopped, stoppedFrom := some .running }
     (s.ctx 0).halted = true ∧ (s.ctx 0).dctl = 0#2 ∧ (∀ x ∈ (blk0 s).threads, x.atBrk = false) ∧ (blk0 s).freeze = none ∧
       (blk0 s).stoppedFrom = some .running) ∧
    (let s := two.modCtx 0 fun c => { c with bpc := [(2, 1#64)], bpa := [(2, 0x40000#64)] }
     (blk0 s).slot = 0 ∧ (blk0 s).killed = false ∧ (blk0 s).life = .running ∧ (thr s 0).status = .active ∧ (thr s 0).entry = none ∧
       (s.ctx 0).halted = false ∧ (s.ctx 0).halt = none ∧ (s.ctx 0).dstat.getLsbD 0 = false ∧
       minPc ((blk0 s).candidates (thr s 0).barge) = some (thr s 0).pc ∧ (s.ctx 0).bpMatch false (thr s 0).pc = some 2) ∧
    (let s : State := { two.modCtx 0 fun c => { c with halt := some ⟨0, []⟩ } with clock := 512 }
     s.thread 0 0 = some (thr s 0) ∧ (s.ctx 0).halt = some ⟨0, []⟩ ∧ 0 + 512 ≤ s.clock) ∧
    (let s : State := { two.modCtx 0 fun c => { c with trctl := 0x10005#64, trbase := 0x100000#64 } with clock := 64 }
     let c := s.ctx 0
     s.sampleDue 0 0 0 = true ∧ s.unitRuns 0 0 0 = true ∧ s.sampleDue 0 0 10 = false ∧ ({ s with clock := 63 } : State).sampleDue 0 0 0 = false ∧
       (Tbl.get 0#64 (s.core 0).trptr 0).toNat = 0 ∧ c.trctl.toNat / 2 ^ 32 % 16 = 0 ∧ paDram 0x100000 = true) := by
  refine ⟨?_, ?_, ?_, ?_, ?_, ?_, ?_, ?_, ?_, ?_, ?_, ?_, ?_, ?_, ?_⟩ <;> decide +kernel

/-- One lane at system privilege that names an ASID and a virtual address, with a dirty line of address 0x50000 in its core's L1, of which
the core has written the first eight bytes. -/
def upkeep : State := (lanes [0] (sysRegs [(1, 0#32), (2, 0x50000#32)])).modCore 0 fun c =>
  { c with l1 := [⟨0x50000 / 128, 0#8, true, .plain, List.replicate 128 1#8, 0xFF#128, 0#16⟩] }
/-- Thread 0 waits at `idle` for both queues, its timeout come; a record is in the fault queue's block, or none. -/
def idling (record : Bool) : State :=
  let s := inState (.waiting (.idle 3#2)) (some 9)
  { s with fqbase := 0x60000#64, mem := writeBytes s.mem 0x6000C (leBytes 4 record.toNat) }
/-- Shootdowns by the management context and by another; flushes; `idle`; threads in their waits, a record in a queue or none, with the
timeouts of all come or not; a line that holds a park. -/
theorem witness_MaintenanceInstructions :
    (upkeep.block 0 = some (blk0 upkeep) ∧ upkeep.lanesAt false = [] ∧ (blk0 upkeep).slot = 0 ∧ upkeep.active g0 = [0] ∧
      ((thr upkeep 0).get 1).toNat < 2 ^ 16 ∧ ((thr upkeep 0).get64 2).toNat < 2 ^ 56) ∧
    (L1LinesWhole upkeep ∧ ((upkeep.core 0).l1.map (·.line)).Nodup ∧ (upkeep.core 0).l1.map (·.dirty) = [true]) ∧
    ((((thr upkeep 0).get 1).setWidth 16 : BitVec 16) = ((upkeep.modBlock 0 fun b => { b with slot := 3 }).ctx 3).asid) ∧
    (upkeep.place ((blk0 upkeep).party 0 true 0) ((thr upkeep 0).get64 2).toNat 1 .read =
      .ok (placeOf (upkeep.place ((blk0 upkeep).party 0 true 0) 0x50000 1 .read)) ∧
      ((upkeep.core 0).l1.find? fun l =>
        l.line == (placeOf (upkeep.place ((blk0 upkeep).party 0 true 0) 0x50000 1 .read)).loc / 128 && l.dirty).isSome = true) ∧
    (∀ record, let s := idling record
      s.block 0 = some (blk0 s) ∧ (blk0 s).threads[0]? = some (thr s 0) ∧ (thr s 0).status = .waiting (.idle 3#2) ∧ s.fqbase ≠ 0#64 ∧
        s.nqbase = 0#64 ∧ decide (s.word (s.fqbase.toNat + 12) 4 ≠ s.word (s.fqbase.toNat + 16) 4) = record ∧
        (∀ y ∈ (blk0 s).threads, y.deadline = some 9) ∧ 9 ≤ s.clock ∧ (thr { s with clock := 8 } 0).deadline = some 9) ∧
    ((thr (inState (.stalled .tlbi) none) 0).status = .stalled .tlbi ∧ (inState (.stalled .tlbi) none).postedWrites 0 = false ∧
      (inState (.stalled .tlbi) none).remotes = []) ∧
    (∀ l ∈ [[0x601], [0x600, 0x601]], let s := inState (.stalled (.park l none)) none
      0x601 ∈ l ∧ s.heldLines.contains 0x601 = true ∧ (s.die (paDie (128 * 0x601))).monitors.contains 0x601 = false) ∧
    (∀ v ∈ [Stall.parkNoMonitor 0, .park [0x601] (some 0)], ((inState (.stalled v) none).die 0).monitors.length < 256) :=
  ⟨by decide +kernel, ⟨l1Whole_of (by decide +kernel), by decide +kernel⟩, by decide +kernel, by decide +kernel, by decide +kernel,
    by decide +kernel, by decide +kernel, by decide +kernel⟩

/-- A launch record for one block of 16 threads and 8 registers at 0x40000, with these wait, completion and context fields. -/
def record (waddr wval done ctx : Nat) : Nat :=
  0x40000 + 16 * 2 ^ 64 + 8 * 2 ^ 80 + 1024 * 2 ^ 96 + waddr * 2 ^ 256 + wval * 2 ^ 320 + done * 2 ^ 768 + 1 * 2 ^ 896 + ctx * 2 ^ 898
/-- Context slot 0 owns core 0; queue 5, of four records at 0x50000, holds this record, one more appended than accepted; register 2 names
the record and register 1 the queue. -/
def launching (r : Nat) (src : Bool) (n : W32) : State :=
  let s := (lanes [0] (regs [(1, 5#32), (2, 0x50000#32)])).modCore 0 fun c => { c with part := 0#8 }
  { s with mem := writeBytes s.mem 0x50000 (leBytes 128 r), queues := [(5, { Queue.reset with qbase := 0x50000#56, log2sz := 2#5, src, en := true, tail := n })] }
/-- Launch 3 of that record, released or not; block 0, of another launch, was made resident at cycle 0. -/
def launched (r : Nat) (released : Bool) : State :=
  let s := launching r false 0#32
  { s with launches := [(3, some ⟨BitVec.ofNat 1024 r, 5, 0#32, 0, released, 0, [], 0, some (s.defaultMap 0)⟩)], nextLaunch := 4, clock := 65536 }
/-- Launch 3. -/
def launch3 (s : State) : Launch := (s.launch 3).getD ⟨0#1024, 0, 0#32, 0, false, 0, [], 0, none⟩
/-- Block 0 belongs to launch 3 and drains. -/
def draining (r : Nat) : State := (launched r true).modBlock 0 fun b => { b with launch := 3, life := .draining }
/-- What an agent of the dispatcher reads there. -/
def dispatchReads (s : State) (who va n : Nat) (l : List Byte) : Bool :=
  match s.virtRead (dispatchParty 0 5 who) va n with
  | .ok (x, _) => x = l
  | .error _ => false
/-- A record appended with room, and at a full queue; TAIL written; a record accepted, and rejected; a wait that is due. -/
theorem witness_LaunchesEnter :
    (let s := launching (record 0 0 0 0) true 0#32
     s.block 0 = some (blk0 s) ∧ s.active g0 = [0] ∧ isOk (s.launchRead (blk0 s) ⟨g0, 8#8, 2#8, 1#8⟩ 0 (thr s 0)) = true ∧
        (s.queue 5).count < (s.queue 5).size ∧
        isOk (s.virtWrite ((blk0 s).party 0 false 0) ((s.queue 5).slotVa (s.queue 5).tail) (leBytes 128 (record 0 0 0 0))) = true) ∧
    (let s := launching (record 0 0 0 0) true 4#32
     isOk (s.launchRead (blk0 s) ⟨g0, 8#8, 2#8, 1#8⟩ 0 (thr s 0)) = true ∧ (s.queue 5).size ≤ (s.queue 5).count) ∧
    (∀ e ∈ [(record 0 0 0 0, false), (record 0 0 0 0 + 2 ^ 75, true)], let s := launching e.1 false 1#32
      let r : BitVec 1024 := BitVec.ofNat 1024 e.1
      (s.queue 5).en = true ∧ (s.queue 5).tail ≠ (s.queue 5).head ∧ s.slotOf (s.queue 5).asid = some 0 ∧ (s.ctx 0).killing = false ∧
        s.acceptedOf 5 < 64 ∧ (∀ c ∈ s.cores, c.2.l1 = []) ∧ dispatchReads s 0 0x50000 128 (leBytes 128 e.1) = true ∧ badRecord r = e.2 ∧ lPmap r = 0 ∧
        s.badMap 0 r (s.defaultMap 0) = false ∧ (Room.empty.spot (lNeed r)).isSome = true ∧ lCosched r = false ∧ (∀ w, w < 4 → lWaddr r w = 0)) ∧
    (let s := launched (record 0x60000 0 0 0) false
     s.launch 3 = some (launch3 s) ∧ (launch3 s).released = false ∧ (s.ctx 0).killing = false ∧ lWaddr (launch3 s).record 0 ≠ 0 ∧
       (∀ w, w < 4 → 0 < w → lWaddr (launch3 s).record w = 0) ∧ dispatchReads s 7 0x60000 8 (leBytes 8 0) = true) := by decide +kernel
/-- A block that its core is due; blocks that retire without a completion counter, and with one at 0x60000. -/
theorem witness_BlocksComeAndGo :
    (let s := launched (record 0 0 0 0) true
     s.launch 3 = some (launch3 s) ∧ (launch3 s).waitsWhole = false ∧ s.blockOf 3 0 = none ∧ s.choice ((launch3 s).core 0) = some (3, 0) ∧
       lRole (launch3 s).record = 0 ∧ ((s.room ((launch3 s).core 0) []).spot (lNeed (launch3 s).record)).isSome = true ∧
       s.block s.nextBlock = none) ∧
    (∀ done ∈ [0, 0x60000], let s := draining (record 0 0 done 0)
     s.block 0 = some (blk0 s) ∧ (blk0 s).life = .draining ∧ (blk0 s).killed = false ∧ s.cmdsOf 0 (blk0 s) = [] ∧ s.remotes = [] ∧
       s.launch (blk0 s).launch = some (launch3 s) ∧ (s.core 0).chans = [] ∧ s.windowsBusy 0 (blk0 s) ((blk0 s).windows.map Window.off) = false ∧ lDone (launch3 s).record 1 = 0 ∧ lDone (launch3 s).record 0 = done ∧
       isOk (s.checkRmw (dispatchParty 0 5 2) 0x60000 doneAdd) = true ∧
         (placeOf (s.checkRmw (dispatchParty 0 5 2) 0x60000 doneAdd)).ack = none) := by decide +kernel
/-- A block asked for, for a launch that needs its tile context; saved at its boundaries, and in its lock DPBOUND cycles later, in a
frame without a context; a basin of age; the end of a kill. -/
theorem witness_PreemptionAndKills :
    (let s := launched (record 0 0 0 1) true
     s.launch 3 = some (launch3 s) ∧ (launch3 s).released = true ∧ s.waiting 3 (launch3 s) = [(0, 0)] ∧
       s.victims (launch3 s) 3 0 0 = [0] ∧ s.paired 0 = [0] ∧ s.block 0 = some (blk0 s) ∧ (blk0 s).preempt = none ∧ (blk0 s).saved = false ∧
       (blk0 s).killed = false) ∧
    (let s := asked false
     s.block 0 = some (blk0 s) ∧ s.paired 0 = [0] ∧ (blk0 s).settle.core = 0 ∧ frameFits s false = true ∧ s.canSave 0 = true ∧ (blk0 s).saved = false ∧
       (blk0 s).preempt.isSome = true) ∧
    (∀ e ∈ [(asked true, true), (drainedAsked, false)], let s := e.1
     s.block 0 = some (blk0 s) ∧ (blk0 s).settle.core = 0 ∧ frameFits s e.2 = true ∧ (blk0 s).preempt = some (4, 5) ∧ 5 + 4 ≤ s.clock ∧ (blk0 s).inLock = true ∧
       (blk0 s).phase = .running ∧ s.windowsBusy 0 (blk0 s) ((blk0 s).windows.map Window.off) = false ∧ (blk0 s).saved = false ∧
       s.paired 0 = [0] ∧ (blk0 s).killed = false ∧ (blk0 s).tile.wait ≠ some .leaving ∧ s.canSave 0 = (!e.2) ∧
       ∀ x ∈ (blk0 s).threads, x.atBoundary = true) ∧
    (let s : State := { inState (.waiting (.basin 0x50000#56 9 0)) none with clock := 9 + 64 }
     (blk0 s).basinAge 0 0x50000#56 = some 9 ∧ 9 + (s.ctx 0).age.toNat ≤ s.clock) ∧
    (let s := two.modCtx 63 fun c => { c with killing := true }
     (s.ctx 63).killing = true ∧ s.blocksOf 63 = []) := by decide +kernel

/-- A walk for thread 0 of block 0 to the word at 0x50008. -/
def walk (ready : Bool) (wounded : Option Nat) : Walk :=
  ⟨0, 0, 0, 0x60000, false, 0x50008, 0, true, .die, 0, 0, false, [], [0x60000], 0, none, wounded, ready, false, none, none⟩
/-- Die 0 with walks in its slots and waiting; the threads of the barge await a `pub`, thread 0 its walk. -/
def walking (l : Tbl (Option Walk)) (q : List Walk) : State :=
  (lanes [0] fun tid t => { t with status := .stalled .pub, pub := if tid = 0 then some .run else none }).modDie 0 fun d =>
    { d with walks := l, walkQueue := q }
/-- The fault queue block at 0x60000: two records at 0x60040, of which TAIL - HEAD, across the wrap of TAIL, is 1. -/
def posting : State :=
  { two with fqbase := 0x60000#64, faultWait := [0x30#512],
             mem := writeBytes two.mem 0x60000 (leBytes 20 (0x60040 + 1 * 2 ^ 64 + (2 ^ 32 - 1) * 2 ^ 96 + (2 ^ 32 - 2) * 2 ^ 128)) }
/-- A walk into the last free slot but one, before one of a higher lane; one that is wounded, one that waits on nothing but its turn, and one
that ends; counts that saturate, and that cross no threshold; a record for the queue's last place. -/
theorem witness_WalksCountsAndFaultQueue :
    (let s := walking [(0, some (walk false none))] [{ walk false none with tid := 3 }, walk false none]
     walk false none ∈ (s.die 0).walkQueue ∧ (s.ctx 0).killing = false ∧
       (∀ u ∈ (s.die 0).walkQueue, u ≠ walk false none → s.walkRank (walk false none) < s.walkRank u) ∧
       s.walkAt 0 1 = none ∧ ∀ k, k < 1 → s.walkAt 0 k ≠ none) ∧
    (let s := walking [(15, some (walk false (some 0x60000)))] []
     s.walkAt 0 15 = some (walk false (some 0x60000)) ∧ (walk false (some 0x60000)).ready = false) ∧
    (let s := walking [(15, some (walk true none))] []
     let w := walk true none
     let pl := placeOf (s.checkAt w.party w.va 8 8 .write)
     paDram pl.loc = true ∧ (s.ctx 0).wpc = [] ∧ s.walkAt 0 15 = some w ∧ w.ref < 2 ^ 64 ∧ s.walkBlocked w = false ∧ s.checkAt w.party w.va 8 8 .write = .ok pl ∧
       s.destCheck 0 15 { w with destObj := pl.obj, blocked := none } (blk0 s).owner.toNat = .ok () ∧ s.block 0 = some (blk0 s) ∧
       (blk0 s).threads[0]? = some (thr s 0) ∧ (thr s 0).status = .stalled .pub ∧ (thr s 0).pub = some .run ∧
       ∀ tid, tid < 16 → tid ≠ 0 → ((blk0 s).threads[tid]?.bind (·.pub)) = none) ∧
    (let s : State := { two with counts := [(0x30000, 4, 0#16)] }
     let old := s.word 0x30000 8
     (old + 2 ^ 52) / 2 ^ 52 % 2 ^ 12 < s.cntthr.toNat) ∧
    (let s : State := { two with counts := [(0x30000, 4, 0#16)], mem := writeBytes two.mem 0x30006 [0xF0#8, 0xFF#8] }
     s.word 0x30000 8 / 2 ^ 52 % 2 ^ 12 = 2 ^ 12 - 1 ∧ s.cntthr.toNat ≤ s.word 0x30000 8 / 2 ^ 52 % 2 ^ 12) ∧
    (posting.faultWait = [0x30#512] ∧ posting.queueBlock posting.fqbase 64 = some (0x60040, 1, 2 ^ 32 - 1, 2 ^ 32 - 2) ∧
      (2 ^ 32 - 1 + 2 ^ 32 - (2 ^ 32 - 2)) % 2 ^ 32 < 2 ^ 1) := by decide +kernel

/-- An access of an agent of block 0 to another device. -/
def outside (who : Option Nat) (kind : AwayKind) (left : Nat) : Remote := ⟨1, 0, 0, who, 0, ⟨2 ^ 49, 4, kind, []⟩, left, [], 0, false, false⟩
/-- It was made 2^24 cycles ago. -/
def remote (who : Option Nat) (kind : AwayKind) (left : Nat) : State := { two with remotes := [outside who kind left], clock := 2 ^ 24 }
/-- Registers of the last queue, of the last core without a block; the last bytes of the DRAM of a die; the first and last ports; an access
that is out, of one flit and of two. -/
theorem witness_HostAndFabric :
    ((two.queue 63).en = false ∧ (∀ e ∈ two.blocks, ∀ b ∈ e.2, b.core ≠ 383) ∧ (7#64).toNat % 256 < 8) ∧
    (two.prv = [] ∧ ∀ i, i < 8 → paDram (0x1200000000 - 8 + i) = true) ∧
    ((two.port 0).up = true ∧ (two.port 17).up = true ∧ (List.replicate 232 0#8).length ≤ 232) ∧
    (∀ e ∈ [(none, AwayKind.read), (none, .write), (some 0, .read), (some 0, .write), (some 0, .rmw .cas)], ∀ left ∈ [1, 2],
      (remote e.1 e.2 left).remotes = [] ++ outside e.1 e.2 left :: [] ∧ (outside e.1 e.2 left).since + 2 ^ 24 ≤ (remote e.1 e.2 left).clock ∧
        (outside e.1 e.2 left).done = false ∧ (outside e.1 e.2 left).failed = false) ∧
    (let s : State := { two with ports := [(17, ⟨true, 4⟩)] }
     4 ≤ (s.port 17).missed) := by decide +kernel
/-- Before the boot ROM's first report, and of an image that was pushed; after an image that did not verify; with an image that runs; and shut
down. -/
theorem witness_ResetBootAndHeat : State.reset.bootPending = true ∧
    (let s : State := { State.reset with bootTries := 1 }
     s.bootPending = true ∧ s.bootTries ≠ 0) ∧
    (let s : State := { State.reset with mailbox := 4#4 }
     s.mailbox ≠ 0#4 ∧ s.mailbox ≠ 1#4) ∧
    (let s : State := { State.reset with image := some (5#384, 7#32) }
     s.image = some (5#384, 7#32)) ∧
    (let s : State := { State.reset with off := true }
     s.off = true ∧ s.agenda = []) := by decide +kernel

/-- Slot n issues: k2 is the start of the scratchpad, k3 = 3, k4 = 0x70000 and k5 = 2^56; stream 1 reads rows of four F32 elements at
0x51000, with these further fields, stream 2 writes such rows at 0x52000; ring 1 has four slots of 16 bytes, of which `filled` are filled. -/
def slotted (n filled f1 : Nat) : State :=
  let streams := [(1, streamReg 0x51000 6 4 4 16 f1), (2, streamReg 0x52000 6 4 4 16 (2 ^ 70))]
  let ring : BitVec 256 := BitVec.ofNat 256 (0x00FF000000000000 + 16 * 2 ^ 64 + 4 * 2 ^ 88 + filled * 2 ^ 96 + 2 ^ 160)
  inTile n fun x => { x with k := [(2, 0x00FF000000000000#64), (3, 3#64), (4, 0x70000#64), (5, 0x100000000000000#64)], s := streams, c := [(1, ring)], step := 8 }
/-- Block 0 issues under q0. -/
theorem issues {s : State} (h : s.block s.cur.blk = some (blk0 s)) : Issues s 0#3 (blk0 s) := ⟨h, Or.inl rfl⟩
/-- The bytes of a `kst` in flight, issued by slot 1 at step 7. -/
def stored : Landing := ⟨11, 7, 1, 0x40000#56, .mem ((List.range 8).map fun i => (0x00FF000000000000 + i, 2 ^ 52 + i, BitVec.extractLsb' (8 * i) 8 (5#64))), 0#5⟩
/-- `kld` from the scratchpad with no store in flight, and past one; `kst` there. -/
theorem witness_KeeperScalarResults :
    Issues (slotted 0 0 0) 0#3 (blk0 (slotted 0 0 0)) ∧
    ((slotted 0 0 0).checkRead ((blk0 (slotted 0 0 0)).engine 0 0) 0x00FF000000000000 8 = .ok (scr 0) ∧ (blk0 (slotted 0 0 0)).tile.fly = []) ∧
    (let s := inTile 0 fun x => { x with fly := [stored], step := 8 }
     s.checkRead ((blk0 s).engine 0 0) 0x00FF000000000000 8 = .ok (scr 0) ∧ (blk0 s).tile.fly = [] ++ stored :: [] ∧ stored.slot ≤ 1 ∧
       stored.issued < (blk0 s).tile.step) ∧
    (slotted 0 0 0).place ((blk0 (slotted 0 0 0)).engine 0 0) 0x00FF000000000000 8 .write = .ok (scr 0) ∧
    (slotted 0 0 0).writeOk 0x00FF000000000000 (scr 0) (leBytes 8 3) false = .ok () ∧ (scr 0).ack = none :=
  ⟨issues (by decide +kernel), by decide +kernel, by decide +kernel, by decide +kernel, by decide +kernel, rfl⟩

/-- The word 0x00C00000 names q3, which reads false, and is an instruction in every slot class. It stands in slot 0 of a
bundle; a bundle whose header names slot 1 alone repeats the word that slot 0 holds; and an F-slot word has H set. -/
theorem witness_FalseGuardIssuesNothing :
    (slotted 0 0 0).block (slotted 0 0 0).cur.blk = some (blk0 (slotted 0 0 0)) ∧
    (0x00C00000#32).extractLsb' 22 3 ≠ 0#3 ∧ (blk0 (slotted 0 0 0)).tile.q.getLsbD ((0x00C00000#32).extractLsb' 22 3).toNat = false ∧
    (∀ n, n < 8 → (match decodeSlot (slotClass n) 0x00C00000#32 with | .ok _ => true | .error _ => false) = true) ∧
    (let b := blk0 (slotted 0 0 0)
     b.inLock = true ∧ b.tile.delay = none ∧ (0x80000000#32).getLsbD (31 - 0) = true ∧
       [(0, 0x02C00000#32)].find? (·.1 == 0) = some (0, 0x02C00000#32) ∧ (0x40000000#32).getLsbD (31 - 0) = false ∧
       (b.closeStep b.tile.baddr 0x80000000#32 [(0, 0x02C00000#32)]).tile.held.find? (·.1 == 0) = some (0, 0x02C00000#32)) ∧
    (0x1A000000#32).getLsbD 25 = true := by decide +kernel

/-- Slot 2 with a descriptor at 0x70000 and further scalars: k6 names four slots of 16 bytes. -/
def described (w : BitVec 256) : State :=
  let s := (slotted 2 0 0).modBlock 0 fun b => { b with tile := b.tile.setK 6#6 0x04000010#64 }
  { s with mem := writeBytes s.mem 0x70000 (leBytes 32 w.toNat) }
/-- A row read gives the bytes of a number. -/
def reads (e : Except Stop (List Byte × State)) (w : BitVec 256) : Bool :=
  match e with
  | .ok (l, _) => BitVec.ofNat 256 (leNat l) == w
  | .error _ => false
/-- The stream of a register. -/
def st1 (s : State) (r : SReg) : Stream := streamOf ((blk0 s).tile.sraw r)
/-- The ring of register 1. -/
def rg1 (s : State) : Ring := ringOf ((blk0 s).tile.craw 1#3)
/-- A legal descriptor and an illegal one; every case of the stream operations; an unconfigured stream; `cbi`; and a ring with
enough, too little, a failed fill, and more asked for than it has; an unbound ring. -/
theorem witness_StreamAndRingControl :
    (let w := streamReg 0x51000 6 4 4 16 0
     Issues (described w) 0#3 (blk0 (described w)) ∧ reads ((described w).rowRead ((blk0 (described w)).engine 0 2) 0x70000 32 32) w = true ∧
       Ty.ofCode (w.extractLsb' 64 4) = some .f32 ∧ (Ovf.ofCode (w.extractLsb' 68 2) = some .sat ∧ ovfOk .f32 .sat = true) ∧
       w.extractLsb' 56 8 = 0#8 ∧ w.extractLsb' 108 4 = 0#4 ∧ w.extractLsb' 170 2 = 0#2 ∧ w.extractLsb' 192 64 = 0#64 ∧
       (streamOf w).rows ≠ 0 ∧ (streamOf w).epr ≠ 0 ∧ (streamOf w).epr ≤ 256 ∧ (streamOf w).gs = 0 ∧ (streamOf w).scs = 0#4 ∧
       (streamOf w).zps = 0 ∧ (streamOf w).vw = false ∧ (streamOf w).view = 0 ∧ (streamOf w).rg = false ∧ (streamOf w).ring = 0#3) ∧
    (let w := streamReg 0x51000 6 0 4 16 0
     reads ((described w).rowRead ((blk0 (described w)).engine 0 2) 0x70000 32 32) w = true ∧ (streamOf w).rows = 0) ∧
    (let s := slotted 2 0 0
     let x := (blk0 s).tile
     x.stream? 1#4 = .ok (st1 s 1#4) ∧ x.stream? 2#4 = .ok (st1 s 2#4) ∧ (st1 s 1#4).vw = false ∧ (st1 s 1#4).rg = false ∧
       (x.kreg 3#6).toNat < 2 ^ 56 ∧ 2 ^ 56 ≤ (x.kreg 5#6).toNat ∧ x.kreg 4#6 ≠ 0#64 ∧ (x.kreg 4#6).toNat % 16 = 0 ∧
       (x.kreg 3#6).toNat % 16 ≠ 0 ∧ x.kreg 0#6 = 0#64 ∧ (st1 s 1#4).fmt = .f32) ∧
    (let s := (slotted 2 0 (2 ^ 75)).modBlock 0 fun b => { b with tile := { b.tile with views := [(0, some ⟨1#2, 8, 0⟩)] } }
     (blk0 s).tile.stream? 1#4 = .ok (st1 s 1#4) ∧ (st1 s 1#4).vw = true) ∧
    (blk0 (slotted 2 0 0)).tile.sraw 5#4 = 0#256 ∧
    (let s := described 0#256
     let b := blk0 s
     let a := (b.tile.kreg 2#6).toNat
     let v := (b.tile.kreg 6#6).toNat
     a / 2 ^ 20 = 0x00FF000000000000 / 2 ^ 20 ∧ a % 16 = 0 ∧ v < 2 ^ 32 ∧ v % 2 ^ 24 ≠ 0 ∧ v % 2 ^ 24 % 16 = 0 ∧ v / 2 ^ 24 % 2 ^ 8 ≠ 0 ∧
       b.scrLen ≠ 0 ∧ b.scrOff ≤ a % 2 ^ 20 ∧ a % 2 ^ 20 + v % 2 ^ 24 * (v / 2 ^ 24 % 2 ^ 8) ≤ b.scrOff + b.scrLen ∧
       s.ringBusy b s.cur.blk 1#3 = false) ∧
    (let s := slotted 2 2 0
     let c := rg1 s
     (blk0 s).tile.ring? 1#3 = .ok c ∧ c.fld = false ∧ 1 ≤ c.nslot ∧ 1 ≤ (c.f - c.e).toNat ∧ (c.f - c.e).toNat < 3 ∧ 3 ≤ c.nslot ∧
       c.nslot < 5 ∧ 1 + (c.f - c.e).toNat ≤ c.nslot ∧ c.nslot < 3 + (c.f - c.e).toNat) ∧
    (let s := (slotted 2 2 0).modBlock 0 fun b => { b with tile := b.tile.failRing 1#3 1#32 }
     let c := rg1 s
     (blk0 s).tile.ring? 1#3 = .ok c ∧ c.fld = true ∧ (c.fptr - c.e).toNat < 2 ∧ 2 ≤ c.nslot) ∧
    (ringOf ((blk0 (slotted 2 0 0)).tile.craw 2#3)).bnd = false ∧ (slotted 2 2 0).unreleased 0 = false ∧
    (∀ l ∈ [[awayWrite 1025], [awayWrite 2047]], ({ slotted 2 2 0 with remotes := l } : State).unreleased 0 = true) ∧
    ({ slotted 2 2 0 with casting := [.version 7#32 1#32], cur := { (slotted 2 2 0).cur with scope := .fabric } } : State).unreleased 0 = true := by
  refine ⟨⟨issues ?_, ?_⟩, ?_⟩ <;> decide +kernel

/-- Slot 4 with stream 1 of rows of a format code, stream 2 to write rows of another, stream 3 of F32 scales, and the array's mode. -/
def arrayed (fmt out af : Nat) : State :=
  let scs (w : BitVec 256) : BitVec 256 := w + BitVec.ofNat 256 (if fmt = 0 then 3 * 2 ^ 166 else if fmt < 11 then 0 else 3 * 2 ^ 166 + 2 ^ 164)
  inTile 4 fun x => { x with
    s := [(1, scs (streamReg 0x51000 fmt 4 4 16 0)), (2, streamReg 0x52000 out 4 4 16 (2 ^ 70)),
      (3, streamReg 0x53000 (if fmt = 0 then 6 else 7) 4 4 16 0)],
    af := BitVec.ofNat 4 af, wf := BitVec.ofNat 4 fmt, step := 8 }
/-- A row of stream 1 reads, and as a weight column its scales. -/
def pushes (s : State) (d : Nat) : Bool :=
  match s.readRow (blk0 s) 0 (st1 s 1#4) (st1 s 1#4).rpos (32 * d) with
  | .error _ => false
  | .ok (els, s1) => els.length = 4 && isOk (s1.weightScales (blk0 s) 0 (st1 s 1#4) (st1 s 1#4).rpos els.length)
/-- A row of stream 1 reads, and as an activation row its scale, which is a number. -/
def beats (s : State) (d : Nat) : Bool :=
  match s.readRow (blk0 s) 0 (st1 s 1#4) (st1 s 1#4).rpos (32 * d) with
  | .error _ => false
  | .ok (_, s1) =>
    match s1.actScale (blk0 s) 0 (st1 s 1#4) (st1 s 1#4).rpos with
    | .error _ => false
    | .ok (.fin _ _, _) => true
    | .ok _ => false
/-- Four elements of tile 0 can be written to stream 2. -/
def drains (s : State) : Bool :=
  isOk (({ s with free := s.free + 262144 } : State).writeRow (blk0 s) 0 (st1 s 2#4) (st1 s 2#4).rpos ((List.range 4).map fun j => (j, 0)))
/-- A landing of slot 4, issued at step 8. -/
def flying (at_ : Nat) (eff : Effect) : Landing := ⟨at_, 8, 4, 0x40000#56, eff, 0#5⟩
/-- `xpush` in BF16, in Q4 with its scales, and in S8; beats in BF16 and S8; a drain to F32 and to BF16; landings on a tile. -/
theorem witness_ArrayOperations :
    Issues (arrayed 8 6 8) 0#3 (blk0 (arrayed 8 6 8)) ∧
    (∀ e ∈ [(8, 8, 8), (12, 0, 32), (0, 0, 16)], let s := arrayed e.1 6 e.2.1
     (blk0 s).tile.rowStream 1#4 = .ok (st1 s 1#4) ∧ cellDepth (tyAt (blk0 s).tile.af) (tyAt (blk0 s).tile.wf) = some e.2.2 ∧
       (st1 s 1#4).fmt = tyAt (blk0 s).tile.wf ∧ (st1 s 1#4).wr = false ∧ (st1 s 1#4).epr ≤ 32 * e.2.2 ∧ pushes s e.2.2 = true) ∧
    (∀ e ∈ [(8, 8, 8), (0, 0, 16)], let s := arrayed e.1 6 e.2.1
     (st1 s 1#4).fmt = tyAt (blk0 s).tile.af ∧ (blk0 s).tile.bank0 = [] ∧ (blk0 s).tile.bankSel = false ∧
       colScale (tyAt (blk0 s).tile.wf) 0#5120 0 = .fin false 0 ∧ beats s e.2.2 = true) ∧
    (∀ fmt ∈ [6, 8], let s := arrayed 8 fmt 8
     (blk0 s).tile.rowStream 2#4 = .ok (st1 s 2#4) ∧ ((blk0 s).tile.accWord (accSide 0 3)).getLsbD 0 = false ∧
       ((st1 s 2#4).fmt = .f32 ∨ (st1 s 2#4).fmt = .bf16) ∧ (st1 s 2#4).wr = true ∧ drains s = true) ∧
    (KeeperOwns Tile.fresh 0 ∧ [0, 31].Nodup ∧ (∀ j ∈ [0, 31], j < 32) ∧
      (flying 44 (.beat true 0 31 ([0, 31].map fun j => (j, (fun _ => 7#32) j)))).eff = .beat true 0 31 ([0, 31].map fun j => (j, 7#32))) ∧
    (((([(accIdx 0 0 0, 1#32), (accIdx 0 31 33, 2#32)] : List (Nat × W32)).map Prod.fst).Nodup) ∧
      ∀ e ∈ ([(accIdx 0 0 0, 1#32), (accIdx 0 31 33, 2#32)] : List (Nat × W32)), e.1 < accSide 0 3 ∧ accIdx 0 0 0 ≤ e.1) := by
  refine ⟨issues ?_, ?_, ?_, ?_, ⟨?_, ?_⟩, ?_⟩
  all_goals first | exact (rfl : _ = false) | decide +kernel

/-- Slot 5 with a narrow view and a wide one bound as views 0 and 1. -/
def viewing : State := inTile 5 fun x => { x with views := [(0, some ⟨0#2, 4, 0⟩), (1, some ⟨1#2, 8, 0⟩)], step := 8 }
/-- A block of 128 threads. -/
def wideBlock : State := viewing.modBlock 0 fun b => { b with threads := List.replicate 128 (Thread.fresh 0#56 0) }
/-- Operands that are tiles and views of both widths; a reduction; elements that land in a view; `$amax` of a tile. -/
theorem witness_VectorUnitOperations :
    Issues viewing 0#3 (blk0 viewing) ∧
    ((blk0 viewing).tile.opnd 3#7 = .ok (.tile 3) ∧ (blk0 viewing).tile.opnd 64#7 = .ok (.view 0 ⟨0#2, 4, 0⟩) ∧
      (blk0 viewing).tile.opnd 65#7 = .ok (.view 1 ⟨1#2, 8, 0⟩) ∧ (YOpnd.tile 3).wide = true ∧ (YOpnd.view 0 ⟨0#2, 4, 0⟩).wide = false ∧
      (YOpnd.view 1 ⟨1#2, 8, 0⟩).wide = true ∧ ((blk0 viewing).tile.accWord (accSide 3 3)).getLsbD 0 = false) ∧
    (wideBlock.block 0 = some (blk0 wideBlock) ∧ (([(0, 0, 5), (31, 31, 6)] : List (Nat × Nat × Nat)).map fun e => (e.1, e.2.1)).Nodup ∧
      (∀ e ∈ ([(0, 0, 5), (31, 31, 6)] : List (Nat × Nat × Nat)), e.1 < 32 ∧ e.2.1 < 32) ∧
      Tbl.get none (blk0 wideBlock).tile.views 0 = some ⟨0#2, 4, 0⟩ ∧ (⟨0#2, 4, 0⟩ : View).tid0 + 128 ≤ (blk0 wideBlock).threads.length ∧
      (flying 12 ((YOpnd.view 0 ⟨0#2, 4, 0⟩).write [(0, 0, 5)])).eff = (YOpnd.view 0 ⟨0#2, 4, 0⟩).write [(0, 0, 5)]) ∧
    KeeperOwns Tile.fresh 3 := by
  refine ⟨issues ?_, ?_, ?_, rfl⟩ <;> decide +kernel

/-- Slot 5 with stream 1 over softmax records at 0x51000, of which the first n are valid, in descending order of their indexes. -/
def states (n : Nat) : State :=
  let s := inTile 5 fun x => { x with s := [(1, streamReg 0x51000 6 4 32 4416 0)], step := 8 }
  { s with mem := (List.range n).foldl (fun m i => writeBytes m (0x51000 + 4416 * i) [BitVec.ofNat 8 (9 - i), 0#8, 0#8, 0#8, 1#8]) s.mem }
/-- The places of a record. -/
def recPlaces : List (Nat × Nat × Place) :=
  okOr [] ((states 0).places ((blk0 (states 0)).engine 0 5) .write (chunks 0x51000 72 4416))
/-- Two records read, valid as told. -/
def recsAre (s : State) (v : Nat) : Bool :=
  match s.smRecs (blk0 s) 0 (st1 s 1#4) (st1 s 1#4).rpos 2 with
  | .error _ => false
  | .ok (rs, _) => rs.map (·.valid) == [v, v] && (rs.map (·.idx) == [9, 8] || v == 0)
/-- A context with an arrival of tile 2 pending, and with tile 3 at the correction block. -/
def arriving : State := inTile 5 fun x => { x.setAcc (accSide 3 1) 1#32 with arrivals := [(2, 7, 0x40000#56)], step := 8 }
/-- A record to write; two records, both valid and both not; a pending arrival, a tile away, and neither. -/
theorem witness_SoftmaxStatesAndTileBarriers :
    Issues (states 0) 0#3 (blk0 (states 0)) ∧
    (let s := states 0
     (blk0 s).tile.rowStream 1#4 = .ok (st1 s 1#4) ∧ (st1 s 1#4).fmt = .f32 ∧ (st1 s 1#4).vw = false ∧ (st1 s 1#4).stride % 64 = 0 ∧
       4416 ≤ (st1 s 1#4).stride ∧ (blk0 s).tile.rowAddr (st1 s 1#4) (st1 s 1#4).rpos = .ok 0x51000 ∧
       s.places ((blk0 s).engine 0 5) .write (chunks 0x51000 72 4416) = .ok recPlaces ∧
       ((pieces recPlaces (List.replicate 4416 0#8)).all fun x => s.writeOk x.1 x.2.1 x.2.2 false = .ok ()) = true) ∧
    KeeperOwns Tile.fresh 0 ∧
    recsAre (states 0) 0 = true ∧ recsAre (states 2) 1 = true ∧
    (let x := (blk0 arriving).tile
     arriving.unreleased 0 = false ∧ ({ arriving with remotes := [awayWrite 1029] } : State).unreleased 0 = true ∧ (∃ y ∈ x.arrivals, y.1 = 2) ∧ (¬ ∃ y ∈ x.arrivals, y.1 = 3) ∧
       (x.accWord (accSide 3 1)).toNat % 2 ^ 16 = ((x.accWord (accSide 3 2)).toNat + 1) % 2 ^ 16 ∧ (¬ ∃ y ∈ x.arrivals, y.1 = 0) ∧
       ¬ (x.accWord (accSide 0 1)).toNat % 2 ^ 16 = ((x.accWord (accSide 0 2)).toNat + 1) % 2 ^ 16) := by
  refine ⟨issues ?_, ?_, rfl, ?_, ?_, ?_⟩ <;> decide +kernel

/-- A context in a loop of four bundles at level 0, whose second bundle issues, with k3 = 3 and k4 a bundle's address. -/
def looping (idx : Int) (n : W32) : State := inTile 7 fun x => { x with
  k := [(3, 3#64), (4, 0x70000#64)], loops := [⟨0, 4, idx, 0x40000#56⟩], n := [(0, n)], step := 8 }
/-- Branch targets aligned and not; a loop within one, at its level, past its end, and with count 0; a lock to leave; a fence and `gret` after a
posted write that is outstanding, whose time is over, and after none; a branch before its delay; the bundles of a loop's body. -/
theorem witness_FlowOperations :
    Issues (looping 1 2#32) 0#3 (blk0 (looping 1 2#32)) ∧
    (let x := (blk0 (looping 1 2#32)).tile
     (x.kreg 4#6).toNat < 2 ^ 56 ∧ (x.kreg 4#6).toNat % 4 = 0 ∧ (x.kreg 3#6).toNat % 4 ≠ 0 ∧ (x.kreg 3#6).setWidth 32 ≠ 0#32 ∧
       (x.kreg 0#6).setWidth 32 = 0#32 ∧ (∃ y ∈ x.loops, y.level = 0) ∧ (∃ y ∈ x.loops, (y.len : Int) - 1 < y.idx + 3) ∧
       ¬ (∃ y ∈ x.loops, y.level = 1 ∨ (y.len : Int) - 1 < y.idx + 2) ∧ x.fly = [] ∧ x.arrivals = []) ∧
    (let s : State := { looping 1 2#32 with remotes := [awayWrite 1025, awayWrite 0] }
     ∃ r ∈ s.remotes.filter fun r => r.posted 0 && agentOfTile r.agent, r.failed = false) ∧
    (let s : State := { looping 1 2#32 with remotes := [lateWrite 1025, awayWrite 0] }
     (s.remotes.filter fun r => r.posted 0 && agentOfTile r.agent) ≠ [] ∧
       ∀ r ∈ s.remotes.filter fun r => r.posted 0 && agentOfTile r.agent, r.failed = true) ∧
    (let s : State := { looping 1 2#32 with casting := [.version 7#32 1#32], cur := { (looping 1 2#32).cur with scope := .fabric } }
     s.cur.scope = .fabric ∧ s.casting ≠ []) ∧
    ((looping 1 2#32).remotes = [] ∧ (looping 1 2#32).casting = []) ∧
    (let b : Block := { blk0 (looping 1 2#32) with tile := { Tile.fresh with delay := some (0x80000#56, 3, some (1#6, 7, 0x40000#56)) } }
     b.inLock = true ∧ b.tile.delay = some (0x80000#56, 3, some (1#6, 7, 0x40000#56))) ∧
    (∀ i ∈ [(1, 2#32), (3, 2#32), (3, 1#32)], let x := (blk0 (looping i.1 i.2)).tile
     x.loops = [⟨0, 4, i.1, 0x40000#56⟩] ∧ i.1 ≠ -1) ∧
    ((1 : Int) + 1 < 4 ∧ (3 : Int) + 1 = 4 ∧ 1 < ((blk0 (looping 3 2#32)).tile.nreg 0).toNat ∧
      ((blk0 (looping 3 1#32)).tile.nreg 0).toNat ≤ 1) := by
  refine ⟨issues ?_, ?_, ?_, ?_, ?_, ?_, ?_, ?_, ?_⟩ <;> decide +kernel

/-- A context at step 8 with these landings and arrivals, running or not. -/
def inFlight (l : List Landing) (a : List (Nat × Nat × Addr)) (life : Life) : State :=
  (inTile 0 fun x => { x with fly := l, arrivals := a, step := 8 }).modBlock 0 fun b => { b with life }
/-- Bytes that a store of the context lands. -/
def landed : List (Nat × Nat × Byte) := [(0x00FF000000000000, 2 ^ 52, 5#8), (0x50000, 0x50000, 6#8)]
/-- No context; one that is frozen; nothing due; a scalar and a store due, another landing not; an arrival due. -/
theorem witness_ResultsLand :
    two.tileAt 5 0 = none ∧
    (∀ s ∈ [inFlight [] [] .frozen, inFlight [flying 9 .swap] [] .running, inFlight [flying 8 (.k 3#6 5#64), flying 9 .swap] [] .running,
        inFlight [flying 8 (.mem landed), flying 9 .swap] [] .running, inFlight [] [(2, 4, 0x40000#56)] .running],
      s.tileAt 0 0 = some (0, blk0 s) ∧ s.block 0 = some (blk0 s) ∧ (blk0 s).tile.step = 8) ∧
    (let s := inFlight [flying 8 (.mem landed)] [] .running
     (∀ o ∈ landed, l1May 0 o.2.1 = false ∨ s.ownedBy 0 o.2.1 = false) ∧ (landed.map fun o => o.2.1).Nodup ∧ (s.ctx 0).traces 5 = false) ∧
    (blk0 (inFlight [] [(2, 4, 0x40000#56)] .running)).tile.withCorrection 2 = false := by
  decide +kernel

/-- A step goes on. -/
def goesOn (s : State) : Bool :=
  match step s with
  | .next _ => true
  | .fault _ => false
  | .refused _ => false
/-- A state at the turn of t, which its agenda holds alone. -/
def atTurn (s : State) (t : Turn) : State := { s.slotBarges with agenda := [] }.tick (some (.turn t))
/-- Block 0's barge 0 fetches this word, which it may issue. -/
def fetchesThread (s : State) (w : W64) : Bool :=
  let s1 : State := { atTurn s (.barge 0 0) with
    cur := { Cursor.idle with blk := 0, lanes := List.range 16, pc := 0x40000#56, slot := 8, baddr := 0x40000#56 } }
  match s1.fetchThread (blk0 s) 0 false 0 0x40000#56, decodeThread w with
  | .ok (v, s2), .ok i => v == w && usesOk 256 i && !s2.interlocked i
  | _, _ => false
/-- Block 0's context fetches a header and the word of slot n. -/
def fetchesBundle (s : State) (h w : W32) (n : Nat) : Bool :=
  match (atTurn s (.tile 0 0)).fetchKeeper (blk0 s) 0 0x40000#56 with
  | .error _ => false
  | .ok (v, s2) =>
    match s2.fetchKeeper (blk0 s) 0 (0x40000#56 + 4#56), decodeHeader h with
    | .ok (x, _), some (hd, mask) => v == h && x == w && !hd.dp && slotsOf mask == [n] &&
        (match decodeWord 64 false n w with | .ok _ => true | .error _ => false)
    | _, _ => false
/-- The invariant, in a form that evaluates. -/
theorem invariant_of {s : State} (hm : s.mem.wf = true) (hl : ∀ e ∈ s.cores, ∀ l ∈ e.2.l1, l.data.length = 128)
    (hb : Tbl.wf none s.blocks = true) : Invariant s := ⟨hm, l1Whole_of hl, hb⟩
/-- Where no slot that is written traces, none does. -/
theorem traces_of {s : State} {k : Nat} (h : ∀ e ∈ s.ctxs, e.2.traces k = false) (n : Nat) : (s.ctx n).traces k = false := by
  rcases get_mem (Ctx.reset n) s.ctxs n with hd | ⟨e, he, hd⟩ <;> rw [State.ctx, hd]
  · simp [Ctx.reset, Ctx.traces]
  · exact h e he
/-- A thread's program of one word, and a context's. -/
def threadProgram : State := State.reset.program 64 0x4098283038030000
def tileProgram : State := State.reset.program 32 0x10000000
/-- A barge's turn, an event's, and a tile context's: what is fetched is at the pc, in no cache. -/
theorem witness_StepRunsDecoded :
    (let s := threadProgram
     let b := blk0 s
     s.off = false ∧ s.agenda = [.barge 0 0] ∧ s.block 0 = some b ∧ b.killed = false ∧ b.life = .running ∧ (s.ctx b.slot).stops b 0 0 = false ∧
       (s.ctx b.slot).stepped = none ∧ (s.ctx b.slot).bpMatch false 0x40000#56 = none ∧ s.upsets = [] ∧
       (∀ x ∈ b.threads, x.status = .active ∧ x.entry = none ∧ x.sys = false) ∧
       ((b.candidates 0).filter fun x => x.2.pc == 0x40000#56).map Prod.fst = List.range 16 ∧
       (∀ x ∈ b.candidates 0, (0x40000#56).toNat ≤ x.2.pc.toNat) ∧ fetchesThread s 0x4098283038030000#64 = true ∧
       (let p := b.party 0 false 0
        let pl := placeOf (s.place p 0x40000 8 .fetch)
        s.place p 0x40000 8 .fetch = .ok pl ∧ Tbl.get none (s.core 0).ticache (pl.loc / 8) = none ∧ isOk (s.readable p 0x40000 pl 8) = true)) ∧
    (let s := tileProgram
     let b := blk0 s
     s.off = false ∧ s.agenda = [.tile 0 0] ∧ s.tileAt 0 0 = some (0, b) ∧ s.block 0 = some b ∧ (s.ctx b.slot).stopsTile = false ∧
       (s.ctx b.slot).stepped = none ∧ (s.ctx b.slot).bpMatch true b.tile.baddr = none ∧ b.life = .running ∧ b.freeze = none ∧
       b.tile.wait = none ∧ b.tile.fly = [] ∧ b.tile.arrivals = [] ∧ b.tile.skip = 0 ∧ b.tile.loops = [] ∧ b.tile.held = [] ∧
       b.tile.delay = none ∧ s.upsets = [] ∧ fetchesBundle s 0x02000000#32 0x10000000#32 6 = true ∧
       (let p := b.engine 0 1023
        let pl := placeOf (s.place p 0x40000 4 .fetch)
        s.place p 0x40000 4 .fetch = .ok pl ∧ Tbl.get none (s.core 0).kicache (pl.loc / 4) = none ∧ isOk (s.readable p 0x40000 pl 4) = true)) ∧
    (∀ n, (threadProgram.ctx n).traces 3 = false) ∧ (∀ n, (tileProgram.ctx n).traces 3 = false) ∧
    Invariant threadProgram ∧ Invariant tileProgram :=
  ⟨by decide +kernel, by decide +kernel, traces_of (by decide +kernel), traces_of (by decide +kernel),
    invariant_of (by decide +kernel) (by decide +kernel) (by decide +kernel), invariant_of (by decide +kernel) (by decide +kernel) (by decide +kernel)⟩
/-- A state with a program that a step runs, and one with events on the agenda. -/
theorem witness_StepKeepsInvariant :
    Invariant threadProgram ∧ goesOn threadProgram = true ∧
    Invariant State.reset ∧ goesOn { State.reset with agenda := [.event .deviceReset] } = true :=
  ⟨invariant_of (by decide +kernel) (by decide +kernel) (by decide +kernel), by decide +kernel,
    invariant_of (by decide +kernel) (by decide +kernel) (by decide +kernel), by decide +kernel⟩
/-- A well-formed instruction with a word of its own; one that no word stands for. -/
theorem witness_EncodedInstructionsDecode :
    (Instr.nop g0).wf = true ∧ encode (.nop g0) ≠ .event ∧ (Instr.kadd ⟨v0, 1#6, 2#6, 3#6, false, false⟩).wf = true ∧
    encode (.kadd ⟨v0, 1#6, 2#6, 3#6, false, false⟩) ≠ .event ∧ (Instr.idleStep ⟨false, none⟩).wf = true ∧
    encode (.idleStep ⟨false, none⟩) ≠ .event := by decide +kernel
/-- A word of each kind that decodes; a word whose guard is `!p0`. -/
theorem witness_DecodingIsCanonical :
    decodeEnc (.thread 0#64) = .ok (.nop g0) ∧ decodeEnc (.header 0#32) = .ok (.idleStep ⟨false, none⟩) ∧
    decodeEnc (.thread 0x0080000000000000#64) = .ok (.nop ⟨true, 0#4⟩) := by decide +kernel

/-! ### Words written from the encodings

A word is given as its fields from the highest bit down, each with its width. -/

/-- A word from its fields. -/
def word (l : List (Nat × Nat)) : Nat := l.foldl (fun n f => n * 2 ^ f.1 + f.2) 0
/-- A thread word from its fields. -/
def tw (l : List (Nat × Nat)) : Except DecErr Instr := decodeThread (BitVec.ofNat 64 (word l))
/-- A slot word from its fields. -/
def sw (k : SlotClass) (l : List (Nat × Nat)) : Except DecErr Instr := decodeSlot k (BitVec.ofNat 32 (word l))

/-- 05_thread_instructions.md R112, R116, R119, R120: `(p5) mad d7, d1, d2, d3`; `addx.ci.co d1, d2, d3, p4, p5`;
`muli d4, d5, -3`; `cmp.gt p3:p4, d9, d10`. -/
theorem test_integer_words :
    tw [(8, 6), (1, 0), (4, 5), (8, 7), (8, 1), (8, 2), (8, 3), (19, 0)] = .ok (.mad ⟨⟨false, 5#4⟩, 7#8, 1#8, 2#8, 3#8⟩) ∧
    tw [(8, 0x16), (5, 0), (8, 1), (8, 2), (8, 3), (8, 0), (10, 0), (4, 5), (1, 1), (4, 4)] = .ok (.addx ⟨g0, 1#8, 2#8, 3#8, true, 4#4, 5#4⟩) ∧
    tw [(8, 0x29), (5, 0), (8, 4), (8, 5), (3, 0), (32, 0xFFFFFFFD)] = .ok (.muli ⟨g0, 4#8, 5#8, 0xFFFFFFFD#32⟩) ∧
    tw [(8, 0x30), (5, 0), (4, 3), (4, 4), (8, 9), (8, 10), (8, 0), (16, 0), (3, 7)] = .ok (.cmp ⟨g0, 3#4, 4#4, 9#8, 10#8, .gt⟩) := by
  decide +kernel
/-- R126, R131, R137, R140, R141: `fma.rup`; `cvt.f8b.f16.rdn.ovi.e1`; `tanh.rtz`; `rds.clr d6, $fflags`; `shfl.xor.seg4 d1, d2, 3`. -/
theorem test_float_and_move_words :
    tw [(8, 0x43), (5, 0), (8, 1), (8, 2), (8, 3), (8, 4), (2, 2), (2, 0), (15, 0)] = .ok (.fma ⟨g0, 1#8, 2#8, 3#8, 4#8, .rup, .f32⟩) ∧
    tw [(8, 0x50), (5, 0), (8, 1), (8, 2), (8, 0), (8, 0), (2, 3), (5, 0), (2, 1), (2, 2), (4, 10), (4, 7)] =
      .ok (.cvt ⟨g0, 1#8, 2#8, .f8b, .f16, .rdn, .inf, 1#2⟩) ∧
    tw [(8, 0x5F), (5, 0), (8, 2), (8, 3), (8, 0), (8, 0), (2, 1), (17, 0)] = .ok (.tanh ⟨g0, 2#8, 3#8, .rtz⟩) ∧
    tw [(8, 0x69), (5, 0), (8, 6), (8, 0), (8, 0), (8, 0), (10, 0), (1, 1), (8, 0x0D)] = .ok (.rds ⟨g0, 6#8, .fflags, true⟩) ∧
    tw [(8, 0x6A), (5, 0), (8, 1), (8, 2), (8, 0), (8, 0), (9, 0), (4, 3), (1, 1), (3, 2), (2, 3)] =
      .ok (.shfl ⟨g0, 1#8, 2#8, 0#8, .xor, .w4, true, 3#4⟩) := by decide +kernel
/-- R142, R261, R263, R265, R283, R288, and the worked word of 19_program_kv_reorder.md: `brc.loop d7, -4`;
`atom.xchg.rel.cluster d2, [d4], d6`; `cas.64.ar.device`; `wait.ltu.acq.core`; `barr b9, d5`; `accld` of four registers from a5;
`kvref.claim d8, d6, 1`. -/
theorem test_control_and_memory_words :
    tw [(8, 0x74), (5, 0), (8, 7), (8, 0), (3, 3), (32, 0xFFFFFFFC)] = .ok (.brc ⟨g0, 7#8, .loop, 0xFFFFFFFC#32⟩) ∧
    tw [(8, 0x88), (5, 0), (8, 2), (8, 4), (8, 6), (8, 0), (3, 2), (2, 2), (4, 8), (1, 0), (1, 0), (8, 0)] =
      .ok (.atom ⟨g0, 2#8, 4#8, 6#8, .cluster, .rel, .xchg, false, false⟩) ∧
    tw [(8, 0x89), (5, 0), (8, 2), (8, 4), (8, 6), (8, 8), (3, 4), (2, 3), (4, 0), (1, 1), (9, 0)] =
      .ok (.cas ⟨g0, 2#8, 4#8, 6#8, 8#8, .device, .ar, true⟩) ∧
    tw [(8, 0x8B), (5, 0), (8, 2), (8, 4), (8, 6), (8, 8), (3, 1), (2, 1), (11, 0), (3, 4)] =
      .ok (.wait ⟨g0, 2#8, 4#8, 6#8, 8#8, .core, true, .ltu⟩) ∧
    tw [(8, 0x95), (5, 0), (8, 0), (8, 5), (8, 0), (8, 0), (14, 0), (1, 1), (4, 9)] = .ok (.barr ⟨g0, some 5#8, 9#4⟩) ∧
    tw [(8, 0xA0), (5, 0), (8, 8), (8, 2), (8, 0), (8, 0), (11, 0), (2, 2), (6, 5)] = .ok (.accld ⟨g0, 8#8, 2#8, .w4, 5#6⟩) ∧
    (match decodeThread 0x9D00403000000101#64 with | .ok (.kvrefClaim o) => o.d == 8#8 && o.a == 6#8 && o.n == 1#8 | _ => false) = true := by
  decide +kernel
/-- 06_tile_set.md R165, R169, R176, R179, R184, 11_memory_instructions.md R281: `kaddi k1, k2, -8` under q2; `kcmp.le.i q1:q2, k3, 5`;
`sadv s3, -1`; `cbw c2, 3`; `xpush.h s2, 5`; `yrsum.k a3.1, v1`; `ccwt ch2, 1`; `fcall k5, -10`. -/
theorem test_slot_words :
    sw .s [(6, 0x0A), (1, 0), (3, 2), (6, 1), (6, 2), (10, 0x3F8)] = .ok (.kaddi ⟨⟨false, 2#3⟩, 1#6, 2#6, 0x3F8#10⟩) ∧
    sw .s [(6, 0x0C), (1, 0), (3, 0), (3, 1), (3, 2), (6, 3), (6, 5), (3, 6), (1, 1)] = .ok (.kcmp ⟨v0, 1#3, 2#3, 3#6, 5#6, .le, true⟩) ∧
    sw .m [(6, 2), (1, 0), (3, 0), (4, 3), (1, 0), (6, 0), (11, 0x7FF)] = .ok (.sadv ⟨v0, 3#4, 0x7FF#11⟩) ∧
    sw .m [(6, 6), (1, 0), (3, 0), (3, 2), (8, 3), (11, 0)] = .ok (.cbw ⟨v0, 2#3, 3#8⟩) ∧
    sw .x [(6, 0), (1, 1), (3, 0), (4, 2), (1, 1), (5, 5), (12, 0)] = .ok (.xpush ⟨⟨true, 0#3⟩, 2#4, true, 5#5⟩) ∧
    sw .y [(6, 5), (1, 0), (3, 0), (6, 3), (1, 1), (7, 65), (1, 1), (6, 0), (1, 0)] = .ok (.yrsum ⟨v0, 3#6, true, 65#7, true, false⟩) ∧
    sw .c [(6, 4), (1, 0), (3, 0), (3, 2), (3, 1), (16, 0)] = .ok (.ccwt ⟨v0, 2#3, 1#3⟩) ∧
    sw .f [(6, 2), (1, 0), (3, 0), (6, 5), (16, 0xFFF6)] = .ok (.fcall ⟨0#3, 5#6, 0xFFF6#16⟩) := by decide +kernel
/-- R78, R80: a reserved opcode; SZ = 7; scope code 7; H = 4; FT = 3; a reserved bit; OVF = 2 with an F8A destination; a reserved slot
opcode; an F slot word with H; `cbw` with N = 0; a header with a reserved bit and one with SCOPE but not PF. -/
theorem test_words_refused :
    tw [(8, 0x2A), (56, 0)] = .error .opcode ∧
    tw [(8, 0x80), (5, 0), (8, 12), (8, 4), (3, 0), (2, 0), (3, 7), (27, 0)] = .error .fields ∧
    tw [(8, 0x80), (5, 0), (8, 12), (8, 4), (3, 7), (2, 1), (3, 4), (27, 0)] = .error .fields ∧
    tw [(8, 0x70), (5, 0), (8, 0), (8, 0), (3, 4), (32, 0)] = .error .fields ∧
    tw [(8, 0x40), (5, 0), (8, 1), (8, 2), (8, 3), (8, 0), (2, 0), (2, 3), (15, 0)] = .error .fields ∧
    tw [(8, 0x01), (5, 0), (8, 1), (8, 2), (8, 3), (8, 1), (19, 0)] = .error .fields ∧
    tw [(8, 0x50), (5, 0), (8, 1), (8, 2), (8, 0), (8, 0), (2, 0), (5, 0), (2, 0), (2, 2), (4, 9), (4, 6)] = .error .limits ∧
    sw .x [(6, 7), (26, 0)] = .error .opcode ∧ sw .f [(6, 5), (1, 1), (25, 0)] = .error .fields ∧
    sw .m [(6, 6), (1, 0), (3, 0), (3, 2), (8, 0), (11, 0)] = .error .limits ∧
    decodeEnc (.header 1#32) = .error .header ∧ decodeEnc (.header 0x00180000#32) = .error .header := by decide +kernel
/-- The table's words: bit 0 is the least significant of the first word, and a 32-bit word is a header or a slot word. -/
theorem test_table_words :
    decodeTableWord 64 0x4098283038030000 = some (.fadd ⟨⟨true, 3#4⟩, 5#8, 6#8, 7#8, .rtz, .h2bf16⟩) ∧
    decodeTableWord 32 0 = some (.idleStep ⟨false, none⟩) := by decide +kernel

/-! ### Ill-formed instructions -/

/-- One term for each limit of WellFormed; each is refused. -/
theorem test_ill_formed : ∀ i ∈ ([
    .add ⟨⟨true, 0#4⟩, 1#8, 2#8, 3#8⟩, .shli ⟨g0, 1#8, 2#8, true, 3#5⟩, .cmpFloat ⟨g0, 1#4, 0#4, 2#8, 3#8, .eq, true, .f32⟩,
    .cvt ⟨g0, 1#8, 2#8, .q8, .f32, .rne, .sat, 0#2⟩, .cvt ⟨g0, 1#8, 2#8, .f32, .f16, .rne, .sat, 2#2⟩,
    .cvt ⟨g0, 1#8, 2#8, .f8a, .f32, .rne, .inf, 0#2⟩, .shfl ⟨g0, 1#8, 2#8, 3#8, .idx, .w16, true, 0#4⟩,
    .shfl ⟨g0, 1#8, 2#8, 3#8, .idx, .w16, false, 1#4⟩, .rds ⟨g0, 1#8, .tid, true⟩,
    .atom ⟨g0, 2#8, 4#8, 6#8, .core, .weak, .add, false, true⟩, .atom ⟨g0, 2#8, 4#8, 6#8, .core, .weak, .fadd, true, false⟩,
    .kvref ⟨g0, 2#8, 4#8, .core, .weak, 0#8⟩, .sysr ⟨g0, 2#8, some 3#8, .cntthr⟩, .sysw ⟨g0, 2#8, none, .ctxid⟩, .idle ⟨g0, 0#8, 4#8, 0#2⟩,
    .dbgrRd ⟨g0, 2#8, 3#9⟩, .kadd ⟨v0, 1#6, 2#6, 3#6, true, false⟩, .cbw ⟨v0, 1#3, 0#8⟩, .xshift ⟨v0, 0#6, 1#5, true, 1#4⟩,
    .xmask ⟨v0, 1#6, 0#11⟩, .xmask ⟨v0, 1#6, 1025#11⟩, .yadd ⟨v0, 80#7, 0#7, 0#7, false⟩, .ycvt ⟨v0, 1#7, 2#7, .s8, .sat, false, false⟩,
    .ycvt ⟨v0, 1#7, 64#7, .f32, .sat, true, false⟩, .ccwt ⟨v0, 1#3, 6#3⟩, .floop ⟨0#3, 6#3, 1#6, 0#5⟩, .fwait ⟨0#3, 0#8⟩,
    .quant ⟨g0, 1#8, 2#8, 3#8, 4#8, .s8, .rne⟩, .deq ⟨g0, 1#8, 2#8, 3#8, 0#8, .f32, .rne⟩, .amax ⟨g0, 1#8, 2#8, .s8⟩,
    .cvtf ⟨g0, 1#8, 2#8, 3#8, .f8a, .rne, .sat⟩, .cpy ⟨g0, 1#8, 2#8, 4#8, 6#8, .core, 0#3, some ⟨.s8, .f32, .sat⟩⟩
    ] : List Instr), i.wf = false := by decide +kernel

/-! ### Single steps -/

/-- Thread 0 after an instruction of lane 0. -/
def lane0 (i : Instr) (s : State) : Option Thread :=
  match exec i s with
  | .next t => t.thread 0 0
  | .fault _ => none
  | .refused _ => none
/-- Register r of thread 0 after an instruction, its registers being as listed. -/
def result (i : Instr) (l : List (Nat × W32)) (r : Nat) : Option W32 := (lane0 i (lanes [0] (regs l))).map (·.get r)
/-- R113, R119: a sum wraps; a shift of the full width gives 0, and of one place less keeps one bit; the signed minimum; a product with a
negative immediate. By hand. -/
theorem test_integer_steps :
    result (.add ⟨g0, 1#8, 1#8, 2#8⟩) [(1, 0xFFFFFFFF#32), (2, 3#32)] 1 = some 2#32 ∧
    result (.shl ⟨g0, 3#8, 1#8, 2#8⟩) [(1, 0xFFFFFFFF#32), (2, 32#32)] 3 = some 0#32 ∧
    result (.shl ⟨g0, 3#8, 1#8, 2#8⟩) [(1, 3#32), (2, 31#32)] 3 = some 0x80000000#32 ∧
    result (.min ⟨g0, 3#8, 1#8, 2#8, false⟩) [(1, 0xFFFFFFFF#32), (2, 1#32)] 3 = some 0xFFFFFFFF#32 ∧
    result (.muli ⟨g0, 3#8, 1#8, 0xFFFFFFFD#32⟩) [(1, 7#32)] 3 = some 0xFFFFFFEB#32 := by decide +kernel
/-- R97, R98, R126: 1 + 2^-24 is a tie, to even under RNE and up under RUP, and inexact; x - x is +0, and -0 under RDN. By hand. -/
theorem test_float_steps :
    result (.fadd ⟨g0, 3#8, 1#8, 2#8, .rne, .f32⟩) [(1, 0x3F800000#32), (2, 0x33800000#32)] 3 = some 0x3F800000#32 ∧
    result (.fadd ⟨g0, 3#8, 1#8, 2#8, .rup, .f32⟩) [(1, 0x3F800000#32), (2, 0x33800000#32)] 3 = some 0x3F800001#32 ∧
    ((lane0 (.fadd ⟨g0, 3#8, 1#8, 2#8, .rne, .f32⟩) (lanes [0] (regs [(1, 0x3F800000#32), (2, 0x33800000#32)]))).map (·.flags)) = some 1#5 ∧
    result (.fsub ⟨g0, 3#8, 1#8, 1#8, .rne, .f32⟩) [(1, 0x3F800000#32)] 3 = some 0#32 ∧
    result (.fsub ⟨g0, 3#8, 1#8, 1#8, .rdn, .f32⟩) [(1, 0x3F800000#32)] 3 = some 0x80000000#32 := by decide +kernel
/-- R63, R142: a branch by -4 from 0x40000 goes to 0x3FFE0; R260, R62: a store of two bytes is little-endian and leaves the third. -/
theorem test_branch_and_store_steps :
    ((lane0 (.br ⟨g0, .none, 0xFFFFFFFC#32⟩) (lanes [0] (regs []))).map (·.pc)) = some 0x3FFE0#56 ∧
    (match exec (.st ⟨g0, 1#8, 2#8, none, .z16, .none, 4#25⟩) (lanes [0] (regs [(1, 0xAABBCCDD#32), (2, 0x50000#32)])) with
      | .next t => (t.byte 0x50004, t.byte 0x50005, t.byte 0x50006) == (0xDD#8, 0xCC#8, 0#8)
      | .fault _ => false
      | .refused _ => false) = true := by decide +kernel
/-- R59, R109: a step of a placed word runs it on every lane. -/
theorem test_step_runs_a_placed_word :
    (match step (State.reset.withFetchWord 64 (word [(8, 0x26), (5, 0), (8, 5), (8, 0), (3, 0), (32, 0x1234)])) with
      | .next t => (t.block 0).any fun b => b.threads.all fun x => x.get 5 == 0x1234#32 && x.pc == 0x40008#56
      | .fault _ => false
      | .refused _ => false) = true := by decide +kernel
/-- R155, R165, R166: a placed `kcmp.le.i q1:q2, k3, 5` issues at step 0, with two results in flight. -/
theorem test_step_runs_a_placed_bundle :
    (match step (State.reset.withFetchWord 32 (word [(6, 0x0C), (1, 0), (3, 0), (3, 1), (3, 2), (6, 3), (6, 5), (3, 6), (1, 1)])) with
      | .next t => (t.block 0).any fun b => b.tile.step == 1 && b.tile.fly.length == 2
      | .fault _ => false
      | .refused _ => false) = true := by decide +kernel
/-- R414: the digest of the three bytes "abc", as the standard gives it. -/
theorem test_digest : sha384 [0x61#8, 0x62#8, 0x63#8] =
    0xcb00753f45a35e8bb5a03d699ac65007272c32ab0eded1631a8b605a43ff5bed8086072ba1e7cc2358baeca134c825a7#384 := by decide +kernel
/-- Nothing is on the agenda at reset. -/
theorem test_reset_agenda : State.reset.agenda = [] := by decide

end Sys2Proof.Tests
end

section
/-! SUPPORT. A slot word whose guard reads false, and the words that slots hold (03_encodings.md R72). -/

namespace Sys2Proof.Proofs

open Sys2Proof Sys2Proof.Machine Sys2Proof.Laws

/-! ### The guard of a slot operation -/

/-- The guard GQ of a slot operation (R71); no other instruction has one. -/
def slotGuard? (i : Instr) : Option QReg :=
  match i with
  | .kadd o | .ksub o | .kmul o | .kand o | .kor o | .kxor o | .kshl o | .kshr o | .kmin o | .kmax o => some o.w.q
  | .kaddi o | .kmovi o | .kcmp o | .ksel o | .kld o | .kst o => some o.w.q
  | .scfg o | .sbase o | .sadv o | .sadvB o | .sgbt o | .sropeAdj o | .sropeHalf o | .sropeOff o => some o.w.q
  | .cbi o | .cbw o | .cbf o | .cbaF o | .cbaE o | .sscale o | .smask o => some o.w.q
  | .xpush o | .xshift o | .xacc o | .xdrain o | .xmask o | .xmode o => some o.w.q
  | .xswap w => some w.q
  | .yadd o | .ymul o | .yrsc o | .yexp o | .yrmax o | .yrsum o | .ymov o | .ycvt o | .ytr o => some o.w.q
  | .smst o | .smrg o | .ybarArv o | .ybarWt o => some o.w.q
  | .ccpy o | .ccpn o | .ccpnRing o | .cgath o | .cscat o | .ccwt o => some o.w.q
  | .fbr o | .fjmp o | .fjmpIndirect o | .fcall o | .fret o | .floop o | .ftrap o | .fbrk o | .ffence o | .fwait o => some o.q
  | .gret q => some q
  | _ => none

/-- Every slot operation is a `slotOp` under its guard: unfolded down to the operation its kind shares, it is one. -/
theorem exec_eq_slotOp {i : Instr} {q : QReg} (hi : slotGuard? i = some q) (s : State) : ∃ f, exec i s = slotOp q f s := by
  unfold slotGuard? at hi
  split at hi <;> cases hi <;>
    simp only [exec, execKadd, execKsub, execKmul, execKand, execKor, execKxor, execKshl, execKshr, execKmin, execKmax, execKaddi,
      execKmovi, execKcmp, execKsel, execKld, execKst, execScfg, execSbase, execSadv, execSadvB, execSgbt, execSropeAdj, execSropeHalf,
      execSropeOff, execCbi, execCbw, execCbf, execCbaF, execCbaE, execSscale, execSmask, execXpush, execXshift, execXacc, execXdrain,
      execXmask, execXmode, execXswap, execYadd, execYmul, execYrsc, execYexp, execYrmax, execYrsum, execYmov, execYcvt, execYtr,
      execSmst, execSmrg, execYbarArv, execYbarWt, execCcpy, execCcpn, execCcpnRing, execCgath, execCscat, execCcwt, execFbr, execFjmp,
      execFjmpIndirect, execFcall, execFret, execFloop, execFtrap, execFbrk, execFfence, execFwait, execGret,
      kOp, scalarOp, onStream, ropeOp, onRing, beat, y3, ySide, yReduce, yMoveOp, elementwise, slotCopy, branchTo] <;>
    exact ⟨_, rfl⟩

/-- A slot operation whose guard reads false leaves the state as it is. -/
theorem exec_eq_next_of_slotGuard {i : Instr} {q : QReg} {s : State} {b : Block} (hi : slotGuard? i = some q)
    (hb : s.block s.cur.blk = some b) (hq : b.tile.qreg q = false) : exec i s = .next s := by
  obtain ⟨f, hf⟩ := exec_eq_slotOp hi s
  rw [hf, slotOp_idle f hb hq]

/-- Predicate q reads false: it is not q0, and its bit is clear. -/
theorem qreg_eq_false {x : Tile} {q : QReg} (h0 : q ≠ 0#3) (hq : x.q.getLsbD q.toNat = false) : x.qreg q = false := by
  simp [Tile.qreg, h0, hq]

/-! ### The decoder puts GQ of the word in the operation -/

/-- Whatever a parser of word w answers has GQ of w as its guard. -/
def TakesGuard (w : W32) (o : Option Instr) : Prop := ∀ i, o = some i → slotGuard? i = some (w.extractLsb' 22 3)

theorem takesGuard_none (w : W32) : TakesGuard w none := fun _ h => nomatch h
theorem takesGuard_pure {w : W32} {i : Instr} : TakesGuard w (pure i) ↔ slotGuard? i = some (w.extractLsb' 22 3) := by
  simp [TakesGuard]
theorem takesGuard_bind {α : Type} {w : W32} {x : Option α} {f : α → Option Instr} :
    TakesGuard w (x >>= f) ↔ ∀ a, x = some a → TakesGuard w (f a) := by
  cases x <;> simp [TakesGuard]
theorem takesGuard_orElse {w : W32} {x y : Option Instr} (hx : TakesGuard w x) (hy : TakesGuard w y) : TakesGuard w (x <|> y) := by
  cases x with
  | none => exact hy
  | some i => exact hx

/-! A parser of a slot class answers nothing or builds one operation, whose slot fields are `slotOf` of the word. -/

theorem parseS_takesGuard (w : W32) : TakesGuard w (parseS w) := by
  unfold parseS
  split <;>
    simp only [takesGuard_none, takesGuard_pure, takesGuard_bind, slotGuard?, slotOf, implies_true, decKadd, decKsub, decKmul, decKand,
      decKor, decKxor, decKshl, decKshr, decKmin, decKmax, decKaddi, decKmovi, decKcmp, decKsel, decKld, decKst]
theorem parseM_takesGuard (w : W32) : TakesGuard w (parseM w) := by
  unfold parseM
  split <;>
    simp only [takesGuard_none, takesGuard_pure, takesGuard_bind, takesGuard_orElse, slotGuard?, slotOf, implies_true, decScfg,
      decSbase, decSadv, decSadvB, decSgbt, decSropeAdj, decSropeHalf, decSropeOff, decCbi, decCbw, decCbf, decCbaF, decCbaE, decSscale,
      decSmask]
theorem parseX_takesGuard (w : W32) : TakesGuard w (parseX w) := by
  unfold parseX
  split <;>
    simp only [takesGuard_none, takesGuard_pure, takesGuard_bind, slotGuard?, slotOf, implies_true, decXpush, decXswap, decXshift,
      decXacc, decXdrain, decXmask, decXmode]
theorem parseY_takesGuard (w : W32) : TakesGuard w (parseY w) := by
  unfold parseY
  split <;>
    simp only [takesGuard_none, takesGuard_pure, takesGuard_bind, takesGuard_orElse, slotGuard?, slotOf, implies_true, decYadd, decYmul,
      decYrsc, decYexp, decYrmax, decYrsum, decYmov, decYcvt, decYtr, decSmst, decSmrg, decYbarArv, decYbarWt]
theorem parseC_takesGuard (w : W32) : TakesGuard w (parseC w) := by
  unfold parseC
  split <;>
    simp only [takesGuard_none, takesGuard_pure, takesGuard_bind, takesGuard_orElse, slotGuard?, slotOf, implies_true, decCcpy, decCcpn,
      decCcpnRing, decCgath, decCscat, decCcwt]
theorem parseF_takesGuard (w : W32) : TakesGuard w (parseF w) := by
  unfold parseF
  split <;>
    simp only [takesGuard_none, takesGuard_pure, takesGuard_bind, takesGuard_orElse, slotGuard?, implies_true, decFbr, decFjmp,
      decFjmpIndirect, decFcall, decFret, decFloop, decGret, decFtrap, decFbrk, decFfence, decFwait]

theorem parseSlot_takesGuard (k : SlotClass) (w : W32) : TakesGuard w (parseSlot k w) := by
  cases k with
  | s => exact parseS_takesGuard w
  | m => exact parseM_takesGuard w
  | x => exact parseX_takesGuard w
  | y => exact parseY_takesGuard w
  | c => exact parseC_takesGuard w
  | f => exact parseF_takesGuard w

/-- What a checked parse answers is what was parsed. -/
theorem eq_some_of_checked {known : Bool} {o : Option Instr} {i : Instr} (h : checked known o = .ok i) : o = some i := by
  unfold checked at h
  split at h
  · cases h
  · split at h <;> cases h
    rfl

/-- The slot operation that a word decodes to has GQ of the word as its guard (R71). -/
theorem slotGuard_of_decodeSlot {k : SlotClass} {w : W32} {i : Instr} (h : decodeSlot k w = .ok i) :
    slotGuard? i = some (w.extractLsb' 22 3) := by
  unfold decodeSlot at h
  split at h
  · cases h
  · exact parseSlot_takesGuard k w i (eq_some_of_checked h)

/-- A word of class F with H set is refused (R72). -/
theorem decodeSlot_f_of_hold {w : W32} (h : w.getLsbD 25 = true) : decodeSlot .f w = .error .fields := by
  unfold decodeSlot
  simp [h]

/-! ### The done mask -/

/-- The sum of the powers 2^n, n < k, over the n of which p fails has exactly their bits. -/
theorem testBit_foldl_pow (p : Nat → Bool) (k i : Nat) :
    ((List.range k).foldl (fun m n => if p n then m else m + 2 ^ n) 0).testBit i = (decide (i < k) && !p i) := by
  induction k generalizing i with
  | zero => simp
  | succ k ih =>
    rw [List.range_succ, List.foldl_append, List.foldl_cons, List.foldl_nil]
    generalize (List.range k).foldl (fun m n => if p n then m else m + 2 ^ n) 0 = m at ih
    have hlt : m < 2 ^ k := Nat.lt_pow_two_of_testBit m fun j hj => by simp [ih, Nat.not_lt.mpr hj]
    have hor : 2 ^ k + m = 2 ^ k ||| m := by simpa using Nat.two_pow_add_eq_or_of_lt hlt 1
    have hk : i < k + 1 ↔ i < k ∨ k = i := by omega
    by_cases hp : p k
    · rw [if_pos hp, ih]
      by_cases hi : k = i
      · simp [← hi, hp]
      · simp [hk, hi]
    · rw [if_neg hp, Nat.add_comm, hor, Nat.testBit_or, Nat.testBit_two_pow, ih]
      by_cases hi : k = i
      · simp [← hi, hp]
      · simp [hk, hi]

/-- A slot whose guard reads false passes. -/
theorem mem_passedSlots {x : Tile} {l : List (Nat × W32 × Instr)} {e : Nat × W32 × Instr} (he : e ∈ l)
    (hq : x.qreg (e.2.1.extractLsb' 22 3) = false) : e.1 ∈ passedSlots x l :=
  List.mem_map_of_mem (List.mem_filter.mpr ⟨he, by simp [Machine.guardOf, hq]⟩)
/-- A slot whose guard reads false counts as done (R72). -/
theorem doneMask_of_passed {present notRun passed : List Nat} (faults : List (Nat × BitVec 512)) {n : Nat} (hn : n < 8)
    (hp : n ∈ passed) : (doneMask present notRun passed faults).getLsbD n = true := by
  unfold doneMask
  rw [BitVec.getLsbD_ofNat, testBit_foldl_pow]
  simp [hn, hp]

/-! ### The words that slots hold -/

/-- Slot n is present in a header's MASK when its bit is set (R69, R70). -/
theorem mem_slotsOf_maskOf {header : W32} {n : Nat} (hn : n < 8) : n ∈ slotsOf (maskOf header) ↔ header.getLsbD (31 - n) = true := by
  have h7 : 7 - n < 8 := by omega
  have h31 : 24 + (7 - n) = 31 - n := by omega
  simp [slotsOf, maskOf, hn, BitVec.getLsbD_extractLsb', h7, h31, -BitVec.getLsbD_eq_getElem]

theorem find?_erase_self {α : Type} (t : Tbl α) (k : Nat) : (Tbl.erase t k).find? (·.1 == k) = none := by
  simp [Tbl.erase]
theorem find?_erase_ne {α : Type} (t : Tbl α) {k n : Nat} (h : n ≠ k) : (Tbl.erase t k).find? (·.1 == n) = t.find? (·.1 == n) := by
  unfold Tbl.erase
  rw [List.find?_filter]
  congr 1
  funext e
  by_cases he : e.1 = n <;> simp [he, h]
theorem find?_insert_self {α : Type} (t : Tbl α) (k : Nat) (v : α) : (Tbl.insert k v t).find? (·.1 == k) = some (k, v) := by
  induction t with
  | nil => simp [Tbl.insert]
  | cons e t ih =>
    by_cases h : e.1 < k
    · simp [Tbl.insert, h, ih, Nat.ne_of_lt h]
    · simp [Tbl.insert, h]
theorem find?_insert_ne {α : Type} (t : Tbl α) {k n : Nat} (v : α) (h : n ≠ k) :
    (Tbl.insert k v t).find? (·.1 == n) = t.find? (·.1 == n) := by
  induction t with
  | nil => simp [Tbl.insert, h.symm]
  | cons e t ih =>
    by_cases he : e.1 < k
    · simp [Tbl.insert, he, List.find?_cons, ih]
    · simp [Tbl.insert, he, List.find?_cons, h.symm]

/-- The holds after the present slot n of a bundle with these explicit words (R72). -/
def holdSlot (words : List (Nat × W32)) (t : Tbl W32) (n : Nat) : Tbl W32 :=
  match words.find? (·.1 == n) with
  | some w => if w.2.getLsbD 25 then Tbl.insert n w.2 (Tbl.erase t n) else Tbl.erase t n
  | none => Tbl.erase t n

/-- The holds after a bundle are those after its present slots, one after another. -/
theorem heldAfter_eq_foldl (x : Tile) (header : W32) (words : List (Nat × W32)) :
    heldAfter x header words = (slotsOf (maskOf header)).foldl (holdSlot words) x.held := rfl

theorem find?_holdSlot_self {words : List (Nat × W32)} (t : Tbl W32) {n : Nat} {w : W32} (hw : words.find? (·.1 == n) = some (n, w)) :
    (holdSlot words t n).find? (·.1 == n) = if w.getLsbD 25 then some (n, w) else none := by
  simp only [holdSlot, hw]
  split
  · exact find?_insert_self _ n w
  · exact find?_erase_self t n
theorem find?_holdSlot_ne (words : List (Nat × W32)) (t : Tbl W32) {m n : Nat} (h : n ≠ m) :
    (holdSlot words t m).find? (·.1 == n) = t.find? (·.1 == n) := by
  unfold holdSlot
  split
  · split
    · rw [find?_insert_ne _ _ h, find?_erase_ne t h]
    · exact find?_erase_ne t h
  · exact find?_erase_ne t h

/-- Slots that are not present keep their holds. -/
theorem find?_foldl_holdSlot_of_notMem (words : List (Nat × W32)) {n : Nat} {l : List Nat} (hn : n ∉ l) (t : Tbl W32) :
    (l.foldl (holdSlot words) t).find? (·.1 == n) = t.find? (·.1 == n) := by
  induction l generalizing t with
  | nil => rfl
  | cons m l ih =>
    obtain ⟨hm, hl⟩ := List.ne_and_not_mem_of_not_mem_cons hn
    rw [List.foldl_cons, ih hl, find?_holdSlot_ne words t hm]
/-- A present slot holds its explicit word, if that has H, and nothing else. -/
theorem find?_foldl_holdSlot_of_mem {words : List (Nat × W32)} {n : Nat} {w : W32} (hw : words.find? (·.1 == n) = some (n, w))
    {l : List Nat} (hn : n ∈ l) (t : Tbl W32) :
    (l.foldl (holdSlot words) t).find? (·.1 == n) = if w.getLsbD 25 then some (n, w) else none := by
  induction l generalizing t with
  | nil => cases hn
  | cons m l ih =>
    rw [List.foldl_cons]
    by_cases hl : n ∈ l
    · exact ih hl _
    · obtain rfl : n = m := (List.mem_cons.mp hn).resolve_right hl
      rw [find?_foldl_holdSlot_of_notMem words hl, find?_holdSlot_self t hw]

/-- Loops that advance leave the holds. -/
theorem stepLoops_held (x : Tile) (l : List Loop) : (stepLoops x l).1.held = x.held := by
  induction l generalizing x with
  | nil => rfl
  | cons y l ih =>
    unfold stepLoops
    split
    · split
      · rfl
      · exact ih _
    · rfl
/-- In the lock, with no branch in progress, a bundle that closes leaves the holds of R72. -/
theorem closeStep_held {b : Block} (a : Addr) (header : W32) (words : List (Nat × W32)) (hl : b.inLock = true)
    (hd : b.tile.delay = none) : (b.closeStep a header words).tile.held = heldAfter b.tile header words := by
  simp [Block.closeStep, hl, hd, Tile.advanceLoops, stepLoops_held]

/-- A held word stands in its slot in a bundle that has no word there (R72, R157). -/
theorem mem_effective_of_held {x : Tile} {u : Bundle} {acc n : Nat} {w : W32} {i : Instr} (hn : n < 8)
    (hm : u.header.getLsbD (31 - n) = false) (hu : u.words.find? (·.1 == n) = none) (hh : x.held.find? (·.1 == n) = some (n, w))
    (hi : decodeWord acc true n w = .ok i) : (n, w, i) ∈ effective x u acc := by
  have hs : n ∉ slotsOf (maskOf u.header) := by simp [mem_slotsOf_maskOf hn, hm, -BitVec.getLsbD_eq_getElem]
  refine List.mem_filterMap.mpr ⟨n, List.mem_range.mpr hn, ?_⟩
  simp [hu, hs, hh, hi]

/-- Settles O47: every slot operation is a `slotOp` under the GQ of its word, a slot that passed is never open in the done mask, and a
bundle writes the hold of its present slots alone. -/
theorem falseGuardIssuesNothing : Obligations.FalseGuardIssuesNothing := by
  unfold Obligations.FalseGuardIssuesNothing
  refine ⟨?issues, ?done, ?holds, ?stands, ?ill⟩
  case issues =>
    intro s b n w i _ hi hb h0 hq
    exact exec_eq_next_of_slotGuard (slotGuard_of_decodeSlot hi) hb (qreg_eq_false h0 hq)
  case done =>
    intro x l present notRun faults e he hn h0 hq
    have hp : e.1 ∈ passedSlots x l := mem_passedSlots he (qreg_eq_false h0 hq)
    exact doneMask_of_passed faults hn hp
  case holds =>
    intro b a header words hl hd
    simp only [closeStep_held a header words hl hd, heldAfter_eq_foldl]
    refine ⟨fun n w hn hm hw => ?_, fun n hn hm => ?_⟩
    · exact find?_foldl_holdSlot_of_mem hw ((mem_slotsOf_maskOf hn).mpr hm) _
    · exact find?_foldl_holdSlot_of_notMem words (by simp [mem_slotsOf_maskOf hn, hm, -BitVec.getLsbD_eq_getElem]) _
  case stands =>
    intro x u acc n w hn hm hu hh
    exact ⟨fun i hi => mem_effective_of_held hn hm hu hh hi, fun _ => rfl⟩
  case ill =>
    intro acc dp w hw
    unfold decodeWord
    rw [show slotClass 7 = .f from rfl, decodeSlot_f_of_hold hw]

end Sys2Proof.Proofs
end

section
/-! SUPPORT. The trap frame: the fields its bytes hold, and what is read back (17_faults_preemption.md R371). -/

namespace Sys2Proof.Proofs

open Sys2Proof Sys2Proof.Machine Sys2Proof.Laws

/-! ### Fields of a list of bytes -/

/-- The n bytes from an offset on are those of a number, least significant first. -/
def FieldAt (l : List Byte) (off n v : Nat) : Prop := (l.drop off).take n = leBytes n v

/-- A field that the bytes begin with. -/
@[simp] theorem fieldAt_head (n v : Nat) (q : List Byte) : FieldAt (leBytes n v ++ q) 0 n v := by
  simp [FieldAt]
/-- A field behind other bytes is one of the rest. -/
theorem fieldAt_append {p q : List Byte} {off n v : Nat} (h : p.length ≤ off) :
    FieldAt (p ++ q) off n v ↔ FieldAt q (off - p.length) n v := by
  rw [FieldAt, List.drop_append, List.drop_of_length_le h, List.nil_append, FieldAt]

/-- Each byte of a field. -/
theorem FieldAt.getElem? {l : List Byte} {off n v i : Nat} (h : FieldAt l off n v) (hi : i < n) :
    l[off + i]? = some (BitVec.ofNat 8 (v / 256 ^ i)) := by
  rw [← getElem_leBytes n v i hi, ← h, List.getElem?_take_of_lt hi, List.getElem?_drop]

/-- The words of a list of bytes, each read at its own offset. -/
theorem words32_eq_map (n : Nat) (l : List Byte) :
    words32 n l = (List.range n).map fun k => BitVec.ofNat 32 (leNat ((l.drop (4 * k)).take 4)) := by
  induction n generalizing l with
  | zero => rfl
  | succ n ih =>
    rw [words32, ih, List.range_succ_eq_map]
    simp [Nat.mul_succ, Nat.add_comm]

/-- Words written one behind the other: each is a field of its own. -/
theorem fieldAt_flatMap {l : List W32} {k : Nat} {v : W32} (h : l[k]? = some v) :
    FieldAt (l.flatMap fun v => leBytes 4 v.toNat) (4 * k) 4 v.toNat := by
  induction l generalizing k with
  | nil => simp at h
  | cons w l ih =>
    cases k with
    | zero =>
      obtain rfl : w = v := by simpa using h
      exact fieldAt_head ..
    | succ k => simpa [fieldAt_append, Nat.mul_succ] using ih (by simpa using h)

/-- Byte i of a word. -/
theorem extractLsb'_byte {w : Nat} (r : BitVec w) (i : Nat) : r.extractLsb' (8 * i) 8 = BitVec.ofNat 8 (r.toNat / 256 ^ i) := by
  rw [BitVec.extractLsb', Nat.shiftRight_eq_div_pow, Nat.pow_mul]

/-- Each byte of a field that holds a word. -/
theorem FieldAt.byte {l : List Byte} {off n i w : Nat} {r : BitVec w} (h : FieldAt l off n r.toNat) (hi : i < n) :
    l[off + i]? = some (r.extractLsb' (8 * i) 8) := by
  rw [h.getElem? hi, extractLsb'_byte]

/-- A field that holds a word is read as that word. -/
theorem FieldAt.leNat_eq_toNat {l : List Byte} {off n w : Nat} {r : BitVec w} (h : FieldAt l off n r.toNat) (hw : w ≤ 8 * n) :
    leNat ((l.drop off).take n) = r.toNat := by
  have hlt : r.toNat < 256 ^ n := calc
    r.toNat < 2 ^ w := r.isLt
    _ ≤ 2 ^ (8 * n) := Nat.pow_le_pow_right (by decide) hw
    _ = 256 ^ n := Nat.pow_mul ..
  rw [h, leNat_leBytes, Nat.mod_eq_of_lt hlt]

/-! ### The word of the predicates, the flags, HOME and PRIV -/

/-- The word of a frame (R371): p0 to p15 with p0 as 1, the flags, HOME and PRIV. -/
def frameWord (x : Thread) : W32 :=
  0#9 ++ BitVec.ofBool x.sys ++ BitVec.ofBool x.home ++ x.flags ++ (x.preds ||| 1#16)

/-- Two vectors joined, as a sum. -/
theorem toNat_append_eq_add {m n : Nat} (a : BitVec m) (b : BitVec n) : (a ++ b).toNat = a.toNat * 2 ^ n + b.toNat := by
  rw [BitVec.toNat_append, ← Nat.shiftLeft_add_eq_or_of_lt b.isLt, Nat.shiftLeft_eq]

/-- The word's parts, added up. -/
theorem toNat_frameWord (x : Thread) :
    (frameWord x).toNat = (x.preds ||| 1#16).toNat + x.flags.toNat * 2 ^ 16 + x.home.toNat * 2 ^ 21 + x.sys.toNat * 2 ^ 22 := by
  simp only [frameWord, toNat_append_eq_add, BitVec.toNat_ofBool, BitVec.toNat_ofNat]
  omega

/-- The parts that are read back from the word. -/
theorem frameWord_parts (x : Thread) :
    (frameWord x).toNat % 2 ^ 16 = (x.preds ||| 1#16).toNat ∧ (frameWord x).toNat / 2 ^ 16 % 32 = x.flags.toNat ∧
    (frameWord x).toNat / 2 ^ 21 % 2 = x.home.toNat ∧ (frameWord x).toNat / 2 ^ 22 = x.sys.toNat := by
  have hp := (x.preds ||| 1#16).isLt
  have hf := x.flags.isLt
  have hh := x.home.toNat_lt
  rw [toNat_frameWord]
  omega

/-- The word bit by bit. -/
theorem getLsbD_frameWord (x : Thread) (i : Nat) : (frameWord x).getLsbD i =
    if i = 0 then true else if i < 16 then x.preds.getLsbD i else if i < 21 then x.flags.getLsbD (i - 16)
    else if i = 21 then x.home else if i = 22 then x.sys else false := by
  have hflags : i - 16 < 5 ↔ i < 21 := by omega
  have hhome : i - 16 - 5 < 1 ↔ i < 22 := by omega
  have hpriv : i - 16 - 5 - 1 < 1 ↔ i < 23 := by omega
  simp only [frameWord, BitVec.getLsbD_append, BitVec.getLsbD_or, BitVec.getLsbD_one, BitVec.getLsbD_ofBool, BitVec.getLsbD_zero,
    hflags, hhome, hpriv]
  grind

/-! ### The fields of a trap frame -/

section Fields
variable (x : Thread) (nregs : Nat) (r : BitVec 512) (rpc : Addr)

theorem length_frameBytes : (frameBytes x nregs r rpc).length = 128 + 4 * nregs := by
  have hregs : ((x.getRun 0 nregs).flatMap fun v => leBytes 4 v.toNat).length = 4 * nregs := by
    simp [Thread.getRun, List.length_flatMap, Function.comp_def, Nat.mul_comm]
  simp only [frameBytes, List.length_append, length_leBytes, hregs]

theorem frameBytes_record : FieldAt (frameBytes x nregs r rpc) 0 64 r.toNat := by
  simp [frameBytes]
theorem frameBytes_rpc : FieldAt (frameBytes x nregs r rpc) 0x40 8 rpc.toNat := by
  simp [frameBytes, fieldAt_append]
theorem frameBytes_word : FieldAt (frameBytes x nregs r rpc) 0x48 4 (frameWord x).toNat := by
  simp [frameBytes, fieldAt_append, toNat_frameWord, -BitVec.toNat_or]
theorem frameBytes_amax : FieldAt (frameBytes x nregs r rpc) 0x4C 4 x.amax.toNat := by
  simp [frameBytes, fieldAt_append]
theorem frameBytes_zero : FieldAt (frameBytes x nregs r rpc) 0x50 48 0 := by
  simp [frameBytes, fieldAt_append]
theorem frameBytes_reg {k : Nat} (hk : k < nregs) : FieldAt (frameBytes x nregs r rpc) (0x80 + 4 * k) 4 (x.get k).toNat := by
  have h : (x.getRun 0 nregs)[k]? = some (x.get k) := by simp [Thread.getRun, hk]
  rw [frameBytes, fieldAt_append (by simp)]
  simpa using fieldAt_flatMap h

/-- Byte 7 of the address to resume at is zero: addresses have 56 bits. -/
theorem frameBytes_rpc_top : (frameBytes x nregs r rpc)[0x47]? = some 0#8 := by
  rw [(frameBytes_rpc x nregs r rpc).getElem? (i := 7) (by decide), Nat.div_eq_of_lt (by simpa using rpc.isLt)]

/-- What is read back from a frame's bytes. -/
theorem parseFrame_frameBytes : parseFrame nregs (frameBytes x nregs r rpc) =
    { record := r, rpc := rpc.toNat, word := (frameWord x).toNat, amax := x.amax, regs := (List.range nregs).map x.get } := by
  have hrec := (frameBytes_record x nregs r rpc).leNat_eq_toNat le_rfl
  have hrpc := (frameBytes_rpc x nregs r rpc).leNat_eq_toNat (by decide)
  have hword := (frameBytes_word x nregs r rpc).leNat_eq_toNat le_rfl
  have hamax := (frameBytes_amax x nregs r rpc).leNat_eq_toNat le_rfl
  have hregs : words32 nregs ((frameBytes x nregs r rpc).drop 128) = (List.range nregs).map x.get := by
    rw [words32_eq_map]
    refine List.map_congr_left fun k hk => ?_
    have hreg := (frameBytes_reg x nregs r rpc (List.mem_range.mp hk)).leNat_eq_toNat le_rfl
    rw [List.drop_drop, hreg, BitVec.ofNat_toNat, BitVec.setWidth_eq]
  rw [List.drop_zero] at hrec
  simp [parseFrame, hrec, hrpc, hword, hamax, hregs]

end Fields

/-! ### The thread restored -/

/-- The predicates that a restore takes from the word do not depend on its bit 0. -/
theorem preds_eq_of_half_eq {u v : Nat} (h : v / 2 = u / 2) : BitVec.ofNat 16 v &&& 0xFFFE#16 = BitVec.ofNat 16 u &&& 0xFFFE#16 := by
  refine BitVec.eq_of_getLsbD_eq fun i _ => ?_
  rw [BitVec.getLsbD_and, BitVec.getLsbD_and]
  cases i with
  | zero => simp
  | succ i =>
    have hbit : (BitVec.ofNat 16 v).getLsbD (i + 1) = (BitVec.ofNat 16 u).getLsbD (i + 1) := by
      rw [BitVec.getLsbD_ofNat, BitVec.getLsbD_ofNat, Nat.testBit_succ, Nat.testBit_succ, h]
    rw [hbit]

/-- p0 is ignored on restore (R371). -/
theorem restore_eq_of_half_eq (t : Thread) (tid : Nat) {f : Frame} {v : Nat} (h : v / 2 = f.word / 2) :
    t.restore tid { f with word := v } = t.restore tid f := by
  have hflags : v / 2 ^ 16 = f.word / 2 ^ 16 := by omega
  have hhome : v / 2 ^ 21 = f.word / 2 ^ 21 := by omega
  have hpriv : v / 2 ^ 22 = f.word / 2 ^ 22 := by omega
  unfold Thread.restore Frame.home Frame.isGate
  rw [preds_eq_of_half_eq h, hflags, hhome, hpriv]

/-- Settles O19: each field of the frame's bytes is the little-endian image of a word, which gives its bytes and what is read back. -/
theorem frameLayoutRoundTrip : Obligations.FrameLayoutRoundTrip := by
  unfold Obligations.FrameLayoutRoundTrip
  refine ⟨fun s b tid n _ => ?place, fun x nregs r rpc => ⟨length_frameBytes .., ?record, ?rpc, frameBytes_rpc_top .., ?word, ?amax, ?zero,
    ?regs, ?back⟩⟩
  case place =>
    simp [State.trapFrame, State.frameRegion, ownerSlot, BitVec.extractLsb'_toNat, Nat.shiftRight_eq_div_pow]
  case record =>
    intro i hi
    simpa using (frameBytes_record x nregs r rpc).byte hi
  case rpc => exact fun i hi => (frameBytes_rpc x nregs r rpc).byte (by omega)
  case word => exact ⟨frameWord x, fun i hi => (frameBytes_word x nregs r rpc).byte hi, fun i _ => getLsbD_frameWord x i⟩
  case amax => exact fun i hi => (frameBytes_amax x nregs r rpc).byte hi
  case zero =>
    intro i hi
    simpa using (frameBytes_zero x nregs r rpc).getElem? hi
  case regs => exact fun k i hk hi => (frameBytes_reg x nregs r rpc hk).byte hi
  case back =>
    rw [parseFrame_frameBytes]
    obtain ⟨hpreds, hflags, hhome, hpriv⟩ := frameWord_parts x
    exact ⟨rfl, rfl, rfl, rfl, hpreds, hflags, hhome, hpriv, fun t tid _ hv => restore_eq_of_half_eq t tid hv⟩

end Sys2Proof.Proofs
end
